-- ==== Sys2Proof/Word.lean ====
section
/-! DEFINITION. The word types of the D480 and their plainest readings (spec/00_scope.md R3, spec/06_number_formats.md R114). -/

namespace Sys2Proof

/-- A 32-bit register, latch or instruction word. -/
abbrev Word := BitVec 32
/-- A 64-bit register or address (an even/odd pair). -/
abbrev DWord := BitVec 64
/-- One byte. -/
abbrev Byte := BitVec 8

/-- Memory: (address, byte) pairs, addresses strictly rising, no listed byte zero. -/
abbrev Memory := List (Nat × Byte)

/-- A sparse table of `n`-bit words: an unlisted key reads zero. -/
abbrev CMap (n : Nat) := List (Nat × BitVec n)

/-- A sparse table of records. -/
abbrev FMap (α : Type) := List (Nat × α)

end Sys2Proof
end

