-- ==== Sys2Proof/Machine/Map.lean ====
section
/-! DEFINITION. Sparse tables: records by number (FMap), words by number with an unlisted word reading zero (CMap;
memory is CMap 8). Writes keep the keys strictly rising and list no zero, so equal tables are equal data. -/

namespace Sys2Proof

/-- The record at a key. -/
def FMap.get? {α : Type} : FMap α → Nat → Option α
  | [], _ => none
  | (j, v) :: t, k => if j = k then some v else FMap.get? t k

/-- The record at a key, or a default. -/
def FMap.getD {α : Type} (m : FMap α) (k : Nat) (d : α) : α := (FMap.get? m k).getD d

/-- The table without a key. -/
def FMap.erase {α : Type} : FMap α → Nat → FMap α
  | [], _ => []
  | (j, v) :: t, k => if j = k then FMap.erase t k else (j, v) :: FMap.erase t k

/-- Insertion before the first larger key. -/
def FMap.ins {α : Type} : FMap α → Nat → α → FMap α
  | [], k, x => [(k, x)]
  | (j, v) :: t, k, x => if k < j then (k, x) :: (j, v) :: t else (j, v) :: FMap.ins t k x

/-- The table with a key set. -/
def FMap.set {α : Type} (m : FMap α) (k : Nat) (x : α) : FMap α := FMap.ins (FMap.erase m k) k x

/-- The word at a key; an unlisted word reads zero. -/
def CMap.get {n : Nat} (m : CMap n) (k : Nat) : BitVec n := (FMap.get? m k).getD 0

/-- The table with a word written; writing zero removes the entry. -/
def CMap.set {n : Nat} (m : CMap n) (k : Nat) (x : BitVec n) : CMap n :=
  if x = 0 then FMap.erase m k else FMap.ins (FMap.erase m k) k x

/-- Several words written in order. -/
def CMap.setMany {n : Nat} (m : CMap n) (l : List (Nat × BitVec n)) : CMap n :=
  l.foldl (fun m x => CMap.set m x.1 x.2) m

/-- Keys strictly rising from a bound, no zero listed. -/
def CMap.okFrom {n : Nat} : Nat → CMap n → Bool
  | _, [] => true
  | lo, (k, v) :: t => decide (lo ≤ k) && decide (v ≠ 0) && CMap.okFrom (k + 1) t

/-- The canonical form of a table of words (for memory: Memory.wf). -/
def CMap.ok {n : Nat} (m : CMap n) : Bool := CMap.okFrom 0 m

/-- The canonical form of memory. -/
def Memory.wf (m : Memory) : Bool := CMap.okFrom 0 m

/-- `n` bytes from address `a` as one little-endian number (R3). -/
def Memory.read (m : Memory) (a : Nat) : Nat → Nat
  | 0 => 0
  | n + 1 => (CMap.get m a).toNat + 256 * Memory.read m (a + 1) n

/-- The low `n` bytes of `x` written little-endian at `a` (R3). -/
def Memory.write (m : Memory) (a : Nat) : Nat → Nat → Memory
  | 0, _ => m
  | n + 1, x => Memory.write (CMap.set m a (BitVec.ofNat 8 x)) (a + 1) n (x / 256)

/-- A list of bytes written from an address upward. -/
def Memory.writeBytes (m : Memory) (a : Nat) : List Byte → Memory
  | [] => m
  | b :: t => Memory.writeBytes (CMap.set m a b) (a + 1) t

/-- `n` bytes from an address upward. -/
def Memory.bytes (m : Memory) (a : Nat) : Nat → List Byte
  | 0 => []
  | n + 1 => CMap.get m a :: Memory.bytes m (a + 1) n

/-- A list of bytes as one little-endian number. -/
def leNat : List Byte → Nat
  | [] => 0
  | b :: t => b.toNat + 256 * leNat t

/-- The low `n` bytes of a number, lowest first. -/
def leBytes (x : Nat) : Nat → List Byte
  | 0 => []
  | n + 1 => BitVec.ofNat 8 x :: leBytes (x / 256) n

end Sys2Proof
end

