-- ==== Sys2Proof/Syntax.lean ====
section
/-! DEFINITION. The instructions: one constructor per row of spec/opcode_table.json. The 196 words of
spec/13_formats_and_opcode_map.md R238 carry the fields the table gives them, as bit vectors; the events of the
device carry which unit they concern and what the outside supplied with them (log 2). -/

namespace Sys2Proof

/-- One instruction or event of the D480. -/
inductive Instr where
  /-- NOP (R243). Does nothing; it is not guarded, writes no latch and is not a switch point. -/
  | nop
  /-- MODE (R236). Writes gm[18:0] (type, source type, rounding, saturation, flush, guard) from the immediate. -/
  | mode (i : BitVec 19)
  /-- MSHAPE (R236). Writes the matrix shape n and M into gm[26:19]. -/
  | mshape (m : BitVec 2) (n : BitVec 6)
  /-- LIT (R244). Shifts the sign-extended 24-bit immediate into fw0 of every ACTIVE lane. -/
  | lit (i : BitVec 24)
  /-- LITH (R244). Replaces the upper half of fw0 in place, faulting LATCH where fw0 is dead. -/
  | lith (i : BitVec 16)
  /-- MOV (R243). Copies a source selector into a vector register in each ACTIVE lane. -/
  | mov (w : BitVec 1) (d : BitVec 7) (a : BitVec 8)
  /-- MOVS (R245). Writes a scalar register from the lowest ACTIVE lane's source value. -/
  | movs (w : BitVec 1) (d : BitVec 7) (a : BitVec 8)
  /-- SEL (R245). Selects each element from a or b by whether the element of vD is nonzero. -/
  | sel (w : BitVec 1) (d : BitVec 7) (a : BitVec 8) (b : BitVec 8)
  /-- ADD (R247). Integer element-wise addition, wrapping or saturating. -/
  | add (w : BitVec 1) (d : BitVec 7) (a : BitVec 8) (b : BitVec 8)
  /-- SUB (R247). Integer element-wise subtraction, wrapping or saturating. -/
  | sub (w : BitVec 1) (d : BitVec 7) (a : BitVec 8) (b : BitVec 8)
  /-- MUL (R247). Integer element-wise multiply, low bits or saturated. -/
  | mul (w : BitVec 1) (d : BitVec 7) (a : BitVec 8) (b : BitVec 8)
  /-- MULH (R247). High w bits of the 2w-bit integer product. -/
  | mulh (w : BitVec 1) (d : BitVec 7) (a : BitVec 8) (b : BitVec 8)
  /-- MAD (R247). Integer multiply-add with D as the addend, one exact sum. -/
  | mad (w : BitVec 1) (d : BitVec 7) (a : BitVec 8) (b : BitVec 8)
  /-- MIN (R247). Integer element-wise minimum. -/
  | min (w : BitVec 1) (d : BitVec 7) (a : BitVec 8) (b : BitVec 8)
  /-- MAX (R247). Integer element-wise maximum. -/
  | max (w : BitVec 1) (d : BitVec 7) (a : BitVec 8) (b : BitVec 8)
  /-- ABS (R247). Integer element-wise absolute value. -/
  | abs (w : BitVec 1) (d : BitVec 7) (a : BitVec 8)
  /-- NEG (R247). Integer element-wise negation. -/
  | neg (w : BitVec 1) (d : BitVec 7) (a : BitVec 8)
  /-- AND (R248). Bitwise AND. -/
  | and (w : BitVec 1) (d : BitVec 7) (a : BitVec 8) (b : BitVec 8)
  /-- OR (R248). Bitwise OR. -/
  | or (w : BitVec 1) (d : BitVec 7) (a : BitVec 8) (b : BitVec 8)
  /-- XOR (R248). Bitwise XOR. -/
  | xor (w : BitVec 1) (d : BitVec 7) (a : BitVec 8) (b : BitVec 8)
  /-- ANDN (R248). Bitwise a AND NOT b. -/
  | andn (w : BitVec 1) (d : BitVec 7) (a : BitVec 8) (b : BitVec 8)
  /-- NOT (R248). Bitwise NOT. -/
  | not (w : BitVec 1) (d : BitVec 7) (a : BitVec 8)
  /-- SHL (R248). Logical shift left per element. -/
  | shl (w : BitVec 1) (d : BitVec 7) (a : BitVec 8) (b : BitVec 8)
  /-- SHR (R248). Logical shift right per element. -/
  | shr (w : BitVec 1) (d : BitVec 7) (a : BitVec 8) (b : BitVec 8)
  /-- SAR (R248). Arithmetic shift right per element. -/
  | sar (w : BitVec 1) (d : BitVec 7) (a : BitVec 8) (b : BitVec 8)
  /-- ROT (R248). Rotate left per element. -/
  | rot (w : BitVec 1) (d : BitVec 7) (a : BitVec 8) (b : BitVec 8)
  /-- CLZ (R249). Counts leading zero bits per element. -/
  | clz (w : BitVec 1) (d : BitVec 7) (a : BitVec 8)
  /-- CTZ (R249). Counts trailing zero bits per element. -/
  | ctz (w : BitVec 1) (d : BitVec 7) (a : BitVec 8)
  /-- POPC (R249). Counts one bits per element. -/
  | popc (w : BitVec 1) (d : BitVec 7) (a : BitVec 8)
  /-- BREV (R249). Reverses the bits of each element. -/
  | brev (w : BitVec 1) (d : BitVec 7) (a : BitVec 8)
  /-- BSWAP (R249). Reverses the bytes of each element. -/
  | bswap (w : BitVec 1) (d : BitVec 7) (a : BitVec 8)
  /-- BFX (R250). Extracts a bit field, sign- or zero-extended. -/
  | bfx (w : BitVec 1) (d : BitVec 7) (a : BitVec 8) (b : BitVec 8)
  /-- BFI (R250). Inserts a bit field into the D base value. -/
  | bfi (w : BitVec 1) (d : BitVec 7) (a : BitVec 8) (b : BitVec 8)
  /-- LEA1 (R251). Computes a + b times 2 modulo 2^w. -/
  | lea1 (w : BitVec 1) (d : BitVec 7) (a : BitVec 8) (b : BitVec 8)
  /-- LEA2 (R251). Computes a + b times 4 modulo 2^w. -/
  | lea2 (w : BitVec 1) (d : BitVec 7) (a : BitVec 8) (b : BitVec 8)
  /-- LEA3 (R251). Computes a + b times 8 modulo 2^w. -/
  | lea3 (w : BitVec 1) (d : BitVec 7) (a : BitVec 8) (b : BitVec 8)
  /-- LEA4 (R251). Computes a + b times 16 modulo 2^w. -/
  | lea4 (w : BitVec 1) (d : BitVec 7) (a : BitVec 8) (b : BitVec 8)
  /-- ABSD (R247). Absolute difference as an unsigned value. -/
  | absd (w : BitVec 1) (d : BitVec 7) (a : BitVec 8) (b : BitVec 8)
  /-- AVG (R247). Rounded-up average of two elements. -/
  | avg (w : BitVec 1) (d : BitVec 7) (a : BitVec 8) (b : BitVec 8)
  /-- DOT4 (R252). Four-byte dot product accumulated into a 32-bit D. -/
  | dot4 (w : BitVec 1) (d : BitVec 7) (a : BitVec 8) (b : BitVec 8)
  /-- DOTQ (R252). Eight-nibble dot product accumulated into a 32-bit D. -/
  | dotq (w : BitVec 1) (d : BitVec 7) (a : BitVec 8) (b : BitVec 8)
  /-- PACK2 (R253). Narrows two 32-bit values into two 16-bit elements. -/
  | pack2 (w : BitVec 1) (d : BitVec 7) (a : BitVec 8) (b : BitVec 8)
  /-- PRMB (R253). Permutes bytes of b:a under the D selector. -/
  | prmb (w : BitVec 1) (d : BitVec 7) (a : BitVec 8) (b : BitVec 8)
  /-- CEQ (R254). Writes a predicate with a = b. -/
  | ceq (d : BitVec 3) (a : BitVec 8) (b : BitVec 8)
  /-- CNE (R254). Writes a predicate with a ≠ b or unordered. -/
  | cne (d : BitVec 3) (a : BitVec 8) (b : BitVec 8)
  /-- CLT (R254). Writes a predicate with a < b. -/
  | clt (d : BitVec 3) (a : BitVec 8) (b : BitVec 8)
  /-- CLE (R254). Writes a predicate with a ≤ b. -/
  | cle (d : BitVec 3) (a : BitVec 8) (b : BitVec 8)
  /-- CGT (R254). Writes a predicate with a > b. -/
  | cgt (d : BitVec 3) (a : BitVec 8) (b : BitVec 8)
  /-- CGE (R254). Writes a predicate with a ≥ b. -/
  | cge (d : BitVec 3) (a : BitVec 8) (b : BitVec 8)
  /-- CUN (R255). Writes a predicate true where any element of a or b is NaN. -/
  | cun (d : BitVec 3) (a : BitVec 8) (b : BitVec 8)
  /-- CTST (R255). Writes a predicate true where a AND b is nonzero over the whole register. -/
  | ctst (d : BitVec 3) (a : BitVec 8) (b : BitVec 8)
  /-- PAND (R256). Predicate AND with optional negation of each source. -/
  | pand (d : BitVec 3) (n : BitVec 1) (a : BitVec 3) (m : BitVec 1) (b : BitVec 3)
  /-- POR (R256). Predicate OR. -/
  | por (d : BitVec 3) (n : BitVec 1) (a : BitVec 3) (m : BitVec 1) (b : BitVec 3)
  /-- PXOR (R256). Predicate XOR. -/
  | pxor (d : BitVec 3) (n : BitVec 1) (a : BitVec 3) (m : BitVec 1) (b : BitVec 3)
  /-- PNOT (R256). Predicate NOT. -/
  | pnot (d : BitVec 3) (n : BitVec 1) (a : BitVec 3)
  /-- PMOV (R256). Predicate copy. -/
  | pmov (d : BitVec 3) (n : BitVec 1) (a : BitVec 3)
  /-- PGET (R256). Writes p7 to p0 as a bit mask into a vector register. -/
  | pget (w : BitVec 1) (d : BitVec 7)
  /-- FADD (R262). Correctly rounded float addition. -/
  | fadd (w : BitVec 1) (d : BitVec 7) (a : BitVec 8) (b : BitVec 8)
  /-- FSUB (R262). Correctly rounded float subtraction. -/
  | fsub (w : BitVec 1) (d : BitVec 7) (a : BitVec 8) (b : BitVec 8)
  /-- FMUL (R262). Correctly rounded float multiplication. -/
  | fmul (w : BitVec 1) (d : BitVec 7) (a : BitVec 8) (b : BitVec 8)
  /-- FFMA (R262). Fused a times b plus D, rounded once. -/
  | ffma (w : BitVec 1) (d : BitVec 7) (a : BitVec 8) (b : BitVec 8)
  /-- FFMS (R262). Fused a times b minus D, rounded once. -/
  | ffms (w : BitVec 1) (d : BitVec 7) (a : BitVec 8) (b : BitVec 8)
  /-- FNMA (R262). Fused minus a times b plus D, rounded once. -/
  | fnma (w : BitVec 1) (d : BitVec 7) (a : BitVec 8) (b : BitVec 8)
  /-- FMIN (R264). Float minimum with −0 below +0 and NaN ignored. -/
  | fmin (w : BitVec 1) (d : BitVec 7) (a : BitVec 8) (b : BitVec 8)
  /-- FMAX (R264). Float maximum with −0 below +0 and NaN ignored. -/
  | fmax (w : BitVec 1) (d : BitVec 7) (a : BitVec 8) (b : BitVec 8)
  /-- FABS (R264). Clears the sign bit of each float element. -/
  | fabs (w : BitVec 1) (d : BitVec 7) (a : BitVec 8)
  /-- FNEG (R264). Inverts the sign bit of each float element. -/
  | fneg (w : BitVec 1) (d : BitVec 7) (a : BitVec 8)
  /-- FRCP (R265). Approximate reciprocal within 1 ulp. -/
  | frcp (w : BitVec 1) (d : BitVec 7) (a : BitVec 8)
  /-- FRSQ (R265). Approximate reciprocal square root. -/
  | frsq (w : BitVec 1) (d : BitVec 7) (a : BitVec 8)
  /-- FSQRT (R262). Correctly rounded square root. -/
  | fsqrt (w : BitVec 1) (d : BitVec 7) (a : BitVec 8)
  /-- FDIV (R262). Correctly rounded division. -/
  | fdiv (w : BitVec 1) (d : BitVec 7) (a : BitVec 8) (b : BitVec 8)
  /-- FEXP2 (R265). Approximate 2 to the power a. -/
  | fexp2 (w : BitVec 1) (d : BitVec 7) (a : BitVec 8)
  /-- FLOG2 (R265). Approximate base-2 logarithm. -/
  | flog2 (w : BitVec 1) (d : BitVec 7) (a : BitVec 8)
  /-- FSINP (R265). Approximate sin(pi times a). -/
  | fsinp (w : BitVec 1) (d : BitVec 7) (a : BitVec 8)
  /-- FCOSP (R265). Approximate cos(pi times a). -/
  | fcosp (w : BitVec 1) (d : BitVec 7) (a : BitVec 8)
  /-- FFLR (R267). Rounds each element down to an integer. -/
  | fflr (w : BitVec 1) (d : BitVec 7) (a : BitVec 8)
  /-- FCEIL (R267). Rounds each element up to an integer. -/
  | fceil (w : BitVec 1) (d : BitVec 7) (a : BitVec 8)
  /-- FRND (R267). Rounds each element to an integer under gm.RM. -/
  | frnd (w : BitVec 1) (d : BitVec 7) (a : BitVec 8)
  /-- FFRC (R267). Fractional part x minus floor(x). -/
  | ffrc (w : BitVec 1) (d : BitVec 7) (a : BitVec 8)
  /-- FCLS (R268). Writes a one-hot class mask per element. -/
  | fcls (w : BitVec 1) (d : BitVec 7) (a : BitVec 8)
  /-- FSCL (R269). Scales a by 2 to the integer power n. -/
  | fscl (w : BitVec 1) (d : BitVec 7) (a : BitVec 8) (b : BitVec 8)
  /-- FGETE (R269). Returns the unbiased exponent as a float. -/
  | fgete (w : BitVec 1) (d : BitVec 7) (a : BitVec 8)
  /-- FDOT2 (R270). Two-element dot product of f16 or bf16 into an f32 accumulator. -/
  | fdot2 (w : BitVec 1) (d : BitVec 7) (a : BitVec 8) (b : BitVec 8)
  /-- CVT (R271). Converts elements one to one from gm.S to gm.T. -/
  | cvt (w : BitVec 1) (d : BitVec 7) (a : BitVec 8)
  /-- CVPK (R272). Narrows two sources into the low elements, shifting the old content of D up. -/
  | cvpk (w : BitVec 1) (d : BitVec 7) (a : BitVec 8) (b : BitVec 8)
  /-- CVLO (R271). Widens the low source elements. -/
  | cvlo (w : BitVec 1) (d : BitVec 7) (a : BitVec 8)
  /-- CVHI (R271). Widens the high source elements. -/
  | cvhi (w : BitVec 1) (d : BitVec 7) (a : BitVec 8)
  /-- SHFLI (R258). Shuffle from an indexed source lane. -/
  | shfli (w : BitVec 1) (d : BitVec 7) (a : BitVec 8) (b : BitVec 8)
  /-- SHFLX (R258). Shuffle from lane L XOR y. -/
  | shflx (w : BitVec 1) (d : BitVec 7) (a : BitVec 8) (b : BitVec 8)
  /-- SHFLB (R258). Shuffle from lane L minus y. -/
  | shflb (w : BitVec 1) (d : BitVec 7) (a : BitVec 8) (b : BitVec 8)
  /-- SHFLF (R258). Shuffle from lane L plus y. -/
  | shflf (w : BitVec 1) (d : BitVec 7) (a : BitVec 8) (b : BitVec 8)
  /-- BALLOT (R259). Writes to a scalar the mask of ACTIVE lanes with a nonzero source. -/
  | ballot (w : BitVec 1) (d : BitVec 7) (a : BitVec 8)
  /-- VANY (R259). Writes a predicate true if any ACTIVE lane's source is nonzero. -/
  | vany (d : BitVec 3) (a : BitVec 8)
  /-- VALL (R259). Writes a predicate true if every ACTIVE lane's source is nonzero. -/
  | vall (d : BitVec 3) (a : BitVec 8)
  /-- VEQ (R259). Writes a predicate true if the source is bit-equal across ACTIVE. -/
  | veq (d : BitVec 3) (a : BitVec 8)
  /-- SCAN (R260). Inclusive prefix sum across ACTIVE lanes in lane order. -/
  | scan (w : BitVec 1) (d : BitVec 7) (a : BitVec 8)
  /-- SCANX (R260). Exclusive prefix sum across ACTIVE lanes. -/
  | scanx (w : BitVec 1) (d : BitVec 7) (a : BitVec 8)
  /-- REDA (R260). Sums over ACTIVE lanes into a scalar. -/
  | reda (w : BitVec 1) (d : BitVec 7) (a : BitVec 8)
  /-- REDMN (R260). Minimum over ACTIVE lanes into a scalar. -/
  | redmn (w : BitVec 1) (d : BitVec 7) (a : BitVec 8)
  /-- REDMX (R260). Maximum over ACTIVE lanes into a scalar. -/
  | redmx (w : BitVec 1) (d : BitVec 7) (a : BitVec 8)
  /-- MATCH (R259). Writes per lane the mask of ACTIVE lanes holding an equal value. -/
  | matchL (w : BitVec 1) (d : BitVec 7) (a : BitVec 8)
  /-- ACTM (R259). Writes the ACTIVE lane mask to a scalar. -/
  | actm (w : BitVec 1) (d : BitVec 7)
  /-- ELECT (R259). Writes a predicate true only in the lowest ACTIVE lane. -/
  | elect (d : BitVec 3)
  /-- BRA (R278). Conditional relative branch that may divide the path. -/
  | bra (c : BitVec 4) (o : BitVec 20)
  /-- CALL (R278). Conditional relative call pushing the return address. -/
  | call (c : BitVec 4) (o : BitVec 20)
  /-- CALLI (R279). Indirect call to per-lane targets from a register pair. -/
  | calli (a : BitVec 8)
  /-- JMPI (R279). Indirect jump to per-lane targets from a register pair. -/
  | jmpi (a : BitVec 8)
  /-- RET (R280). Returns ACTIVE lanes to the top of the return stack. -/
  | ret
  /-- JOIN (R282). Waits at the end of a region and merges the paths there. -/
  | join (o : BitVec 20)
  /-- EXIT (R283). Ends every ACTIVE lane. -/
  | exit
  /-- YIELD (R284). Gives up the issue slot at once. -/
  | yield
  /-- WAITC (R285). Parks the path until event counters reach their targets. -/
  | waitc (a : BitVec 8) (b : BitVec 8)
  /-- BRK (R286). Raises BREAK, or in handler mode halts the gang for the debugger. -/
  | brk (b : BitVec 8)
  /-- LOOP (R281). Decrements a scalar and branches while it is nonzero. -/
  | loop (c : BitVec 4) (o : BitVec 20)
  /-- LDL (R292). Loads one element from the lane slice. -/
  | ldl (w : BitVec 1) (d : BitVec 7) (a : BitVec 8) (b : BitVec 8)
  /-- STL (R294). Stores one element to the lane slice. -/
  | stl (d : BitVec 7) (a : BitVec 8) (b : BitVec 8)
  /-- LDS (R292). Loads one element from scratch. -/
  | lds (w : BitVec 1) (d : BitVec 7) (a : BitVec 8) (b : BitVec 8)
  /-- STS (R294). Stores one element to scratch. -/
  | sts (d : BitVec 7) (a : BitVec 8) (b : BitVec 8)
  /-- LDC (R292). Loads one element from cluster memory. -/
  | ldc (w : BitVec 1) (d : BitVec 7) (a : BitVec 8) (b : BitVec 8)
  /-- STC (R294). Stores one element to cluster memory. -/
  | stc (d : BitVec 7) (a : BitVec 8) (b : BitVec 8)
  /-- LDK (R292). Loads one element from the chip scratchpad. -/
  | ldk (w : BitVec 1) (d : BitVec 7) (a : BitVec 8) (b : BitVec 8)
  /-- STK (R294). Stores one element to the chip scratchpad. -/
  | stk (d : BitVec 7) (a : BitVec 8) (b : BitVec 8)
  /-- LDG (R292). Plain load from global memory, decoding by page format. -/
  | ldg (w : BitVec 1) (d : BitVec 7) (a : BitVec 8) (b : BitVec 8)
  /-- STG (R295). Plain store to global memory, logged on NOTPRESENT. -/
  | stg (d : BitVec 7) (a : BitVec 8) (b : BitVec 8)
  /-- LDGS (R297). Status-variant global load reporting failures in p7 and LSTAT. -/
  | ldgs (w : BitVec 1) (d : BitVec 7) (a : BitVec 8) (b : BitVec 8)
  /-- STGS (R297). Status-variant global store. -/
  | stgs (d : BitVec 7) (a : BitVec 8) (b : BitVec 8)
  /-- LDSQ (R292). Quad load of 16 register bytes from scratch. -/
  | ldsq (w : BitVec 1) (d : BitVec 7) (a : BitVec 8) (b : BitVec 8)
  /-- STSQ (R294). Quad store of 16 bytes to scratch. -/
  | stsq (d : BitVec 7) (a : BitVec 8) (b : BitVec 8)
  /-- LDGQ (R292). Quad load from global memory. -/
  | ldgq (w : BitVec 1) (d : BitVec 7) (a : BitVec 8) (b : BitVec 8)
  /-- STGQ (R294). Quad store to global memory. -/
  | stgq (d : BitVec 7) (a : BitVec 8) (b : BitVec 8)
  /-- LDGA (R298). Acquire load at SYS scope on CORE and FABRIC. -/
  | ldga (w : BitVec 1) (d : BitVec 7) (a : BitVec 8) (b : BitVec 8)
  /-- STGR (R298). Release store at SYS scope carrying the ordered-flag bit to fabric windows. -/
  | stgr (d : BitVec 7) (a : BitVec 8) (b : BitVec 8)
  /-- ATS_ADD (R299). Scratch atomic add with return. -/
  | atsAdd (w : BitVec 1) (d : BitVec 7) (a : BitVec 8) (b : BitVec 8)
  /-- ATS_MIN (R299). Scratch atomic minimum with return. -/
  | atsMin (w : BitVec 1) (d : BitVec 7) (a : BitVec 8) (b : BitVec 8)
  /-- ATS_MAX (R299). Scratch atomic maximum with return. -/
  | atsMax (w : BitVec 1) (d : BitVec 7) (a : BitVec 8) (b : BitVec 8)
  /-- ATS_AND (R299). Scratch atomic AND with return. -/
  | atsAnd (w : BitVec 1) (d : BitVec 7) (a : BitVec 8) (b : BitVec 8)
  /-- ATS_OR (R299). Scratch atomic OR with return. -/
  | atsOr (w : BitVec 1) (d : BitVec 7) (a : BitVec 8) (b : BitVec 8)
  /-- ATS_XOR (R299). Scratch atomic XOR with return. -/
  | atsXor (w : BitVec 1) (d : BitVec 7) (a : BitVec 8) (b : BitVec 8)
  /-- ATS_XCH (R299). Scratch atomic exchange. -/
  | atsXch (w : BitVec 1) (d : BitVec 7) (a : BitVec 8) (b : BitVec 8)
  /-- ATS_CAS (R299). Scratch atomic compare-and-swap. -/
  | atsCas (w : BitVec 1) (d : BitVec 7) (a : BitVec 8) (b : BitVec 8)
  /-- ATG_ADD (R299). Global atomic add with return. -/
  | atgAdd (w : BitVec 1) (d : BitVec 7) (a : BitVec 8) (b : BitVec 8)
  /-- ATG_MIN (R299). Global atomic minimum with return. -/
  | atgMin (w : BitVec 1) (d : BitVec 7) (a : BitVec 8) (b : BitVec 8)
  /-- ATG_MAX (R299). Global atomic maximum with return. -/
  | atgMax (w : BitVec 1) (d : BitVec 7) (a : BitVec 8) (b : BitVec 8)
  /-- ATG_AND (R299). Global atomic AND with return. -/
  | atgAnd (w : BitVec 1) (d : BitVec 7) (a : BitVec 8) (b : BitVec 8)
  /-- ATG_OR (R299). Global atomic OR with return. -/
  | atgOr (w : BitVec 1) (d : BitVec 7) (a : BitVec 8) (b : BitVec 8)
  /-- ATG_XOR (R299). Global atomic XOR with return. -/
  | atgXor (w : BitVec 1) (d : BitVec 7) (a : BitVec 8) (b : BitVec 8)
  /-- ATG_XCH (R299). Global atomic exchange. -/
  | atgXch (w : BitVec 1) (d : BitVec 7) (a : BitVec 8) (b : BitVec 8)
  /-- ATG_CAS (R299). Global atomic compare-and-swap. -/
  | atgCas (w : BitVec 1) (d : BitVec 7) (a : BitVec 8) (b : BitVec 8)
  /-- ATC_ADD (R299). Cluster-memory atomic add with return. -/
  | atcAdd (w : BitVec 1) (d : BitVec 7) (a : BitVec 8) (b : BitVec 8)
  /-- ATC_CAS (R299). Cluster-memory atomic compare-and-swap. -/
  | atcCas (w : BitVec 1) (d : BitVec 7) (a : BitVec 8) (b : BitVec 8)
  /-- ATGS_ADD (R297). Status-variant global atomic add. -/
  | atgsAdd (w : BitVec 1) (d : BitVec 7) (a : BitVec 8) (b : BitVec 8)
  /-- ATGS_CAS (R297). Status-variant global compare-and-swap. -/
  | atgsCas (w : BitVec 1) (d : BitVec 7) (a : BitVec 8) (b : BitVec 8)
  /-- REDS (R300). Scratch add without return. -/
  | reds (d : BitVec 7) (a : BitVec 8) (b : BitVec 8)
  /-- REDG (R300). Global add without return, loggable. -/
  | redg (d : BitVec 7) (a : BitVec 8) (b : BitVec 8)
  /-- FENCE (R303). Orders the path's events on the named paths at a scope; waits until complete. -/
  | fence (k : BitVec 2) (m : BitVec 8) (s : BitVec 4)
  /-- GATH (R301). Long lane-by-lane gather load on the GATHER path. -/
  | gath (w : BitVec 1) (d : BitVec 7) (a : BitVec 8) (b : BitVec 8)
  /-- SCAT (R301). Long lane-by-lane scatter store. -/
  | scat (d : BitVec 7) (a : BitVec 8) (b : BitVec 8)
  /-- STGC (R301). Long compress-store of ACTIVE lanes to consecutive elements. -/
  | stgc (d : BitVec 7) (a : BitVec 8) (b : BitVec 8)
  /-- LDGE (R302). Borrow-window postmark-checked read, or otherwise the long expand-load. -/
  | ldge (w : BitVec 1) (d : BitVec 7) (a : BitVec 8) (b : BitVec 8)
  /-- PFG (R304). Prefetch hint bringing a 64-byte block into L2. -/
  | pfg (a : BitVec 8) (b : BitVec 8)
  /-- CSTEP (R308). Adds to the gang's stage counter, releasing due copy instances. -/
  | cstep (a : BitVec 8)
  /-- CSTAT (R309). Reads the gang's copy status and stage counter. -/
  | cstat (w : BitVec 1) (d : BitVec 7)
  /-- BINIT (R310). Initialises and tags a transaction barrier word. -/
  | binit (a : BitVec 8) (b : BitVec 8)
  /-- BARV (R310). Takes one arrival from a barrier word, completing a phase if due. -/
  | barv (a : BitVec 8) (b : BitVec 8)
  /-- BEXP (R310). Announces expected bytes on a barrier word. -/
  | bexp (a : BitVec 8) (b : BitVec 8)
  /-- BWAIT (R311). Waits until barrier words reach a target phase count. -/
  | bwait (a : BitVec 8) (b : BitVec 8)
  /-- BTEST (R311). Tests whether a barrier word reached a target phase. -/
  | btest (d : BitVec 3) (a : BitVec 8) (b : BitVec 8)
  /-- BINV (R312). Clears a barrier word's tag and releases its waiters. -/
  | binv (a : BitVec 8) (b : BitVec 8)
  /-- RROT (R313). Collective rotation of scratch tiles among the gang's workgroups. -/
  | rrot (a : BitVec 8) (b : BitVec 8)
  /-- SPPIN (R315). Makes a scratch range resident and pins it. -/
  | sppin (a : BitVec 8) (b : BitVec 8)
  /-- SPREL (R315). Lowers the pin counts of a scratch range. -/
  | sprel (a : BitVec 8) (b : BitVec 8)
  /-- SPAWN (R316). Appends one docket per ACTIVE lane to a pigeonhole. -/
  | spawn (a : BitVec 8) (b : BitVec 8)
  /-- TDEP (R318). Adds a signed value to dockets' dependence counters. -/
  | tdep (a : BitVec 8) (b : BitVec 8)
  /-- TSIG (R318). Subtracts 1 from dockets' dependence counters. -/
  | tsig (a : BitVec 8)
  /-- POST (R157). Publishes the non-current slot of a tile header and fires subscribers. -/
  | post (a : BitVec 8) (k : BitVec 1) (f : BitVec 1)
  /-- SEAL (R157). Seals a tile header and fires its subscribers. -/
  | seal (a : BitVec 8) (k : BitVec 1)
  /-- PMRK (R319). Reads a tile header's postmark, reader count and state bits. -/
  | pmrk (w : BitVec 1) (d : BitVec 7) (a : BitVec 8) (k : BitVec 1)
  /-- SUBS (R320). Subscribes an accepted docket to a tile header. -/
  | subs (a : BitVec 8) (b : BitVec 8)
  /-- SETTLE (R321). Waits until a settle group has settled, then acquires. -/
  | settle (a : BitVec 8) (f : BitVec 1)
  /-- LQUE (R322). Appends a command list to the core's Loom queue. -/
  | lque (a : BitVec 8)
  /-- LMMA (R325). Collective register matrix multiply-accumulate into an f32 tile. -/
  | lmma (d : BitVec 7) (a : BitVec 8) (b : BitVec 8)
  /-- AALLOC (R323). Requests accumulator banks for the workgroup. -/
  | aalloc (a : BitVec 8)
  /-- AFREE (R323). Frees the workgroup's accumulator banks after its lists complete. -/
  | afree
  /-- ADRN (R324). Long drain of accumulator banks to a memory image. -/
  | adrn (w : BitVec 1) (d : BitVec 7) (a : BitVec 8) (b : BitVec 8)
  /-- AFIL (R324). Long fill of accumulator banks from a memory image. -/
  | afil (a : BitVec 8) (b : BitVec 8)
  /-- TRACE (R326). Hands one ray per ACTIVE lane to the ray engine. -/
  | trace (w : BitVec 1) (d : BitVec 7) (a : BitVec 8) (b : BitVec 8)
  /-- PSEND (R327). Sends 64-byte parcels to other packages under credits. -/
  | psend (a : BitVec 8) (b : BitVec 8)
  /-- COMP (R317). Spawns one compositing docket built from registers. -/
  | comp (w : BitVec 1) (d : BitVec 7) (a : BitVec 8) (b : BitVec 8)
  /-- TRAP (R333). Parks the path and appends a syscall record, or enters the handler. -/
  | trap (i : BitVec 24)
  /-- RTE (R334). Leaves handler mode, restoring PC, gm, mask and latches and retrying the side log. -/
  | rte
  /-- SRD (R331). Reads a system register into a scalar register or pair. -/
  | srd (w : BitVec 1) (d : BitVec 7) (s : BitVec 16)
  /-- SWR (R332). Writes a system register from a scalar register or pair. -/
  | swr (d : BitVec 7) (s : BitVec 16)
  /-- MAPACK (R335). Acknowledges a Build Map version for the context. -/
  | mapack (a : BitVec 8)
  /-- ICINV (R336). Waits for earlier writes, then discards fetched instruction bytes of the context. -/
  | icinv
  /-- CYC (R337). Reads the core's 64-bit cycle counter. -/
  | cyc (w : BitVec 1) (d : BitVec 7)
  /-- PAUSE (R338). Waits a given number of core cycles. -/
  | pause (a : BitVec 8)
  /-- PAUSE_EXPIRY (R338). The PAUSE count elapses and the path continues at PC + 4. -/
  | pauseExpiry (p : Nat)
  /-- LOAD_RETURN (R140). A load's value returns and writes its target register, waking waiting paths. -/
  | loadReturn (p k : Nat)
  /-- FENCE_COMPLETE (R303). A waiting FENCE's conditions hold and the path resumes. -/
  | fenceComplete (p : Nat)
  /-- MAPACK_ANSWER (R335). The management controller's answer to MAPACK returns and sets p7. -/
  | mapackAnswer (p : Nat)
  /-- POWER_ON (R18). The boot ROM verifies firmware and starts the package or waits for a host image. -/
  | powerOn (verified : Bool)
  /-- CLUSTER_WAKE (R17). After the management-controller gap the next cluster wakes. -/
  | clusterWake
  /-- LOOM_RAMP_STAGE (R17). A ramping Loom's stage of 1,024 cycles ends and its issue rate rises. -/
  | loomRampStage (core : Nat)
  /-- FWCMD (R20). Fetches the host image at FWBASE and starts its verification. -/
  | fwcmd
  /-- FW_VERIFY_DONE (R18). Image verification ends, FWSTAT is set and start-up proceeds if every component is verified. -/
  | fwVerifyDone (component : Nat) (complete : Bool)
  /-- ATTCMD (R19). Requests a signed attestation report, advancing the leaf counter. -/
  | attcmd
  /-- ATTEST_REPORT_DONE (R20). The report is written to ATTBUF and ATTST becomes 2. -/
  | attestReportDone (images : Nat)
  /-- LANE_SPARE (R25). A core lane failure steers its sub-pipe to the spare lane or starts the core sequence. -/
  | laneSpare (core subpipe : Nat)
  /-- CORE_DRAIN (R25). A core goes to draining and its gangs migrate or are pre-empted. -/
  | coreDrain (core : Nat)
  /-- CORE_RETIRE (R25). An emptied draining core retires and a spare takes its logical number. -/
  | coreRetire (core : Nat)
  /-- CHANNEL_SPARE (R25). A failing HBM channel is copied to a spare or retired. -/
  | channelSpare (stack chan : Nat)
  /-- CHANNEL_COPY_DONE (R25). The base die finishes copying a channel to its spare and stalled accesses resume. -/
  | channelCopyDone (stack chan : Nat)
  /-- LINK_LANE_FAILURE (R25). A scale-up lane fails, causing fallback, spare steering or link down. -/
  | linkLaneFailure (link lane : Nat)
  /-- LINK_RETRAIN_DONE (R25). The PAM4 retrain after a spare ends, restoring SIGNAL 0 or staying at NRZ. -/
  | linkRetrainDone (link : Nat) (ok : Bool)
  /-- L2_WAY (R25). A failed L2 way is replaced by the spare or the slice runs on 15 ways. -/
  | l2Way (slice way : Nat)
  /-- PORT_DOWN (R49). An Ultra Ethernet port goes down and its traffic moves to the other ports. -/
  | portDown (port : Nat)
  /-- ISLAND_RETIRE (R360). A power island is retired with the consequences for its units. -/
  | islandRetire (island : Nat)
  /-- MAPCHG_DELIVERY (R189). MAPCHG enters the handler at the first path of the context to complete a switch point. -/
  | mapchgDelivery (p : Nat)
  /-- DEFERRED_FAULT_DELIVERY (R188). A queued deferred fault enters the handler of a path at a delivery point. -/
  | deferredFaultDelivery (p : Nat)
  /-- GRACE_EXPIRY (R27). The acknowledgement grace expires and the context is suspended with MAP_SUSPEND. -/
  | graceExpiry (part ctx : Nat)
  /-- HOSTACK (R190). The host acknowledges a Build Map version on a context's behalf. -/
  | hostack (part ctx : Nat) (v : BitVec 32)
  /-- TIMEOUT_UNKNOWN (R39). A scale-up request's deadlock-recovery timer expires and it retires with TIMEOUT_UNKNOWN. -/
  | timeoutUnknown (id : Nat)
  /-- REMOTE_RESPONSE (R40). A response or acknowledgement arrives from the node and completes its request or is discarded as late. -/
  | remoteResponse (link tag gen : Nat) (code : BitVec 8) (data : BitVec 512)
  /-- ORDERED_FLAG_RELEASE (R36). The split's completion counters drain and the held flag is sent or withheld. -/
  | orderedFlagRelease (id : Nat)
  /-- FLIT_RECEIVE (R44). A scale-up flit arrives and is authenticated, accepted or NAKed. -/
  | flitReceive (link slot : Nat) (counter : BitVec 40) (authentic franking nak : Bool) (seq acked : Nat)
  /-- FLIT_NAK (R44). A NAK causes the flit to be resent from the retry buffer under the current slot. -/
  | flitNak (link seq : Nat)
  /-- KEY_LOAD (R47). Installs staging keys and salts into a key slot and zeroes its counter. -/
  | keyLoad (link slot : Nat)
  /-- KEY_SWITCH (R45). Starts a switch-over to a loaded key slot with a franking flit. -/
  | keySwitch (link slot : Nat)
  /-- FRANKING_ACK (R45). The franking flit is acknowledged and FRANKACK is set. -/
  | frankingAck (link : Nat)
  /-- UUD_PACKET_DROP (R48). An arriving Unreliable Unordered Delivery packet is dropped and counted. -/
  | uudPacketDrop
  /-- COMPOSITING_PASS_START (R59). A compositing pass starts at a rank on issue, fire or a peer's newer tile. -/
  | compositingPassStart (job : Nat)
  /-- COMPOSITING_TILE_ARRIVAL (R53). A peer tile arrives and merges, sends and writes follow when operands are complete. -/
  | compositingTileArrival (job sender pass round tile : Nat) (allSealed : Bool) (digest : BitVec 64) (bytes : List (BitVec 8))
  /-- PEER_TIMEOUT (R58). A pass lacks an expected tile TMO cycles after its start or last tile. -/
  | peerTimeout (job : Nat)
  /-- REDUCTION_EXCHANGE (R63). Contributions of a reduction generation arrive and combine until the generation completes. -/
  | reductionExchange (coll : Nat) (others : List (Nat × List (BitVec 32 × BitVec 32)))
  /-- COLLECTIVE_SETUP (R62). CCMD 1 checks the staging entry and exchanges set-up messages with peers. -/
  | collectiveSetup
  /-- COLLECTIVE_SETUP_DONE (R62). Every peer matches, disagrees or fails to answer and CST is set. -/
  | collectiveSetupDone (agreed : Bool) (plain : Option Bool)
  /-- COLLECTIVE_TEARDOWN (R62). CCMD 2 tears down a collective entry once no generation is in exchange. -/
  | collectiveTeardown
  /-- COLLECTIVE_TEARDOWN_DONE (R62). The exchange in progress ends and the entry is freed with CST 2. -/
  | collectiveTeardownDone
  /-- PARCEL_ARRIVAL (R67). A parcel is written to its slot and a parcel-handler docket placed in the pigeonhole. -/
  | parcelArrival (part ctx sender : Nat) (parcel : BitVec 512)
  /-- RECEIVE_SLOT_GRANT (R68). A receive-slot grant or returned slot arrives and sets or restores sender credits. -/
  | receiveSlotGrant (dest slots : Nat) (fresh : Bool)
  /-- PREG (R68). Registers or withdraws a context's parcel registration. -/
  | preg (part ctx : Nat) (v : BitVec 64)
  /-- PREG_WITHDRAW_DONE (R68). The old registration's dockets are finished and its grants are revoked. -/
  | pregWithdrawDone (part ctx : Nat)
  /-- BORROW_GATHER_RESPONSE (R69). Gathered geometry arrives at the borrow cache and the postmark test is applied. -/
  | borrowGatherResponse (id : Nat) (postmark : BitVec 32) (unwatched : Bool) (line : BitVec 2048)
  /-- BORROW_GATHER_TIMEOUT (R302). A borrow gather unanswered within 1,000,000 Selvedge cycles fails with TIMEOUT_UNKNOWN. -/
  | borrowGatherTimeout (id : Nat)
  /-- POSTMARK_NOTICE (R70). A lender's notice of a POST arrives at a borrower and is acknowledged. -/
  | postmarkNotice (source : Nat) (header : BitVec 64) (postmark : BitVec 32)
  /-- NOTICE_ACK (R70). A borrower's acknowledgement arrives and the held POST may complete. -/
  | noticeAck (header borrower : Nat)
  /-- NOTICE_TIMEOUT (R70). A notice stays unacknowledged for NOTETMO cycles; the POST completes and NOTEFAIL counts. -/
  | noticeTimeout (header borrower : Nat)
  /-- TAIL (R76). Launch-queue doorbell publishing records or setting overflow. -/
  | tail (part queue : Nat) (v : BitVec 32)
  /-- LAUNCH_RECORD_FETCH (R79). The device fetches and checks a launch record, accepting or rejecting it. -/
  | launchRecordFetch (part queue : Nat)
  /-- KILL (R80). Kills the launch of a record index. -/
  | kill (part queue : Nat) (index : BitVec 32)
  /-- LAUNCH_COMPLETE (R80). Once gangs have exited and any settle group settled, the completion word is written. -/
  | launchComplete (launch : Nat)
  /-- GANG_PLACE (R131). A waiting gang is placed on consecutive cores once resources allow. -/
  | gangPlace (source : Nat) (isDocket : Bool)
  /-- GANG_PREEMPT (R192). The scheduler stops a gang whole for pre-emption. -/
  | gangPreempt (gang : Nat)
  /-- GANG_MIGRATE (R98). A gang migrates as a whole to other cores. -/
  | gangMigrate (gang cluster pos : Nat)
  /-- GANG_RESUME (R141). A pre-empted gang is resumed on cores of its partition. -/
  | gangResume (gang : Nat)
  /-- SYSREPLY (R83). Writes s0 of a parked TRAP's group and resumes the split. -/
  | sysreply (part ctx : Nat) (seq value : BitVec 32)
  /-- SYSTAIL (R82). Host advances the syscall consume index, unparking TRAPs waiting for room. -/
  | systail (part ctx : Nat) (v : BitVec 32)
  /-- RESCLR (R84). Clears the context's entries from every die's residency filter. -/
  | resclr (part ctx : Nat)
  /-- SWAP_OUT (R86). SWAPCMD 1 stops fetching and pre-empts every gang of the context to the shadow. -/
  | swapOut (part ctx : Nat)
  /-- SWAP_IN (R87). SWAPCMD 2 restores the context's gangs and restarts fetching. -/
  | swapIn (part ctx : Nat)
  /-- SWAP_DONE (R87). A swap completes, SWAPST changes and SWAP_DONE is posted. -/
  | swapDone (part ctx : Nat)
  /-- HALT (R89). Debug command stopping every split of the target gang. -/
  | halt (part ctx : Nat)
  /-- RESUME (R89). Debug command resuming a halted gang. -/
  | resume (part ctx : Nat)
  /-- READ (R89). Debug command reading a word of a halted path's register. -/
  | read (part ctx : Nat)
  /-- WRITE (R89). Debug command writing a word of a halted path's register. -/
  | write (part ctx : Nat)
  /-- FORCE (R89). Debug command writing a register and cancelling its in-flight load writeback. -/
  | force (part ctx : Nat)
  /-- STEP (R89). Debug command running one instruction of the selected path. -/
  | step (part ctx : Nat)
  /-- PARTITION_EN (R74). Write of a partition's EN bit enabling or disabling it. -/
  | partitionEn (part : Nat) (en : Bool)
  /-- VF_ENABLE_CHANGE (R74). A change of VF Enable or NumVFs that may end partitions and kill their launches. -/
  | vfEnableChange (enable : Bool) (numVfs : Nat)
  /-- PHMASK (R148). Write of pigeonhole ownership masks, refused if it would double-assign or orphan dockets. -/
  | phmask (part die : Nat) (mask : BitVec 64)
  /-- INVALIDATE_PAGE (R109). INVCMD 1 invalidates cached entries of the page at INVIA and retries side logs. -/
  | invalidatePage (part : Nat)
  /-- INVALIDATE_ALL (R109). INVCMD 2 invalidates all cached entries of the partition. -/
  | invalidateAll (part : Nat)
  /-- INVALIDATION_DONE (R109). An invalidation finishes and INVBUSY falls. -/
  | invalidationDone (part : Nat)
  /-- SEALGRP (R161). Host seals every member of a settle group. -/
  | sealgrp (part ctx : Nat) (v : BitVec 32)
  /-- PIGEONHOLE_TAIL (R149). Host appends dockets to a host-fed pigeonhole. -/
  | pigeonholeTail (fn hole : Nat) (v : BitVec 32)
  /-- APERTURE_HOST_WRITE (R104). Host write of an aperture register, taking effect at each path's next switch point. -/
  | apertureHostWrite (part ctx n : Nat) (v : BitVec 64)
  /-- REGISTER_WRITE (R6). Host write of a device register with no behaviour of its own. -/
  | registerWrite (fn offset : Nat) (v : BitVec 64)
  /-- SIDE_LOG_RETRY (R112). Every 65,536 core cycles the side log and held Courier instances are retried. -/
  | sideLogRetry (core : Nat)
  /-- COURIER_RETRY (R166). Periodic retry of Courier instances held on NOTPRESENT. -/
  | courierRetry (gang : Nat)
  /-- DOCKET_SLOT_RETRY (R152). Every 65,536 management cycles an unreadable docket slot is tried again. -/
  | docketSlotRetry (hole : Nat)
  /-- DOCKET_ACCEPT (R152). The Task Sorter reads and checks an appended docket and enters it in its state. -/
  | docketAccept (hole : Nat)
  /-- DOCKET_ISSUE (R154). A freed engine takes one READY docket of its kind. -/
  | docketIssue (die kind engine : Nat)
  /-- RUN_COMPLETE (R158). A docket run completes, writes SEEN and RUNS and moves the docket on. -/
  | runComplete (docket : Nat)
  /-- PAGER_TRANSFER_DONE (R93). A scratch page fill or write-back ends and waiting accesses proceed. -/
  | pagerTransferDone (wg page : Nat)
  /-- COURIER_INSTANCE_DONE (R165). A Courier instance finishes writing and updates its completion target. -/
  | courierInstanceDone (gang : Nat) (inst : Nat)
  /-- MMA (R172). Loom command accumulating A times B into banks from shuttle rings. -/
  | mma (core : Nat)
  /-- MMAZ (R172). Loom command like MMA starting the accumulators from zero. -/
  | mmaz (core : Nat)
  /-- DRAIN (R174). Loom command converting and writing an accumulator tile to memory. -/
  | drain (core : Nat)
  /-- END (R174). Loom command writing the list status and updating its target. -/
  | endList (core : Nat)
  /-- LOOM_RING_PHASE (R171). A full-barrier phase the Loom waits on completes and its step proceeds. -/
  | loomRingPhase (core : Nat)
  /-- SDU_DONE (R178). A stack dot unit finishes a matrix-vector product and writes results and status. -/
  | sduDone (docket : Nat)
  /-- TRACE_DONE (R179). The ray engine completes a TRACE, writes hit records and adds to the event counter. -/
  | traceDone (gang trace : Nat)
  /-- SCORE_HALVING (R144). Every 1,024 core cycles every lost-locality score is halved. -/
  | scoreHalving (core : Nat)
  /-- BORROW_GATHER_REQUEST (R70). A gather from another package arrives at this package's Selvedge, which serves it and records the pair in its lender table or marks the line unwatched. -/
  | borrowGatherRequest (borrower part : Nat) (ia : BitVec 64) (header : BitVec 64)
  /-- RETRAINING_DONE (R42). A link's retraining after a lane failure and fallback to NRZ ends, and the port resumes sending and replays unacknowledged flits from the retry buffer. -/
  | retrainingDone (link : Nat)
  /-- PORT_DISABLE (R23). The host disables an Ultra Ethernet port, which takes port STATE 2. -/
  | portDisable (port : Nat)
  /-- GRANT_REVOCATION (R68). A revocation of a receive-slot grant arrives at a sending package's parcel engine and removes its credits for that destination. -/
  | grantRevocation (dest : Nat)
deriving DecidableEq, Repr

end Sys2Proof
end

