-- ==== Sys2Proof/Decode.lean ====
section
/-! DEFINITION. Decoding of the 32-bit instruction word (spec/13_formats_and_opcode_map.md R225, R226, R238), total on
every word, refusing by name; and after it the encoder, from the same forms. Conditions of legality that R226-R231
put on a field's VALUE are checked at execution (Sys2Proof.WellFormed), where they raise ILLEGAL. Where the opcode
table's bits and R319's words differ (SEAL and PMRK: the K flag is f[1]), R319 is followed (log 15). -/

namespace Sys2Proof

/-- Why a word is no instruction (R226, R238, R240). -/
inductive DecodeError where
  /-- The opcode is unassigned in R238. -/
  | unassigned
  /-- A bit the instruction does not use is one (R226). -/
  | reserved
deriving DecidableEq, Repr

/-- The bits of a word from `lo` upward. -/
abbrev fld (w : Word) (lo len : Nat) : BitVec len := w.extractLsb' lo len

/-- A row of the opcode map: the bits that must be zero, and the instruction of the word. -/
structure DecodeRow where
  zero : Word
  build : Word → Instr

/-- The opcodes 0x00 to 0x0F of R238. -/
def rowsBasic : FMap DecodeRow := [
  (0x00, ⟨0x00FFFFFF#32, fun _ => .nop⟩),
  (0x01, ⟨0x00F80000#32, fun w => .mode (fld w 0 19)⟩),
  (0x02, ⟨0x00FFFF00#32, fun w => .mshape (fld w 6 2) (fld w 0 6)⟩),
  (0x03, ⟨0x00000000#32, fun w => .lit (fld w 0 24)⟩),
  (0x04, ⟨0x00FF0000#32, fun w => .lith (fld w 0 16)⟩),
  (0x05, ⟨0x000000FF#32, fun w => .mov (fld w 23 1) (fld w 16 7) (fld w 8 8)⟩),
  (0x06, ⟨0x000000FF#32, fun w => .movs (fld w 23 1) (fld w 16 7) (fld w 8 8)⟩),
  (0x07, ⟨0x00000000#32, fun w => .sel (fld w 23 1) (fld w 16 7) (fld w 8 8) (fld w 0 8)⟩)]

/-- The opcodes 0x10 to 0x37 of R238. -/
def rowsInteger : FMap DecodeRow := [
  (0x10, ⟨0x00000000#32, fun w => .add (fld w 23 1) (fld w 16 7) (fld w 8 8) (fld w 0 8)⟩),
  (0x11, ⟨0x00000000#32, fun w => .sub (fld w 23 1) (fld w 16 7) (fld w 8 8) (fld w 0 8)⟩),
  (0x12, ⟨0x00000000#32, fun w => .mul (fld w 23 1) (fld w 16 7) (fld w 8 8) (fld w 0 8)⟩),
  (0x13, ⟨0x00000000#32, fun w => .mulh (fld w 23 1) (fld w 16 7) (fld w 8 8) (fld w 0 8)⟩),
  (0x14, ⟨0x00000000#32, fun w => .mad (fld w 23 1) (fld w 16 7) (fld w 8 8) (fld w 0 8)⟩),
  (0x15, ⟨0x00000000#32, fun w => .min (fld w 23 1) (fld w 16 7) (fld w 8 8) (fld w 0 8)⟩),
  (0x16, ⟨0x00000000#32, fun w => .max (fld w 23 1) (fld w 16 7) (fld w 8 8) (fld w 0 8)⟩),
  (0x17, ⟨0x000000FF#32, fun w => .abs (fld w 23 1) (fld w 16 7) (fld w 8 8)⟩),
  (0x18, ⟨0x000000FF#32, fun w => .neg (fld w 23 1) (fld w 16 7) (fld w 8 8)⟩),
  (0x19, ⟨0x00000000#32, fun w => .and (fld w 23 1) (fld w 16 7) (fld w 8 8) (fld w 0 8)⟩),
  (0x1A, ⟨0x00000000#32, fun w => .or (fld w 23 1) (fld w 16 7) (fld w 8 8) (fld w 0 8)⟩),
  (0x1B, ⟨0x00000000#32, fun w => .xor (fld w 23 1) (fld w 16 7) (fld w 8 8) (fld w 0 8)⟩),
  (0x1C, ⟨0x00000000#32, fun w => .andn (fld w 23 1) (fld w 16 7) (fld w 8 8) (fld w 0 8)⟩),
  (0x1D, ⟨0x000000FF#32, fun w => .not (fld w 23 1) (fld w 16 7) (fld w 8 8)⟩),
  (0x1E, ⟨0x00000000#32, fun w => .shl (fld w 23 1) (fld w 16 7) (fld w 8 8) (fld w 0 8)⟩),
  (0x1F, ⟨0x00000000#32, fun w => .shr (fld w 23 1) (fld w 16 7) (fld w 8 8) (fld w 0 8)⟩),
  (0x20, ⟨0x00000000#32, fun w => .sar (fld w 23 1) (fld w 16 7) (fld w 8 8) (fld w 0 8)⟩),
  (0x21, ⟨0x00000000#32, fun w => .rot (fld w 23 1) (fld w 16 7) (fld w 8 8) (fld w 0 8)⟩),
  (0x22, ⟨0x000000FF#32, fun w => .clz (fld w 23 1) (fld w 16 7) (fld w 8 8)⟩),
  (0x23, ⟨0x000000FF#32, fun w => .ctz (fld w 23 1) (fld w 16 7) (fld w 8 8)⟩),
  (0x24, ⟨0x000000FF#32, fun w => .popc (fld w 23 1) (fld w 16 7) (fld w 8 8)⟩),
  (0x25, ⟨0x000000FF#32, fun w => .brev (fld w 23 1) (fld w 16 7) (fld w 8 8)⟩),
  (0x26, ⟨0x000000FF#32, fun w => .bswap (fld w 23 1) (fld w 16 7) (fld w 8 8)⟩),
  (0x27, ⟨0x00000000#32, fun w => .bfx (fld w 23 1) (fld w 16 7) (fld w 8 8) (fld w 0 8)⟩)] ++ [
  (0x28, ⟨0x00000000#32, fun w => .bfi (fld w 23 1) (fld w 16 7) (fld w 8 8) (fld w 0 8)⟩),
  (0x29, ⟨0x00000000#32, fun w => .lea1 (fld w 23 1) (fld w 16 7) (fld w 8 8) (fld w 0 8)⟩),
  (0x2A, ⟨0x00000000#32, fun w => .lea2 (fld w 23 1) (fld w 16 7) (fld w 8 8) (fld w 0 8)⟩),
  (0x2B, ⟨0x00000000#32, fun w => .lea3 (fld w 23 1) (fld w 16 7) (fld w 8 8) (fld w 0 8)⟩),
  (0x2C, ⟨0x00000000#32, fun w => .lea4 (fld w 23 1) (fld w 16 7) (fld w 8 8) (fld w 0 8)⟩),
  (0x2D, ⟨0x00000000#32, fun w => .absd (fld w 23 1) (fld w 16 7) (fld w 8 8) (fld w 0 8)⟩),
  (0x2E, ⟨0x00000000#32, fun w => .avg (fld w 23 1) (fld w 16 7) (fld w 8 8) (fld w 0 8)⟩),
  (0x2F, ⟨0x00000000#32, fun w => .dot4 (fld w 23 1) (fld w 16 7) (fld w 8 8) (fld w 0 8)⟩),
  (0x30, ⟨0x00000000#32, fun w => .dotq (fld w 23 1) (fld w 16 7) (fld w 8 8) (fld w 0 8)⟩),
  (0x31, ⟨0x00000000#32, fun w => .pack2 (fld w 23 1) (fld w 16 7) (fld w 8 8) (fld w 0 8)⟩),
  (0x32, ⟨0x00000000#32, fun w => .prmb (fld w 23 1) (fld w 16 7) (fld w 8 8) (fld w 0 8)⟩)]

/-- The opcodes 0x38 to 0x4F of R238. -/
def rowsCompare : FMap DecodeRow := [
  (0x38, ⟨0x00F80000#32, fun w => .ceq (fld w 16 3) (fld w 8 8) (fld w 0 8)⟩),
  (0x39, ⟨0x00F80000#32, fun w => .cne (fld w 16 3) (fld w 8 8) (fld w 0 8)⟩),
  (0x3A, ⟨0x00F80000#32, fun w => .clt (fld w 16 3) (fld w 8 8) (fld w 0 8)⟩),
  (0x3B, ⟨0x00F80000#32, fun w => .cle (fld w 16 3) (fld w 8 8) (fld w 0 8)⟩),
  (0x3C, ⟨0x00F80000#32, fun w => .cgt (fld w 16 3) (fld w 8 8) (fld w 0 8)⟩),
  (0x3D, ⟨0x00F80000#32, fun w => .cge (fld w 16 3) (fld w 8 8) (fld w 0 8)⟩),
  (0x3E, ⟨0x00F80000#32, fun w => .cun (fld w 16 3) (fld w 8 8) (fld w 0 8)⟩),
  (0x3F, ⟨0x00F80000#32, fun w => .ctst (fld w 16 3) (fld w 8 8) (fld w 0 8)⟩),
  (0x40, ⟨0x00F8F0F0#32, fun w => .pand (fld w 16 3) (fld w 11 1) (fld w 8 3) (fld w 3 1) (fld w 0 3)⟩),
  (0x41, ⟨0x00F8F0F0#32, fun w => .por (fld w 16 3) (fld w 11 1) (fld w 8 3) (fld w 3 1) (fld w 0 3)⟩),
  (0x42, ⟨0x00F8F0F0#32, fun w => .pxor (fld w 16 3) (fld w 11 1) (fld w 8 3) (fld w 3 1) (fld w 0 3)⟩),
  (0x43, ⟨0x00F8F0FF#32, fun w => .pnot (fld w 16 3) (fld w 11 1) (fld w 8 3)⟩),
  (0x44, ⟨0x00F8F0FF#32, fun w => .pmov (fld w 16 3) (fld w 11 1) (fld w 8 3)⟩),
  (0x45, ⟨0x0000FFFF#32, fun w => .pget (fld w 23 1) (fld w 16 7)⟩)]

/-- The opcodes 0x50 to 0x6F of R238. -/
def rowsFloat : FMap DecodeRow := [
  (0x50, ⟨0x00000000#32, fun w => .fadd (fld w 23 1) (fld w 16 7) (fld w 8 8) (fld w 0 8)⟩),
  (0x51, ⟨0x00000000#32, fun w => .fsub (fld w 23 1) (fld w 16 7) (fld w 8 8) (fld w 0 8)⟩),
  (0x52, ⟨0x00000000#32, fun w => .fmul (fld w 23 1) (fld w 16 7) (fld w 8 8) (fld w 0 8)⟩),
  (0x53, ⟨0x00000000#32, fun w => .ffma (fld w 23 1) (fld w 16 7) (fld w 8 8) (fld w 0 8)⟩),
  (0x54, ⟨0x00000000#32, fun w => .ffms (fld w 23 1) (fld w 16 7) (fld w 8 8) (fld w 0 8)⟩),
  (0x55, ⟨0x00000000#32, fun w => .fnma (fld w 23 1) (fld w 16 7) (fld w 8 8) (fld w 0 8)⟩),
  (0x56, ⟨0x00000000#32, fun w => .fmin (fld w 23 1) (fld w 16 7) (fld w 8 8) (fld w 0 8)⟩),
  (0x57, ⟨0x00000000#32, fun w => .fmax (fld w 23 1) (fld w 16 7) (fld w 8 8) (fld w 0 8)⟩),
  (0x58, ⟨0x000000FF#32, fun w => .fabs (fld w 23 1) (fld w 16 7) (fld w 8 8)⟩),
  (0x59, ⟨0x000000FF#32, fun w => .fneg (fld w 23 1) (fld w 16 7) (fld w 8 8)⟩),
  (0x5A, ⟨0x000000FF#32, fun w => .frcp (fld w 23 1) (fld w 16 7) (fld w 8 8)⟩),
  (0x5B, ⟨0x000000FF#32, fun w => .frsq (fld w 23 1) (fld w 16 7) (fld w 8 8)⟩),
  (0x5C, ⟨0x000000FF#32, fun w => .fsqrt (fld w 23 1) (fld w 16 7) (fld w 8 8)⟩),
  (0x5D, ⟨0x00000000#32, fun w => .fdiv (fld w 23 1) (fld w 16 7) (fld w 8 8) (fld w 0 8)⟩),
  (0x5E, ⟨0x000000FF#32, fun w => .fexp2 (fld w 23 1) (fld w 16 7) (fld w 8 8)⟩),
  (0x5F, ⟨0x000000FF#32, fun w => .flog2 (fld w 23 1) (fld w 16 7) (fld w 8 8)⟩),
  (0x60, ⟨0x000000FF#32, fun w => .fsinp (fld w 23 1) (fld w 16 7) (fld w 8 8)⟩),
  (0x61, ⟨0x000000FF#32, fun w => .fcosp (fld w 23 1) (fld w 16 7) (fld w 8 8)⟩),
  (0x62, ⟨0x000000FF#32, fun w => .fflr (fld w 23 1) (fld w 16 7) (fld w 8 8)⟩),
  (0x63, ⟨0x000000FF#32, fun w => .fceil (fld w 23 1) (fld w 16 7) (fld w 8 8)⟩),
  (0x64, ⟨0x000000FF#32, fun w => .frnd (fld w 23 1) (fld w 16 7) (fld w 8 8)⟩),
  (0x65, ⟨0x000000FF#32, fun w => .ffrc (fld w 23 1) (fld w 16 7) (fld w 8 8)⟩),
  (0x66, ⟨0x000000FF#32, fun w => .fcls (fld w 23 1) (fld w 16 7) (fld w 8 8)⟩),
  (0x67, ⟨0x00000000#32, fun w => .fscl (fld w 23 1) (fld w 16 7) (fld w 8 8) (fld w 0 8)⟩)] ++ [
  (0x68, ⟨0x000000FF#32, fun w => .fgete (fld w 23 1) (fld w 16 7) (fld w 8 8)⟩),
  (0x69, ⟨0x00000000#32, fun w => .fdot2 (fld w 23 1) (fld w 16 7) (fld w 8 8) (fld w 0 8)⟩)]

/-- The opcodes 0x70 to 0x7F of R238. -/
def rowsConvert : FMap DecodeRow := [
  (0x70, ⟨0x000000FF#32, fun w => .cvt (fld w 23 1) (fld w 16 7) (fld w 8 8)⟩),
  (0x71, ⟨0x00000000#32, fun w => .cvpk (fld w 23 1) (fld w 16 7) (fld w 8 8) (fld w 0 8)⟩),
  (0x72, ⟨0x000000FF#32, fun w => .cvlo (fld w 23 1) (fld w 16 7) (fld w 8 8)⟩),
  (0x73, ⟨0x000000FF#32, fun w => .cvhi (fld w 23 1) (fld w 16 7) (fld w 8 8)⟩)]

/-- The opcodes 0x80 to 0x8F of R238. -/
def rowsLane : FMap DecodeRow := [
  (0x80, ⟨0x00000000#32, fun w => .shfli (fld w 23 1) (fld w 16 7) (fld w 8 8) (fld w 0 8)⟩),
  (0x81, ⟨0x00000000#32, fun w => .shflx (fld w 23 1) (fld w 16 7) (fld w 8 8) (fld w 0 8)⟩),
  (0x82, ⟨0x00000000#32, fun w => .shflb (fld w 23 1) (fld w 16 7) (fld w 8 8) (fld w 0 8)⟩),
  (0x83, ⟨0x00000000#32, fun w => .shflf (fld w 23 1) (fld w 16 7) (fld w 8 8) (fld w 0 8)⟩),
  (0x84, ⟨0x000000FF#32, fun w => .ballot (fld w 23 1) (fld w 16 7) (fld w 8 8)⟩),
  (0x85, ⟨0x00F800FF#32, fun w => .vany (fld w 16 3) (fld w 8 8)⟩),
  (0x86, ⟨0x00F800FF#32, fun w => .vall (fld w 16 3) (fld w 8 8)⟩),
  (0x87, ⟨0x00F800FF#32, fun w => .veq (fld w 16 3) (fld w 8 8)⟩),
  (0x88, ⟨0x000000FF#32, fun w => .scan (fld w 23 1) (fld w 16 7) (fld w 8 8)⟩),
  (0x89, ⟨0x000000FF#32, fun w => .scanx (fld w 23 1) (fld w 16 7) (fld w 8 8)⟩),
  (0x8A, ⟨0x000000FF#32, fun w => .reda (fld w 23 1) (fld w 16 7) (fld w 8 8)⟩),
  (0x8B, ⟨0x000000FF#32, fun w => .redmn (fld w 23 1) (fld w 16 7) (fld w 8 8)⟩),
  (0x8C, ⟨0x000000FF#32, fun w => .redmx (fld w 23 1) (fld w 16 7) (fld w 8 8)⟩),
  (0x8D, ⟨0x000000FF#32, fun w => .matchL (fld w 23 1) (fld w 16 7) (fld w 8 8)⟩),
  (0x8E, ⟨0x0000FFFF#32, fun w => .actm (fld w 23 1) (fld w 16 7)⟩),
  (0x8F, ⟨0x00F8FFFF#32, fun w => .elect (fld w 16 3)⟩)]

/-- The opcodes 0x90 to 0x9F of R238. -/
def rowsControl : FMap DecodeRow := [
  (0x90, ⟨0x00000000#32, fun w => .bra (fld w 20 4) (fld w 0 20)⟩),
  (0x91, ⟨0x00000000#32, fun w => .call (fld w 20 4) (fld w 0 20)⟩),
  (0x92, ⟨0x00FF00FF#32, fun w => .calli (fld w 8 8)⟩),
  (0x93, ⟨0x00FF00FF#32, fun w => .jmpi (fld w 8 8)⟩),
  (0x94, ⟨0x00FFFFFF#32, fun _ => .ret⟩),
  (0x95, ⟨0x00F00000#32, fun w => .join (fld w 0 20)⟩),
  (0x96, ⟨0x00FFFFFF#32, fun _ => .exit⟩),
  (0x97, ⟨0x00FFFFFF#32, fun _ => .yield⟩),
  (0x98, ⟨0x00FF0000#32, fun w => .waitc (fld w 8 8) (fld w 0 8)⟩),
  (0x99, ⟨0x00FFFF00#32, fun w => .brk (fld w 0 8)⟩),
  (0x9A, ⟨0x00000000#32, fun w => .loop (fld w 20 4) (fld w 0 20)⟩)]

/-- The opcodes 0xA0 to 0xB1 of R238. -/
def rowsMemory : FMap DecodeRow := [
  (0xA0, ⟨0x00000000#32, fun w => .ldl (fld w 23 1) (fld w 16 7) (fld w 8 8) (fld w 0 8)⟩),
  (0xA1, ⟨0x00800000#32, fun w => .stl (fld w 16 7) (fld w 8 8) (fld w 0 8)⟩),
  (0xA2, ⟨0x00000000#32, fun w => .lds (fld w 23 1) (fld w 16 7) (fld w 8 8) (fld w 0 8)⟩),
  (0xA3, ⟨0x00800000#32, fun w => .sts (fld w 16 7) (fld w 8 8) (fld w 0 8)⟩),
  (0xA4, ⟨0x00000000#32, fun w => .ldc (fld w 23 1) (fld w 16 7) (fld w 8 8) (fld w 0 8)⟩),
  (0xA5, ⟨0x00800000#32, fun w => .stc (fld w 16 7) (fld w 8 8) (fld w 0 8)⟩),
  (0xA6, ⟨0x00000000#32, fun w => .ldk (fld w 23 1) (fld w 16 7) (fld w 8 8) (fld w 0 8)⟩),
  (0xA7, ⟨0x00800000#32, fun w => .stk (fld w 16 7) (fld w 8 8) (fld w 0 8)⟩),
  (0xA8, ⟨0x00000000#32, fun w => .ldg (fld w 23 1) (fld w 16 7) (fld w 8 8) (fld w 0 8)⟩),
  (0xA9, ⟨0x00800000#32, fun w => .stg (fld w 16 7) (fld w 8 8) (fld w 0 8)⟩),
  (0xAA, ⟨0x00000000#32, fun w => .ldgs (fld w 23 1) (fld w 16 7) (fld w 8 8) (fld w 0 8)⟩),
  (0xAB, ⟨0x00800000#32, fun w => .stgs (fld w 16 7) (fld w 8 8) (fld w 0 8)⟩),
  (0xAC, ⟨0x00000000#32, fun w => .ldsq (fld w 23 1) (fld w 16 7) (fld w 8 8) (fld w 0 8)⟩),
  (0xAD, ⟨0x00800000#32, fun w => .stsq (fld w 16 7) (fld w 8 8) (fld w 0 8)⟩),
  (0xAE, ⟨0x00000000#32, fun w => .ldgq (fld w 23 1) (fld w 16 7) (fld w 8 8) (fld w 0 8)⟩),
  (0xAF, ⟨0x00800000#32, fun w => .stgq (fld w 16 7) (fld w 8 8) (fld w 0 8)⟩),
  (0xB0, ⟨0x00000000#32, fun w => .ldga (fld w 23 1) (fld w 16 7) (fld w 8 8) (fld w 0 8)⟩),
  (0xB1, ⟨0x00800000#32, fun w => .stgr (fld w 16 7) (fld w 8 8) (fld w 0 8)⟩)]

/-- The opcodes 0xB2 to 0xCF of R238. -/
def rowsAtomic : FMap DecodeRow := [
  (0xB2, ⟨0x00000000#32, fun w => .atsAdd (fld w 23 1) (fld w 16 7) (fld w 8 8) (fld w 0 8)⟩),
  (0xB3, ⟨0x00000000#32, fun w => .atsMin (fld w 23 1) (fld w 16 7) (fld w 8 8) (fld w 0 8)⟩),
  (0xB4, ⟨0x00000000#32, fun w => .atsMax (fld w 23 1) (fld w 16 7) (fld w 8 8) (fld w 0 8)⟩),
  (0xB5, ⟨0x00000000#32, fun w => .atsAnd (fld w 23 1) (fld w 16 7) (fld w 8 8) (fld w 0 8)⟩),
  (0xB6, ⟨0x00000000#32, fun w => .atsOr (fld w 23 1) (fld w 16 7) (fld w 8 8) (fld w 0 8)⟩),
  (0xB7, ⟨0x00000000#32, fun w => .atsXor (fld w 23 1) (fld w 16 7) (fld w 8 8) (fld w 0 8)⟩),
  (0xB8, ⟨0x00000000#32, fun w => .atsXch (fld w 23 1) (fld w 16 7) (fld w 8 8) (fld w 0 8)⟩),
  (0xB9, ⟨0x00000000#32, fun w => .atsCas (fld w 23 1) (fld w 16 7) (fld w 8 8) (fld w 0 8)⟩),
  (0xBA, ⟨0x00000000#32, fun w => .atgAdd (fld w 23 1) (fld w 16 7) (fld w 8 8) (fld w 0 8)⟩),
  (0xBB, ⟨0x00000000#32, fun w => .atgMin (fld w 23 1) (fld w 16 7) (fld w 8 8) (fld w 0 8)⟩),
  (0xBC, ⟨0x00000000#32, fun w => .atgMax (fld w 23 1) (fld w 16 7) (fld w 8 8) (fld w 0 8)⟩),
  (0xBD, ⟨0x00000000#32, fun w => .atgAnd (fld w 23 1) (fld w 16 7) (fld w 8 8) (fld w 0 8)⟩),
  (0xBE, ⟨0x00000000#32, fun w => .atgOr (fld w 23 1) (fld w 16 7) (fld w 8 8) (fld w 0 8)⟩),
  (0xBF, ⟨0x00000000#32, fun w => .atgXor (fld w 23 1) (fld w 16 7) (fld w 8 8) (fld w 0 8)⟩),
  (0xC0, ⟨0x00000000#32, fun w => .atgXch (fld w 23 1) (fld w 16 7) (fld w 8 8) (fld w 0 8)⟩),
  (0xC1, ⟨0x00000000#32, fun w => .atgCas (fld w 23 1) (fld w 16 7) (fld w 8 8) (fld w 0 8)⟩),
  (0xC2, ⟨0x00000000#32, fun w => .atcAdd (fld w 23 1) (fld w 16 7) (fld w 8 8) (fld w 0 8)⟩),
  (0xC3, ⟨0x00000000#32, fun w => .atcCas (fld w 23 1) (fld w 16 7) (fld w 8 8) (fld w 0 8)⟩),
  (0xC4, ⟨0x00000000#32, fun w => .atgsAdd (fld w 23 1) (fld w 16 7) (fld w 8 8) (fld w 0 8)⟩),
  (0xC5, ⟨0x00000000#32, fun w => .atgsCas (fld w 23 1) (fld w 16 7) (fld w 8 8) (fld w 0 8)⟩),
  (0xC6, ⟨0x00800000#32, fun w => .reds (fld w 16 7) (fld w 8 8) (fld w 0 8)⟩),
  (0xC7, ⟨0x00800000#32, fun w => .redg (fld w 16 7) (fld w 8 8) (fld w 0 8)⟩),
  (0xC8, ⟨0x00FFC000#32, fun w => .fence (fld w 12 2) (fld w 4 8) (fld w 0 4)⟩),
  (0xC9, ⟨0x00000000#32, fun w => .gath (fld w 23 1) (fld w 16 7) (fld w 8 8) (fld w 0 8)⟩)] ++ [
  (0xCA, ⟨0x00800000#32, fun w => .scat (fld w 16 7) (fld w 8 8) (fld w 0 8)⟩),
  (0xCB, ⟨0x00800000#32, fun w => .stgc (fld w 16 7) (fld w 8 8) (fld w 0 8)⟩),
  (0xCC, ⟨0x00000000#32, fun w => .ldge (fld w 23 1) (fld w 16 7) (fld w 8 8) (fld w 0 8)⟩),
  (0xCD, ⟨0x00FF0000#32, fun w => .pfg (fld w 8 8) (fld w 0 8)⟩)]

/-- The opcodes 0xD0 to 0xEF of R238. -/
def rowsEngine : FMap DecodeRow := [
  (0xD0, ⟨0x00FF00FF#32, fun w => .cstep (fld w 8 8)⟩),
  (0xD1, ⟨0x0000FFFF#32, fun w => .cstat (fld w 23 1) (fld w 16 7)⟩),
  (0xD2, ⟨0x00FF0000#32, fun w => .binit (fld w 8 8) (fld w 0 8)⟩),
  (0xD3, ⟨0x00FF0000#32, fun w => .barv (fld w 8 8) (fld w 0 8)⟩),
  (0xD4, ⟨0x00FF0000#32, fun w => .bexp (fld w 8 8) (fld w 0 8)⟩),
  (0xD5, ⟨0x00FF0000#32, fun w => .bwait (fld w 8 8) (fld w 0 8)⟩),
  (0xD6, ⟨0x00F80000#32, fun w => .btest (fld w 16 3) (fld w 8 8) (fld w 0 8)⟩),
  (0xD7, ⟨0x00FF0000#32, fun w => .binv (fld w 8 8) (fld w 0 8)⟩),
  (0xD8, ⟨0x00FF0000#32, fun w => .rrot (fld w 8 8) (fld w 0 8)⟩),
  (0xD9, ⟨0x00FF0000#32, fun w => .sppin (fld w 8 8) (fld w 0 8)⟩),
  (0xDA, ⟨0x00FF0000#32, fun w => .sprel (fld w 8 8) (fld w 0 8)⟩),
  (0xDB, ⟨0x00FF0000#32, fun w => .spawn (fld w 8 8) (fld w 0 8)⟩),
  (0xDC, ⟨0x00FF0000#32, fun w => .tdep (fld w 8 8) (fld w 0 8)⟩),
  (0xDD, ⟨0x00FF00FF#32, fun w => .tsig (fld w 8 8)⟩),
  (0xDE, ⟨0x00FF00FC#32, fun w => .post (fld w 8 8) (fld w 1 1) (fld w 0 1)⟩),
  (0xDF, ⟨0x00FF00FD#32, fun w => .seal (fld w 8 8) (fld w 1 1)⟩),
  (0xE0, ⟨0x000000FD#32, fun w => .pmrk (fld w 23 1) (fld w 16 7) (fld w 8 8) (fld w 1 1)⟩),
  (0xE1, ⟨0x00FF0000#32, fun w => .subs (fld w 8 8) (fld w 0 8)⟩),
  (0xE2, ⟨0x00FF00FE#32, fun w => .settle (fld w 8 8) (fld w 0 1)⟩),
  (0xE3, ⟨0x00FF00FF#32, fun w => .lque (fld w 8 8)⟩),
  (0xE4, ⟨0x00800000#32, fun w => .lmma (fld w 16 7) (fld w 8 8) (fld w 0 8)⟩),
  (0xE5, ⟨0x00FF00FF#32, fun w => .aalloc (fld w 8 8)⟩),
  (0xE6, ⟨0x00FFFFFF#32, fun _ => .afree⟩),
  (0xE7, ⟨0x00000000#32, fun w => .adrn (fld w 23 1) (fld w 16 7) (fld w 8 8) (fld w 0 8)⟩)] ++ [
  (0xE8, ⟨0x00FF0000#32, fun w => .afil (fld w 8 8) (fld w 0 8)⟩),
  (0xE9, ⟨0x00000000#32, fun w => .trace (fld w 23 1) (fld w 16 7) (fld w 8 8) (fld w 0 8)⟩),
  (0xEA, ⟨0x00FF0000#32, fun w => .psend (fld w 8 8) (fld w 0 8)⟩),
  (0xEB, ⟨0x00000000#32, fun w => .comp (fld w 23 1) (fld w 16 7) (fld w 8 8) (fld w 0 8)⟩)]

/-- The opcodes 0xF0 to 0xFF of R238. -/
def rowsSystem : FMap DecodeRow := [
  (0xF0, ⟨0x00000000#32, fun w => .trap (fld w 0 24)⟩),
  (0xF1, ⟨0x00FFFFFF#32, fun _ => .rte⟩),
  (0xF2, ⟨0x00000000#32, fun w => .srd (fld w 23 1) (fld w 16 7) (fld w 0 16)⟩),
  (0xF3, ⟨0x00800000#32, fun w => .swr (fld w 16 7) (fld w 0 16)⟩),
  (0xF4, ⟨0x00FF00FF#32, fun w => .mapack (fld w 8 8)⟩),
  (0xF5, ⟨0x00FFFFFF#32, fun _ => .icinv⟩),
  (0xF6, ⟨0x0000FFFF#32, fun w => .cyc (fld w 23 1) (fld w 16 7)⟩),
  (0xF7, ⟨0x00FF00FF#32, fun w => .pause (fld w 8 8)⟩)]

/-- The opcode map of R238. -/
def opcodeMap : FMap DecodeRow :=
  rowsBasic ++ rowsInteger ++ rowsCompare ++ rowsFloat ++ rowsConvert ++ rowsLane ++ rowsControl ++ rowsMemory ++ rowsAtomic ++ rowsEngine ++ rowsSystem

/-- Decode one instruction word. -/
def decode (w : Word) : Except DecodeError Instr :=
  match FMap.get? opcodeMap (fld w 24 8).toNat with
  | none => .error .unassigned
  | some r => if w &&& r.zero = 0 then .ok (r.build w) else .error .reserved

/-- Decode the four bytes of a word, the first at the lowest address (R3). -/
def decodeBytes (b : List Byte) : Except DecodeError Instr := decode (BitVec.ofNat 32 (leNat b))

/-- The instruction the decoder reads from a word numbered as spec/opcode_table.json numbers it. -/
def decodeTableWord (nbits w : Nat) : Option Instr :=
  if nbits ≤ 32 then
    match decodeBytes (leBytes w 4) with
    | .ok i => some i
    | .error _ => none
  else none

/-- The word of an instruction of R238 (R225); an event of the device has none. -/
def encode : Instr → Option Word
  | .nop => some (0x00#8 ++ 0#24)
  | .mode i => some (0x01#8 ++ 0#5 ++ i)
  | .mshape m n => some (0x02#8 ++ 0#16 ++ m ++ n)
  | .lit i => some (0x03#8 ++ i)
  | .lith i => some (0x04#8 ++ 0#8 ++ i)
  | .mov w d a => some (0x05#8 ++ w ++ d ++ a ++ 0#8)
  | .movs w d a => some (0x06#8 ++ w ++ d ++ a ++ 0#8)
  | .sel w d a b => some (0x07#8 ++ w ++ d ++ a ++ b)
  | .add w d a b => some (0x10#8 ++ w ++ d ++ a ++ b)
  | .sub w d a b => some (0x11#8 ++ w ++ d ++ a ++ b)
  | .mul w d a b => some (0x12#8 ++ w ++ d ++ a ++ b)
  | .mulh w d a b => some (0x13#8 ++ w ++ d ++ a ++ b)
  | .mad w d a b => some (0x14#8 ++ w ++ d ++ a ++ b)
  | .min w d a b => some (0x15#8 ++ w ++ d ++ a ++ b)
  | .max w d a b => some (0x16#8 ++ w ++ d ++ a ++ b)
  | .abs w d a => some (0x17#8 ++ w ++ d ++ a ++ 0#8)
  | .neg w d a => some (0x18#8 ++ w ++ d ++ a ++ 0#8)
  | .and w d a b => some (0x19#8 ++ w ++ d ++ a ++ b)
  | .or w d a b => some (0x1A#8 ++ w ++ d ++ a ++ b)
  | .xor w d a b => some (0x1B#8 ++ w ++ d ++ a ++ b)
  | .andn w d a b => some (0x1C#8 ++ w ++ d ++ a ++ b)
  | .not w d a => some (0x1D#8 ++ w ++ d ++ a ++ 0#8)
  | .shl w d a b => some (0x1E#8 ++ w ++ d ++ a ++ b)
  | .shr w d a b => some (0x1F#8 ++ w ++ d ++ a ++ b)
  | .sar w d a b => some (0x20#8 ++ w ++ d ++ a ++ b)
  | .rot w d a b => some (0x21#8 ++ w ++ d ++ a ++ b)
  | .clz w d a => some (0x22#8 ++ w ++ d ++ a ++ 0#8)
  | .ctz w d a => some (0x23#8 ++ w ++ d ++ a ++ 0#8)
  | .popc w d a => some (0x24#8 ++ w ++ d ++ a ++ 0#8)
  | .brev w d a => some (0x25#8 ++ w ++ d ++ a ++ 0#8)
  | .bswap w d a => some (0x26#8 ++ w ++ d ++ a ++ 0#8)
  | .bfx w d a b => some (0x27#8 ++ w ++ d ++ a ++ b)
  | .bfi w d a b => some (0x28#8 ++ w ++ d ++ a ++ b)
  | .lea1 w d a b => some (0x29#8 ++ w ++ d ++ a ++ b)
  | .lea2 w d a b => some (0x2A#8 ++ w ++ d ++ a ++ b)
  | .lea3 w d a b => some (0x2B#8 ++ w ++ d ++ a ++ b)
  | .lea4 w d a b => some (0x2C#8 ++ w ++ d ++ a ++ b)
  | .absd w d a b => some (0x2D#8 ++ w ++ d ++ a ++ b)
  | .avg w d a b => some (0x2E#8 ++ w ++ d ++ a ++ b)
  | .dot4 w d a b => some (0x2F#8 ++ w ++ d ++ a ++ b)
  | .dotq w d a b => some (0x30#8 ++ w ++ d ++ a ++ b)
  | .pack2 w d a b => some (0x31#8 ++ w ++ d ++ a ++ b)
  | .prmb w d a b => some (0x32#8 ++ w ++ d ++ a ++ b)
  | .ceq d a b => some (0x38#8 ++ 0#5 ++ d ++ a ++ b)
  | .cne d a b => some (0x39#8 ++ 0#5 ++ d ++ a ++ b)
  | .clt d a b => some (0x3A#8 ++ 0#5 ++ d ++ a ++ b)
  | .cle d a b => some (0x3B#8 ++ 0#5 ++ d ++ a ++ b)
  | .cgt d a b => some (0x3C#8 ++ 0#5 ++ d ++ a ++ b)
  | .cge d a b => some (0x3D#8 ++ 0#5 ++ d ++ a ++ b)
  | .cun d a b => some (0x3E#8 ++ 0#5 ++ d ++ a ++ b)
  | .ctst d a b => some (0x3F#8 ++ 0#5 ++ d ++ a ++ b)
  | .pand d n a m b => some (0x40#8 ++ 0#5 ++ d ++ 0#4 ++ n ++ a ++ 0#4 ++ m ++ b)
  | .por d n a m b => some (0x41#8 ++ 0#5 ++ d ++ 0#4 ++ n ++ a ++ 0#4 ++ m ++ b)
  | .pxor d n a m b => some (0x42#8 ++ 0#5 ++ d ++ 0#4 ++ n ++ a ++ 0#4 ++ m ++ b)
  | .pnot d n a => some (0x43#8 ++ 0#5 ++ d ++ 0#4 ++ n ++ a ++ 0#8)
  | .pmov d n a => some (0x44#8 ++ 0#5 ++ d ++ 0#4 ++ n ++ a ++ 0#8)
  | .pget w d => some (0x45#8 ++ w ++ d ++ 0#16)
  | .fadd w d a b => some (0x50#8 ++ w ++ d ++ a ++ b)
  | .fsub w d a b => some (0x51#8 ++ w ++ d ++ a ++ b)
  | .fmul w d a b => some (0x52#8 ++ w ++ d ++ a ++ b)
  | .ffma w d a b => some (0x53#8 ++ w ++ d ++ a ++ b)
  | .ffms w d a b => some (0x54#8 ++ w ++ d ++ a ++ b)
  | .fnma w d a b => some (0x55#8 ++ w ++ d ++ a ++ b)
  | .fmin w d a b => some (0x56#8 ++ w ++ d ++ a ++ b)
  | .fmax w d a b => some (0x57#8 ++ w ++ d ++ a ++ b)
  | .fabs w d a => some (0x58#8 ++ w ++ d ++ a ++ 0#8)
  | .fneg w d a => some (0x59#8 ++ w ++ d ++ a ++ 0#8)
  | .frcp w d a => some (0x5A#8 ++ w ++ d ++ a ++ 0#8)
  | .frsq w d a => some (0x5B#8 ++ w ++ d ++ a ++ 0#8)
  | .fsqrt w d a => some (0x5C#8 ++ w ++ d ++ a ++ 0#8)
  | .fdiv w d a b => some (0x5D#8 ++ w ++ d ++ a ++ b)
  | .fexp2 w d a => some (0x5E#8 ++ w ++ d ++ a ++ 0#8)
  | .flog2 w d a => some (0x5F#8 ++ w ++ d ++ a ++ 0#8)
  | .fsinp w d a => some (0x60#8 ++ w ++ d ++ a ++ 0#8)
  | .fcosp w d a => some (0x61#8 ++ w ++ d ++ a ++ 0#8)
  | .fflr w d a => some (0x62#8 ++ w ++ d ++ a ++ 0#8)
  | .fceil w d a => some (0x63#8 ++ w ++ d ++ a ++ 0#8)
  | .frnd w d a => some (0x64#8 ++ w ++ d ++ a ++ 0#8)
  | .ffrc w d a => some (0x65#8 ++ w ++ d ++ a ++ 0#8)
  | .fcls w d a => some (0x66#8 ++ w ++ d ++ a ++ 0#8)
  | .fscl w d a b => some (0x67#8 ++ w ++ d ++ a ++ b)
  | .fgete w d a => some (0x68#8 ++ w ++ d ++ a ++ 0#8)
  | .fdot2 w d a b => some (0x69#8 ++ w ++ d ++ a ++ b)
  | .cvt w d a => some (0x70#8 ++ w ++ d ++ a ++ 0#8)
  | .cvpk w d a b => some (0x71#8 ++ w ++ d ++ a ++ b)
  | .cvlo w d a => some (0x72#8 ++ w ++ d ++ a ++ 0#8)
  | .cvhi w d a => some (0x73#8 ++ w ++ d ++ a ++ 0#8)
  | .shfli w d a b => some (0x80#8 ++ w ++ d ++ a ++ b)
  | .shflx w d a b => some (0x81#8 ++ w ++ d ++ a ++ b)
  | .shflb w d a b => some (0x82#8 ++ w ++ d ++ a ++ b)
  | .shflf w d a b => some (0x83#8 ++ w ++ d ++ a ++ b)
  | .ballot w d a => some (0x84#8 ++ w ++ d ++ a ++ 0#8)
  | .vany d a => some (0x85#8 ++ 0#5 ++ d ++ a ++ 0#8)
  | .vall d a => some (0x86#8 ++ 0#5 ++ d ++ a ++ 0#8)
  | .veq d a => some (0x87#8 ++ 0#5 ++ d ++ a ++ 0#8)
  | .scan w d a => some (0x88#8 ++ w ++ d ++ a ++ 0#8)
  | .scanx w d a => some (0x89#8 ++ w ++ d ++ a ++ 0#8)
  | .reda w d a => some (0x8A#8 ++ w ++ d ++ a ++ 0#8)
  | .redmn w d a => some (0x8B#8 ++ w ++ d ++ a ++ 0#8)
  | .redmx w d a => some (0x8C#8 ++ w ++ d ++ a ++ 0#8)
  | .matchL w d a => some (0x8D#8 ++ w ++ d ++ a ++ 0#8)
  | .actm w d => some (0x8E#8 ++ w ++ d ++ 0#16)
  | .elect d => some (0x8F#8 ++ 0#5 ++ d ++ 0#16)
  | .bra c o => some (0x90#8 ++ c ++ o)
  | .call c o => some (0x91#8 ++ c ++ o)
  | .calli a => some (0x92#8 ++ 0#8 ++ a ++ 0#8)
  | .jmpi a => some (0x93#8 ++ 0#8 ++ a ++ 0#8)
  | .ret => some (0x94#8 ++ 0#24)
  | .join o => some (0x95#8 ++ 0#4 ++ o)
  | .exit => some (0x96#8 ++ 0#24)
  | .yield => some (0x97#8 ++ 0#24)
  | .waitc a b => some (0x98#8 ++ 0#8 ++ a ++ b)
  | .brk b => some (0x99#8 ++ 0#16 ++ b)
  | .loop c o => some (0x9A#8 ++ c ++ o)
  | .ldl w d a b => some (0xA0#8 ++ w ++ d ++ a ++ b)
  | .stl d a b => some (0xA1#8 ++ 0#1 ++ d ++ a ++ b)
  | .lds w d a b => some (0xA2#8 ++ w ++ d ++ a ++ b)
  | .sts d a b => some (0xA3#8 ++ 0#1 ++ d ++ a ++ b)
  | .ldc w d a b => some (0xA4#8 ++ w ++ d ++ a ++ b)
  | .stc d a b => some (0xA5#8 ++ 0#1 ++ d ++ a ++ b)
  | .ldk w d a b => some (0xA6#8 ++ w ++ d ++ a ++ b)
  | .stk d a b => some (0xA7#8 ++ 0#1 ++ d ++ a ++ b)
  | .ldg w d a b => some (0xA8#8 ++ w ++ d ++ a ++ b)
  | .stg d a b => some (0xA9#8 ++ 0#1 ++ d ++ a ++ b)
  | .ldgs w d a b => some (0xAA#8 ++ w ++ d ++ a ++ b)
  | .stgs d a b => some (0xAB#8 ++ 0#1 ++ d ++ a ++ b)
  | .ldsq w d a b => some (0xAC#8 ++ w ++ d ++ a ++ b)
  | .stsq d a b => some (0xAD#8 ++ 0#1 ++ d ++ a ++ b)
  | .ldgq w d a b => some (0xAE#8 ++ w ++ d ++ a ++ b)
  | .stgq d a b => some (0xAF#8 ++ 0#1 ++ d ++ a ++ b)
  | .ldga w d a b => some (0xB0#8 ++ w ++ d ++ a ++ b)
  | .stgr d a b => some (0xB1#8 ++ 0#1 ++ d ++ a ++ b)
  | .atsAdd w d a b => some (0xB2#8 ++ w ++ d ++ a ++ b)
  | .atsMin w d a b => some (0xB3#8 ++ w ++ d ++ a ++ b)
  | .atsMax w d a b => some (0xB4#8 ++ w ++ d ++ a ++ b)
  | .atsAnd w d a b => some (0xB5#8 ++ w ++ d ++ a ++ b)
  | .atsOr w d a b => some (0xB6#8 ++ w ++ d ++ a ++ b)
  | .atsXor w d a b => some (0xB7#8 ++ w ++ d ++ a ++ b)
  | .atsXch w d a b => some (0xB8#8 ++ w ++ d ++ a ++ b)
  | .atsCas w d a b => some (0xB9#8 ++ w ++ d ++ a ++ b)
  | .atgAdd w d a b => some (0xBA#8 ++ w ++ d ++ a ++ b)
  | .atgMin w d a b => some (0xBB#8 ++ w ++ d ++ a ++ b)
  | .atgMax w d a b => some (0xBC#8 ++ w ++ d ++ a ++ b)
  | .atgAnd w d a b => some (0xBD#8 ++ w ++ d ++ a ++ b)
  | .atgOr w d a b => some (0xBE#8 ++ w ++ d ++ a ++ b)
  | .atgXor w d a b => some (0xBF#8 ++ w ++ d ++ a ++ b)
  | .atgXch w d a b => some (0xC0#8 ++ w ++ d ++ a ++ b)
  | .atgCas w d a b => some (0xC1#8 ++ w ++ d ++ a ++ b)
  | .atcAdd w d a b => some (0xC2#8 ++ w ++ d ++ a ++ b)
  | .atcCas w d a b => some (0xC3#8 ++ w ++ d ++ a ++ b)
  | .atgsAdd w d a b => some (0xC4#8 ++ w ++ d ++ a ++ b)
  | .atgsCas w d a b => some (0xC5#8 ++ w ++ d ++ a ++ b)
  | .reds d a b => some (0xC6#8 ++ 0#1 ++ d ++ a ++ b)
  | .redg d a b => some (0xC7#8 ++ 0#1 ++ d ++ a ++ b)
  | .fence k m s => some (0xC8#8 ++ 0#10 ++ k ++ m ++ s)
  | .gath w d a b => some (0xC9#8 ++ w ++ d ++ a ++ b)
  | .scat d a b => some (0xCA#8 ++ 0#1 ++ d ++ a ++ b)
  | .stgc d a b => some (0xCB#8 ++ 0#1 ++ d ++ a ++ b)
  | .ldge w d a b => some (0xCC#8 ++ w ++ d ++ a ++ b)
  | .pfg a b => some (0xCD#8 ++ 0#8 ++ a ++ b)
  | .cstep a => some (0xD0#8 ++ 0#8 ++ a ++ 0#8)
  | .cstat w d => some (0xD1#8 ++ w ++ d ++ 0#16)
  | .binit a b => some (0xD2#8 ++ 0#8 ++ a ++ b)
  | .barv a b => some (0xD3#8 ++ 0#8 ++ a ++ b)
  | .bexp a b => some (0xD4#8 ++ 0#8 ++ a ++ b)
  | .bwait a b => some (0xD5#8 ++ 0#8 ++ a ++ b)
  | .btest d a b => some (0xD6#8 ++ 0#5 ++ d ++ a ++ b)
  | .binv a b => some (0xD7#8 ++ 0#8 ++ a ++ b)
  | .rrot a b => some (0xD8#8 ++ 0#8 ++ a ++ b)
  | .sppin a b => some (0xD9#8 ++ 0#8 ++ a ++ b)
  | .sprel a b => some (0xDA#8 ++ 0#8 ++ a ++ b)
  | .spawn a b => some (0xDB#8 ++ 0#8 ++ a ++ b)
  | .tdep a b => some (0xDC#8 ++ 0#8 ++ a ++ b)
  | .tsig a => some (0xDD#8 ++ 0#8 ++ a ++ 0#8)
  | .post a k f => some (0xDE#8 ++ 0#8 ++ a ++ 0#6 ++ k ++ f)
  | .seal a k => some (0xDF#8 ++ 0#8 ++ a ++ 0#6 ++ k ++ 0#1)
  | .pmrk w d a k => some (0xE0#8 ++ w ++ d ++ a ++ 0#6 ++ k ++ 0#1)
  | .subs a b => some (0xE1#8 ++ 0#8 ++ a ++ b)
  | .settle a f => some (0xE2#8 ++ 0#8 ++ a ++ 0#7 ++ f)
  | .lque a => some (0xE3#8 ++ 0#8 ++ a ++ 0#8)
  | .lmma d a b => some (0xE4#8 ++ 0#1 ++ d ++ a ++ b)
  | .aalloc a => some (0xE5#8 ++ 0#8 ++ a ++ 0#8)
  | .afree => some (0xE6#8 ++ 0#24)
  | .adrn w d a b => some (0xE7#8 ++ w ++ d ++ a ++ b)
  | .afil a b => some (0xE8#8 ++ 0#8 ++ a ++ b)
  | .trace w d a b => some (0xE9#8 ++ w ++ d ++ a ++ b)
  | .psend a b => some (0xEA#8 ++ 0#8 ++ a ++ b)
  | .comp w d a b => some (0xEB#8 ++ w ++ d ++ a ++ b)
  | .trap i => some (0xF0#8 ++ i)
  | .rte => some (0xF1#8 ++ 0#24)
  | .srd w d s => some (0xF2#8 ++ w ++ d ++ s)
  | .swr d s => some (0xF3#8 ++ 0#1 ++ d ++ s)
  | .mapack a => some (0xF4#8 ++ 0#8 ++ a ++ 0#8)
  | .icinv => some (0xF5#8 ++ 0#24)
  | .cyc w d => some (0xF6#8 ++ w ++ d ++ 0#16)
  | .pause a => some (0xF7#8 ++ 0#8 ++ a ++ 0#8)
  | .pauseExpiry .. | .loadReturn .. | .fenceComplete .. | .mapackAnswer .. | .powerOn .. | .clusterWake ..
  | .loomRampStage .. | .fwcmd .. | .fwVerifyDone .. | .attcmd .. | .attestReportDone .. | .laneSpare ..
  | .coreDrain .. | .coreRetire .. | .channelSpare .. | .channelCopyDone .. | .linkLaneFailure .. | .linkRetrainDone ..
  | .l2Way .. | .portDown .. | .islandRetire .. | .mapchgDelivery .. | .deferredFaultDelivery .. | .graceExpiry ..
  | .hostack .. | .timeoutUnknown .. | .remoteResponse .. | .orderedFlagRelease .. | .flitReceive .. | .flitNak ..
  | .keyLoad .. | .keySwitch .. | .frankingAck .. | .uudPacketDrop .. | .compositingPassStart .. | .compositingTileArrival ..
  | .peerTimeout .. | .reductionExchange .. | .collectiveSetup .. | .collectiveSetupDone .. | .collectiveTeardown .. | .collectiveTeardownDone ..
  | .parcelArrival .. | .receiveSlotGrant .. | .preg .. | .pregWithdrawDone .. | .borrowGatherResponse .. | .borrowGatherTimeout ..
  | .postmarkNotice .. | .noticeAck .. | .noticeTimeout .. | .tail .. | .launchRecordFetch .. | .kill ..
  | .launchComplete .. | .gangPlace .. | .gangPreempt .. | .gangMigrate .. | .gangResume .. | .sysreply ..
  | .systail .. | .resclr .. | .swapOut .. | .swapIn .. | .swapDone .. | .halt ..
  | .resume .. | .read .. | .write .. | .force .. | .step .. | .partitionEn ..
  | .vfEnableChange .. | .phmask .. | .invalidatePage .. | .invalidateAll .. | .invalidationDone .. | .sealgrp ..
  | .pigeonholeTail .. | .apertureHostWrite .. | .registerWrite .. | .sideLogRetry .. | .courierRetry .. | .docketSlotRetry ..
  | .docketAccept .. | .docketIssue .. | .runComplete .. | .pagerTransferDone .. | .courierInstanceDone .. | .mma ..
  | .mmaz .. | .drain .. | .endList .. | .loomRingPhase .. | .sduDone .. | .traceDone ..
  | .scoreHalving .. | .borrowGatherRequest .. | .retrainingDone .. | .portDisable .. | .grantRevocation .. => none

end Sys2Proof
end

