-- ==== Sys2Proof/Config.lean ====
section
/-! DEFINITION. What the D480 fixes for every run, and the values the spec leaves open: constants without a body,
so that nothing can evaluate them. Each is named in the assumption log. -/

namespace Sys2Proof

/-- Which result within the bound of R265 an approximating function returns: a function of the opcode, the operand
bits and gm, the same on every run (log 6). -/
opaque Config.approx : Nat → BitVec 32 → BitVec 32 → Nat
/-- The free credits that a link has when a path is chosen: the number of the choice, the link (R34 gives credits no numbers,
log 9). -/
opaque Config.credits : Nat → Nat → Nat
/-- The intersection of a ray (eight words) with a triangle (nine words): t, u and v as f16 (R180 gives no
arithmetic, log 7). -/
opaque Config.triangleHit : BitVec 256 → BitVec 288 → Option (BitVec 32 × BitVec 16 × BitVec 16)
/-- The entry t of a ray into a box of six words, or none (R179, R180; log 7). -/
opaque Config.boxEntry : BitVec 256 → BitVec 192 → Option (BitVec 32)
/-- The words of a hit record that R180 does not state: T, id, u and v of a miss, u and v of a portal (log 7). -/
opaque Config.traceOpen : BitVec 256 → Nat → BitVec 32
/-- LSTAT's code for a lane whose trace failed in a way that R297 gives no code (log 7). -/
opaque Config.traceStatus : BitVec 8 → BitVec 8
/-- The package's own number (R66; no register holds it, log 26). -/
opaque Config.package : BitVec 16
/-- SHA-256 of a byte string (R18, R19; the algorithm stands outside the spec, log 8). -/
opaque Config.sha256 : List Byte → BitVec 256
/-- Whether a firmware image passes the verification of R18, under the vendor's key in the fuses (log 8). -/
opaque Config.imageVerified : List Byte → Bool
/-- The measurement of stored firmware image i (R19, R20; log 8). -/
opaque Config.fwMeasurement : Nat → BitVec 256
/-- Byte i of the LMS signature that leaf l makes of a message (R19, R20; log 8). -/
opaque Config.lmsByte : Nat → List Byte → Nat → Byte

/-- The source package of an intermediate address in a borrow window (no rule says how the window names it, log 21). -/
opaque Config.borrowPkg : Nat → Nat
/-- The source tile header of an intermediate address in a borrow window (log 21). -/
opaque Config.borrowHeader : Nat → BitVec 64

/-- The CODE of a Loom list whose command cannot be read, or whose DRAIN cannot be written, for the cause met (R174
lists no code for it, log 25). -/
opaque Config.loomWalkCode : BitVec 8 → BitVec 8

/-- The die on which a launch's chip scratchpad begins (no rule says how an allocation lies on the dies, log 29). -/
opaque Config.chipDie : Nat → Nat

/-- The lane that a link drops after eight failures of one flit (R44 names none, log 28). -/
opaque Config.failedLane : Nat → Nat

/-- The core whose number a workgroup reads, modulo 192, while it is off its cores (R129 gives CORE no value then, log 102). -/
opaque Config.offCore : Nat → Nat

/-- The bytes that the n-th swap out leaves in the save area (no rule gives their layout, log 48). -/
opaque Config.saved : Nat → List Byte

/-- Logical cores of the package at full health (R1, R11). -/
def Config.cores : Nat := 192
/-- Capacity of HBM: 512 GB, decimal (R1, R4), 7,812,500 frames of 64 KiB. -/
def Config.hbmBytes : Nat := 512000000000
/-- Physical scratch frames of a core (R90). -/
def Config.frames : Nat := 384
/-- Side-log entries of a core (R111). -/
def Config.sideLogSize : Nat := 64
/-- Deferred faults a gang queues (R188). -/
def Config.deferredSize : Nat := 8
/-- Loom command lists a core queues (R170). -/
def Config.loomQueue : Nat := 8
/-- Traces a core queues (R179). -/
def Config.traceQueue : Nat := 64
/-- Compositing jobs that run at once (R71). -/
def Config.jobs : Nat := 64
/-- Pairs of the lender table (R70). -/
def Config.lenderPairs : Nat := 4096
/-- Pairs of a die's residency filter (R84). -/
def Config.filterPairs : Nat := 512

end Sys2Proof
end

