-- ==== Sys2Proof/Machine/Float.lean ====
section
/-! DEFINITION. The element types, exact values, ROUND, conversions and dot products of
spec/06_number_formats.md, and the correctly rounded and the approximating functions of
spec/15_float_and_convert.md. Values are exact (a signed integer times a power of two) until ROUND. -/

namespace Sys2Proof.Machine

/-- The bits of AFLAGS that an operation raises (R123): NV 1, DZ 2, OF 4, UF 8, NX 16, SAT 32, FMT 64. -/
abbrev Flags := BitVec 7
abbrev fNV : Flags := 1
abbrev fDZ : Flags := 2
abbrev fOF : Flags := 4
abbrev fUF : Flags := 8
abbrev fNX : Flags := 16
abbrev fSAT : Flags := 32
abbrev fFMT : Flags := 64

/-- Width in bits of a type code (R114); 0 for a code that names no type. -/
def tyBits : Nat → Nat
  | 0 => 8 | 1 => 16 | 2 => 32 | 3 => 64 | 4 => 8 | 5 => 16 | 6 => 32 | 7 => 64
  | 8 => 16 | 9 => 16 | 10 => 32 | 11 => 64 | 12 => 8 | 13 => 8 | 14 => 4 | _ => 0

/-- Bytes an element access moves (R289): q4x moves a whole register. -/
def tyBytes (t : Nat) : Nat := if t = 14 then 4 else tyBits t / 8

/-- Elements per register, 1 for a 64-bit type (R242, R271). -/
def tyElems (t : Nat) : Nat := if tyBits t = 64 then 1 else 32 / tyBits t

def tyIs64 (t : Nat) : Bool := t == 3 || t == 7 || t == 11
def tyIsB (t : Nat) : Bool := t ≤ 3
def tyIsI (t : Nat) : Bool := 4 ≤ t && t ≤ 7
def tyIsInt (t : Nat) : Bool := t ≤ 7
def tyIsFloat (t : Nat) : Bool := 8 ≤ t && t ≤ 13

/-- A floating format (R116, R117): exponent bits, fraction bits, bias, whether the all-ones exponent is ordinary
(f8a), whether FTZ applies (R121). -/
structure Fmt where
  ebits : Nat
  fbits : Nat
  bias  : Nat
  noInf : Bool
  ftz   : Bool
deriving DecidableEq, Repr

def fmtF16  : Fmt := ⟨5, 10, 15, false, true⟩
def fmtBF16 : Fmt := ⟨8, 7, 127, false, true⟩
def fmtF32  : Fmt := ⟨8, 23, 127, false, true⟩
def fmtF64  : Fmt := ⟨11, 52, 1023, false, true⟩
def fmtF8A  : Fmt := ⟨4, 3, 7, true, false⟩
def fmtF8B  : Fmt := ⟨5, 2, 15, false, false⟩
def fmtA80  : Fmt := ⟨15, 64, 16383, false, false⟩

/-- The format of a float type code (R117). -/
def fmtOf : Nat → Fmt
  | 8 => fmtF16 | 9 => fmtBF16 | 11 => fmtF64 | 12 => fmtF8A | 13 => fmtF8B | _ => fmtF32

/-- An exact value: NaN, an infinity, or (−1)^neg · m · 2^e (R116). -/
inductive FV where
  | nan
  | inf (neg : Bool)
  | fin (neg : Bool) (m : Nat) (e : Int)
deriving DecidableEq, Repr

/-- The bits of the canonical NaN of a format (R117). -/
def Fmt.nan (f : Fmt) : Nat :=
  if f.noInf then 0x7F else (2 ^ f.ebits - 1) * 2 ^ f.fbits + 2 ^ (f.fbits - 1)

def Fmt.signBit (f : Fmt) : Nat := 2 ^ (f.ebits + f.fbits)

/-- The bits of an infinity. -/
def Fmt.inf (f : Fmt) (neg : Bool) : Nat :=
  (if neg then f.signBit else 0) + (2 ^ f.ebits - 1) * 2 ^ f.fbits

/-- The significand and the power of two of the largest finite value (R117). -/
def Fmt.maxM (f : Fmt) : Nat := if f.noInf then 2 ^ (f.fbits + 1) - 2 else 2 ^ (f.fbits + 1) - 1
def Fmt.maxQ (f : Fmt) : Int := (if f.noInf then (f.bias : Int) + 1 else f.bias) - f.fbits

/-- The bits of ±largest finite. -/
def Fmt.maxBits (f : Fmt) (neg : Bool) : Nat :=
  (if neg then f.signBit else 0) +
    (if f.noInf then 0x7E else (2 ^ f.ebits - 1) * 2 ^ f.fbits - 1)

/-- The exact value of an encoding (R116, R117). -/
def Fmt.decode (f : Fmt) (x : Nat) : FV :=
  let neg := x / f.signBit % 2 == 1
  let ex := x / 2 ^ f.fbits % 2 ^ f.ebits
  let fr := x % 2 ^ f.fbits
  if f.noInf && ex == 2 ^ f.ebits - 1 && fr == 2 ^ f.fbits - 1 then .nan
  else if !f.noInf && ex == 2 ^ f.ebits - 1 then (if fr == 0 then .inf neg else .nan)
  else if ex == 0 then .fin neg fr (1 - f.bias - f.fbits)
  else .fin neg (2 ^ f.fbits + fr) (ex - f.bias - f.fbits)

/-- Whether an encoding is a nonzero subnormal (R116). -/
def Fmt.isSubnormal (f : Fmt) (x : Nat) : Bool :=
  x / 2 ^ f.fbits % 2 ^ f.ebits == 0 && x % 2 ^ f.fbits != 0

/-- An operand read under FTZ (R121): a subnormal reads as the zero of its sign. -/
def Fmt.flush (f : Fmt) (ftz : Bool) (x : Nat) : Nat :=
  if ftz && f.ftz && f.isSubnormal x then x / f.signBit % 2 * f.signBit else x

def Fmt.read (f : Fmt) (ftz : Bool) (x : Nat) : FV := f.decode (f.flush ftz x)

/-- How gm rounds: RM code, SAT, FTZ (R120–R122). -/
structure Rnd where
  rm  : Nat
  sat : Bool
  ftz : Bool
deriving DecidableEq, Repr

/-- Round to nearest even, subnormals kept (R51, R125, R299). -/
def rne : Rnd := ⟨0, false, false⟩

/-- m · 2^e on the grid 2^q: the multiple chosen by RM and whether it differs (R120 steps 1, 2). -/
def roundGrid (rm : Nat) (neg : Bool) (m : Nat) (e q : Int) : Nat × Bool :=
  if q ≤ e then (m * 2 ^ (e - q).toNat, false)
  else
    let sh := (q - e).toNat
    let n := m / 2 ^ sh
    let r := m % 2 ^ sh
    let half := 2 ^ (sh - 1)
    let up : Bool := match rm with
      | 0 => decide (half < r) || (r == half && n % 2 == 1)
      | 1 => false
      | 2 => !neg && r != 0
      | 3 => neg && r != 0
      | _ => decide (half ≤ r)
    (if up then n + 1 else n, r != 0)

/-- The encoding of (−1)^neg · n · 2^q, n at most 2^(fraction bits + 1), q at least the subnormal grid. -/
def Fmt.pack (f : Fmt) (neg : Bool) (n : Nat) (q : Int) : Nat :=
  let s := if neg then f.signBit else 0
  if n < 2 ^ f.fbits then s + n
  else if n = 2 ^ (f.fbits + 1) then s + (q + 1 + f.fbits + f.bias).toNat * 2 ^ f.fbits
  else s + (q + f.fbits + f.bias).toNat * 2 ^ f.fbits + (n - 2 ^ f.fbits)

/-- The overflow result (R120 steps 3–5) with its flags. -/
def Fmt.overflow (f : Fmt) (r : Rnd) (neg : Bool) : Nat × Flags :=
  let toMax : Bool := match r.rm with
    | 1 => true | 2 => neg | 3 => !neg | _ => false
  if toMax then (f.maxBits neg, fOF ||| fNX)
  else if r.sat then (f.maxBits neg, fOF ||| fNX ||| fSAT)
  else (if f.noInf then f.nan else f.inf neg, fOF ||| fNX)

/-- ROUND of a nonzero exact m · 2^e (R120, R121, R123). -/
def Fmt.roundNZ (f : Fmt) (r : Rnd) (neg : Bool) (m : Nat) (e : Int) : Nat × Flags :=
  let emin : Int := 1 - f.bias
  let q1 : Int := Nat.log2 m + e - f.fbits
  let q : Int := max q1 (emin - f.fbits)
  let n1 := (roundGrid r.rm neg m e q1).1
  let (n, inexact) := roundGrid r.rm neg m e q
  if f.maxQ < q || (q == f.maxQ && f.maxM < n) then f.overflow r neg
  else
    let tiny : Bool := decide (q1 < emin - f.fbits - 1) || (q1 == emin - f.fbits - 1 && n1 != 2 ^ (f.fbits + 1))
    if r.ftz && f.ftz && n != 0 && decide (n < 2 ^ f.fbits) then
      (if neg then f.signBit else 0, fUF ||| fNX)
    else
      (f.pack neg n q, (if inexact then fNX else 0) ||| (if tiny && inexact then fUF else 0))

/-- ROUND of an exact value; an exact zero keeps the sign given (R120). -/
def Fmt.round (f : Fmt) (r : Rnd) : FV → Nat × Flags
  | .nan => (f.nan, 0)
  | .inf neg =>
    if f.noInf then (if r.sat then (f.maxBits neg, fSAT) else (f.nan, 0)) else (f.inf neg, 0)
  | .fin neg 0 _ => (if neg then f.signBit else 0, 0)
  | .fin neg m e => f.roundNZ r neg m e

/-! ### Exact operations -/

/-- The integer s with value s · 2^e of a finite value, for e at most its exponent. -/
def alignTo (neg : Bool) (m : Nat) (e0 e : Int) : Int :=
  let k : Int := m * 2 ^ (e0 - e).toNat
  if neg then -k else k

/-- The exact sum; an exact zero takes the sign of R120. The Bool says ∞ − ∞. -/
def FV.add (rm : Nat) : FV → FV → FV × Bool
  | .nan, _ => (.nan, false)
  | _, .nan => (.nan, false)
  | .inf a, .inf b => if a = b then (.inf a, false) else (.nan, true)
  | .inf a, _ => (.inf a, false)
  | _, .inf b => (.inf b, false)
  | .fin na ma ea, .fin nb mb eb =>
    let e := min ea eb
    let s := alignTo na ma ea e + alignTo nb mb eb e
    if s = 0 then
      (.fin (if ma = 0 && mb = 0 && na = nb then na else rm == 3) 0 0, false)
    else (.fin (decide (s < 0)) s.natAbs e, false)

/-- The exact product; the Bool says 0 · ∞. -/
def FV.mul : FV → FV → FV × Bool
  | .nan, _ => (.nan, false)
  | _, .nan => (.nan, false)
  | .inf a, .inf b => (.inf (a != b), false)
  | .inf a, .fin b m _ => if m = 0 then (.nan, true) else (.inf (a != b), false)
  | .fin a m _, .inf b => if m = 0 then (.nan, true) else (.inf (a != b), false)
  | .fin a ma ea, .fin b mb eb => (.fin (a != b) (ma * mb) (ea + eb), false)

def FV.neg : FV → FV
  | .nan => .nan
  | .inf a => .inf (!a)
  | .fin a m e => .fin (!a) m e

def FV.isNaN : FV → Bool
  | .nan => true
  | _ => false

def FV.isInf : FV → Bool
  | .inf _ => true
  | _ => false

/-- Order by value, −0 = +0 (R254); none with a NaN. -/
def FV.cmp? : FV → FV → Option Ordering
  | .nan, _ => none
  | _, .nan => none
  | .inf a, .inf b => some (if a = b then .eq else if a then .lt else .gt)
  | .inf a, _ => some (if a then .lt else .gt)
  | _, .inf b => some (if b then .gt else .lt)
  | .fin na ma ea, .fin nb mb eb =>
    let e := min ea eb
    some (compare (alignTo na ma ea e) (alignTo nb mb eb e))

/-- The sign of a value, for −0 below +0 (R264). -/
def FV.sign : FV → Bool
  | .nan => false
  | .inf a => a
  | .fin a _ _ => a

/-- FADD, FSUB (negB): R262, R263. -/
def Fmt.addOp (f : Fmt) (r : Rnd) (negB : Bool) (a b : Nat) : Nat × Flags :=
  let x := f.read r.ftz a
  let y := f.read r.ftz b
  let (v, bad) := FV.add r.rm x (if negB then y.neg else y)
  if bad then (f.nan, fNV) else f.round r v

/-- FMUL: R262, R263. -/
def Fmt.mulOp (f : Fmt) (r : Rnd) (a b : Nat) : Nat × Flags :=
  let (v, bad) := FV.mul (f.read r.ftz a) (f.read r.ftz b)
  if bad then (f.nan, fNV) else f.round r v

/-- FFMA, FFMS (negD), FNMA (negP): one rounding after the exact sum (R262, R263). -/
def Fmt.fmaOp (f : Fmt) (r : Rnd) (negP negD : Bool) (a b d : Nat) : Nat × Flags :=
  let x := f.read r.ftz a
  let y := f.read r.ftz b
  let z := f.read r.ftz d
  if x.isNaN || y.isNaN || z.isNaN then (f.nan, 0)
  else
    let (p, bad) := FV.mul x y
    if bad then (f.nan, fNV)
    else
      let (v, bad2) := FV.add r.rm (if negP then p.neg else p) (if negD then z.neg else z)
      if bad2 then (f.nan, fNV) else f.round r v

/-- a / b with a sticky bit below the precision (R262, R263). -/
def Fmt.divOp (f : Fmt) (r : Rnd) (a b : Nat) : Nat × Flags :=
  match f.read r.ftz a, f.read r.ftz b with
  | .nan, _ => (f.nan, 0)
  | _, .nan => (f.nan, 0)
  | .inf _, .inf _ => (f.nan, fNV)
  | .inf x, .fin y _ _ => f.round r (.inf (x != y))
  | .fin x _ _, .inf y => f.round r (.fin (x != y) 0 0)
  | .fin x ma ea, .fin y mb eb =>
    if mb = 0 then (if ma = 0 then (f.nan, fNV) else (f.inf (x != y), fDZ))
    else if ma = 0 then f.round r (.fin (x != y) 0 0)
    else
      let k := f.fbits + 5 + Nat.log2 mb
      let q := ma * 2 ^ k / mb
      let st := if ma * 2 ^ k % mb = 0 then 0 else 1
      f.round r (.fin (x != y) (2 * q + st) (ea - eb - k - 1))

/-- The integer square root, one bit at a time from bit i. -/
def isqrtBits (n : Nat) : Nat → Nat → Nat
  | 0, r => r
  | i + 1, r => isqrtBits n i (if (r + 2 ^ i) * (r + 2 ^ i) ≤ n then r + 2 ^ i else r)

def isqrt (n : Nat) : Nat := isqrtBits n (Nat.log2 n / 2 + 1) 0

/-- √(m · 2^e) for m > 0, with a sticky bit, to at least `bits` bits. -/
def sqrtExact (bits m : Nat) (e : Int) : Nat × Int :=
  let k : Nat := 2 * bits + (if (e % 2 = 0) then 0 else 1)
  let n := m * 2 ^ k
  let s := isqrt n
  (2 * s + (if s * s = n then 0 else 1), (e - k) / 2 - 1)

/-- FSQRT: R262, R263. -/
def Fmt.sqrtOp (f : Fmt) (r : Rnd) (a : Nat) : Nat × Flags :=
  match f.read r.ftz a with
  | .nan => (f.nan, 0)
  | .inf neg => if neg then (f.nan, fNV) else f.round r (.inf false)
  | .fin neg m e =>
    if m = 0 then f.round r (.fin neg 0 0)
    else if neg then (f.nan, fNV)
    else
      let (s, e') := sqrtExact (f.fbits + 4) m e
      f.round r (.fin false s e')

/-- FMIN (least) and FMAX on values, −0 below +0, a NaN yields to a number (R264); subnormals as `ftz` reads. -/
def Fmt.minMaxOp (f : Fmt) (ftz greatest : Bool) (a b : Nat) : Nat :=
  let a := f.flush ftz a
  let b := f.flush ftz b
  match FV.cmp? (f.decode a) (f.decode b) with
  | none => if (f.decode a).isNaN then (if (f.decode b).isNaN then f.nan else b) else a
  | some .lt => if greatest then b else a
  | some .gt => if greatest then a else b
  | some .eq => if (f.decode a).sign then (if greatest then b else a) else (if greatest then a else b)

/-! ### Integers of floats -/

/-- ROUNDINT: the integer chosen by RM among the neighbours (R124), and whether it differs. -/
def roundInt (rm : Nat) (neg : Bool) (m : Nat) (e : Int) : Int × Bool :=
  let (n, ix) := roundGrid rm neg m e 0
  (if neg then -(n : Int) else n, ix)

/-- FFLR (RDN), FCEIL (RUP), FRND (gm.RM): exact integers, the sign of the operand kept, no flag (R267). -/
def Fmt.integral (f : Fmt) (ftz : Bool) (rm : Nat) (a : Nat) : Nat :=
  match f.read ftz a with
  | .nan => f.nan
  | .inf neg => f.inf neg
  | .fin neg m e => (f.round rne (.fin neg (roundGrid rm neg m e 0).1 0)).1

/-- FFRC: x − FLOOR(x) rounded, never 1.0 (R267). -/
def Fmt.fracOp (f : Fmt) (r : Rnd) (a : Nat) : Nat × Flags :=
  match f.read r.ftz a with
  | .nan => (f.nan, 0)
  | .inf _ => (f.nan, fNV)
  | .fin neg m e =>
    let fl := (roundInt 3 neg m e).1
    let v := (FV.add 0 (.fin neg m e) (.fin (decide (0 < fl)) fl.natAbs 0)).1
    let (x, fs) := f.round r v
    let one := (f.round rne (.fin false 1 0)).1
    if x = one then ((f.round rne (.fin false (2 ^ (f.fbits + 1) - 1) (-(f.fbits + 1)))).1, fs ||| fNX)
    else if x = f.signBit then (0, fs) else (x, fs)

/-- FCLS: the class mask of an encoding (R268). -/
def Fmt.classOp (f : Fmt) (a : Nat) : Nat :=
  match f.decode a with
  | .nan => 2 ^ 8
  | .inf neg => if neg then 2 ^ 0 else 2 ^ 7
  | .fin neg m _ =>
    if m = 0 then (if neg then 2 ^ 3 else 2 ^ 4)
    else if f.isSubnormal a then (if neg then 2 ^ 2 else 2 ^ 5)
    else (if neg then 2 ^ 1 else 2 ^ 6)

/-- FSCL: a · 2^n rounded once (R269). Scaling past any format's range is bounded at 2^±40000, which rounds alike. -/
def Fmt.scaleOp (f : Fmt) (r : Rnd) (a : Nat) (n : Int) : Nat × Flags :=
  match f.read r.ftz a with
  | .nan => (f.nan, 0)
  | .inf neg => (f.inf neg, 0)
  | .fin neg m e => f.round r (.fin neg m (e + max (-40000) (min 40000 n)))

/-- FGETE: the unbiased exponent as a value of the type (R269). -/
def Fmt.getExp (f : Fmt) (r : Rnd) (a : Nat) : Nat × Flags :=
  match f.read r.ftz a with
  | .nan => (f.nan, 0)
  | .inf _ => (f.inf false, 0)
  | .fin _ m e =>
    if m = 0 then (f.inf true, fDZ)
    else
      let x : Int := Nat.log2 m + e
      ((f.round rne (.fin (decide (x < 0)) x.natAbs 0)).1, 0)

/-! ### Conversions (R124) -/

/-- A source element: an integer, or an exact float value. -/
inductive CSrc where
  | int (v : Int)
  | flt (v : FV)
deriving DecidableEq, Repr

def toSigned (w x : Nat) : Int := if 2 * (x % 2 ^ w) < 2 ^ w then (x % 2 ^ w : Nat) else (x % 2 ^ w : Nat) - (2 ^ w : Nat)

/-- The low w bits of an integer as a natural number. -/
def wrapTo (w : Nat) (v : Int) : Nat := (v % (2 ^ w : Nat)).toNat

/-- The range of an integer type (R115). -/
def tyMin (t : Nat) : Int := if tyIsI t then -(2 ^ (tyBits t - 1) : Nat) else 0
def tyMax (t : Nat) : Int := if tyIsI t then (2 ^ (tyBits t - 1) : Nat) - 1 else (2 ^ tyBits t : Nat) - 1

def clampTo (t : Nat) (v : Int) : Int := max (tyMin t) (min (tyMax t) v)

/-- The value of an integer element of type t. -/
def intVal (t x : Nat) : Int := if tyIsI t then toSigned (tyBits t) x else (x % 2 ^ tyBits t : Nat)

/-- The source value of a non-q4x element (R124); FTZ reads a subnormal as zero (R121). -/
def convSrc (s : Nat) (ftz : Bool) (x : Nat) : CSrc :=
  if tyIsInt s then .int (intVal s x) else .flt ((fmtOf s).read ftz x)

/-- R124: a source value to a type T that is not q4x. -/
def convert (r : Rnd) (t : Nat) : CSrc → Nat × Flags
  | .int v =>
    if tyIsInt t then
      if r.sat && clampTo t v != v then (wrapTo (tyBits t) (clampTo t v), fSAT) else (wrapTo (tyBits t) v, 0)
    else (fmtOf t).round r (.fin (decide (v < 0)) v.natAbs 0)
  | .flt .nan => if tyIsInt t then (0, fNV) else ((fmtOf t).nan, 0)
  | .flt (.inf neg) =>
    if tyIsInt t then (wrapTo (tyBits t) (if neg then tyMin t else tyMax t), fNV) else (fmtOf t).round r (.inf neg)
  | .flt (.fin neg m e) =>
    if tyIsInt t then
      let (v, ix) := roundInt r.rm neg m e
      if clampTo t v = v then (wrapTo (tyBits t) v, if ix then fNX else 0)
      else (wrapTo (tyBits t) (clampTo t v), fNV)
    else (fmtOf t).round r (.fin neg m e)

/-! ### q4x (R118) -/

/-- The value of element j of a block; code gives the 4-bit codes, e is the scale byte. The Bool is FORMATFLAG. -/
def q4xVal (code : Nat → Nat) (e j : Nat) : FV × Bool :=
  if e = 0xFF then (.nan, false)
  else
    let sc : Int := (e : Int) - 127
    let q := j / 4
    let s := j % 4
    let c := code j
    let plain : FV × Bool :=
      if c = 8 then (.fin false 0 0, true)
      else
        let v := toSigned 4 c
        (.fin (decide (v < 0)) v.natAbs sc, false)
    if code (4 * q) = 8 then
      if s = 0 then
        match fmtF8A.decode (code (4 * q + 1) + 16 * code (4 * q + 2)) with
        | .fin n m x => (.fin n m (x + sc), false)
        | v => (v, false)
      else if s = 1 || s = 2 then (.fin false 0 0, false)
      else plain
    else plain

/-! ### Dot products (R125, R126) -/

/-- The terms of a sum: none with a NaN among them. -/
structure DotState where
  nan  : Bool
  bad  : Bool
  pinf : Bool
  ninf : Bool
  sum  : FV
deriving DecidableEq, Repr

/-- Add one exact term to the sum; `rm` decides the sign of an exact zero (R120). -/
def DotState.term (rm : Nat) (st : DotState) (v : FV) : DotState :=
  match v with
  | .nan => { st with nan := true }
  | .inf false => { st with pinf := true }
  | .inf true => { st with ninf := true }
  | .fin .. => { st with sum := (FV.add rm st.sum v).1 }

/-- Add the exact product of a pair. -/
def DotState.prod (rm : Nat) (st : DotState) (a b : FV) : DotState :=
  if a.isNaN || b.isNaN then { st with nan := true }
  else
    let (p, bad) := FV.mul a b
    if bad then { st with bad := true } else st.term rm p

/-- acc + Σ a·b formed exactly: whether a NaN operand was met, whether an invalid product or sum was, the value. -/
def dotExact (rm : Nat) (acc : FV) (ab : List (FV × FV)) : Bool × Bool × FV :=
  let st0 : DotState := ⟨acc.isNaN, false, false, false, .fin acc.sign 0 0⟩
  let st := ab.foldl (fun st x => st.prod rm x.1 x.2) (if acc.isNaN then st0 else st0.term rm acc)
  let invalid := st.bad || (st.pinf && st.ninf)
  if st.nan || invalid then (st.nan, invalid, .nan)
  else if st.pinf then (false, false, .inf false)
  else if st.ninf then (false, false, .inf true)
  else (false, false, st.sum)

/-- ADD16 to a float accumulator (R125): the rounded sum of acc and sixteen exact products, with flags. NV is withheld
only where the NaN comes from NaN operands alone (log 61). -/
def add16 (f : Fmt) (acc : Nat) (ab : List (FV × FV)) : Nat × Flags :=
  let (_, invalid, v) := dotExact 0 (f.decode acc) ab
  if invalid then (f.nan, fNV) else f.round rne v

/-! ### The approximating functions (R265, R266) -/

/-- ln 2 and π times 2^128, to the nearest below. -/
def ln2Q128 : Nat := 235865763225513294137944142764154484399
def piQ128 : Nat := 1069028584064966747859680373161870783301

/-- x^k / k! summed: e^x for x in [0, 1), all times 2^128. -/
def expSeries (x : Nat) : Nat → Nat → Nat → Nat → Nat
  | 0, _, _, acc => acc
  | n + 1, k, term, acc =>
    let t := term * x / 2 ^ 128 / k
    expSeries x n (k + 1) t (acc + t)

/-- Alternating series x − x³/3! + … (or 1 − x²/2! + …) times 2^128. -/
def altSeries (x2 : Nat) : Nat → Nat → Int → Int → Int
  | 0, _, _, acc => acc
  | n + 1, k, term, acc =>
    let t := -(term * x2 / 2 ^ 128 / (k * (k + 1)))
    altSeries x2 n (k + 2) t (acc + t)

/-- sin(π r / 2^128) for r at most 2^127, times 2^128. -/
def sinPiQ (r : Nat) : Nat :=
  let x := piQ128 * r / 2 ^ 128
  (altSeries (x * x / 2 ^ 128) 24 2 x x).toNat

/-- cos(π r / 2^128) for r at most 2^127, times 2^128. -/
def cosPiQ (r : Nat) : Nat :=
  let x := piQ128 * r / 2 ^ 128
  (altSeries (x * x / 2 ^ 128) 24 1 (2 ^ 128) (2 ^ 128)).toNat

/-- Bits of log2 of y / 2^128 in [1, 2), most significant first, by repeated squaring. -/
def log2Bits : Nat → Nat → Nat → Nat
  | 0, _, acc => acc
  | n + 1, y, acc =>
    let z := y * y / 2 ^ 128
    if 2 ^ 129 ≤ z then log2Bits n (z / 2) (2 * acc + 1) else log2Bits n z (2 * acc)

/-- What R265 and R266 fix of a function at an operand: a special value with its flags, an exact point, or the exact
value (sign, magnitude) with the allowed distance as a power of two times `bound`. -/
inductive Approx where
  | special (bits : Nat) (fl : Flags)
  | exact (v : FV)
  | near (neg : Bool) (m : Nat) (e : Int) (bound : Nat) (be : Int)
deriving DecidableEq, Repr

/-- The exponent of one ulp of f32 at a magnitude m · 2^e. -/
def ulpExp (m : Nat) (e : Int) : Int := max (Nat.log2 m + e - 23) (-149)

def isPow2 (m : Nat) : Bool := m != 0 && m == 2 ^ Nat.log2 m

/-- FRCP. -/
def rcpAt (sat : Bool) (a : FV) : Approx :=
  match a with
  | .nan => .special fmtF32.nan 0
  | .inf neg => .exact (.fin neg 0 0)
  | .fin neg 0 _ => .special (fmtF32.inf neg) fDZ
  | .fin neg m e =>
    let l : Int := Nat.log2 m
    if isPow2 m && decide (l + e ≤ 126) && decide (-127 ≤ l + e) then .exact (.fin neg 1 (-(l + e)))
    else
      let k := 128 + Nat.log2 m
      let q := 2 ^ k / m
      if decide (128 ≤ Nat.log2 q + (-e - k)) then
        .special (if sat then fmtF32.maxBits neg else fmtF32.inf neg) (fOF ||| fNX ||| (if sat then fSAT else 0))
      else .near neg (2 * q + (if 2 ^ k % m = 0 then 0 else 1)) (-e - k - 1) 1 (ulpExp q (-e - k))

/-- FRSQ. -/
def rsqAt (a : FV) : Approx :=
  match a with
  | .nan => .special fmtF32.nan 0
  | .inf neg => if neg then .special fmtF32.nan fNV else .exact (.fin false 0 0)
  | .fin neg 0 _ => .special (fmtF32.inf neg) fDZ
  | .fin true _ _ => .special fmtF32.nan fNV
  | .fin false m e =>
    let l : Int := Nat.log2 m
    if isPow2 m && (l + e) % 2 == 0 then .exact (.fin false 1 (-((l + e) / 2)))
    else
      let (s, se) := sqrtExact 128 m e
      let k := 128 + Nat.log2 s
      let q := 2 ^ k / s
      .near false q (-se - k) 2 (ulpExp q (-se - k))

/-- FEXP2. -/
def exp2At (sat : Bool) (a : FV) : Approx :=
  match a with
  | .nan => .special fmtF32.nan 0
  | .inf neg => if neg then .exact (.fin false 0 0) else .exact (.inf false)
  | .fin _ 0 _ => .exact (.fin false 1 0)
  | .fin neg m e =>
    let big : Bool := decide (9 ≤ Nat.log2 m + e)
    let n : Int := if big then (if neg then -1000 else 1000) else (roundInt 3 neg m e).1
    if 128 ≤ n then
      .special (if sat then fmtF32.maxBits false else fmtF32.inf false) (fOF ||| fNX ||| (if sat then fSAT else 0))
    else if n < -150 then .special 0 (fUF ||| fNX)
    else
      let fr := (FV.add 0 (.fin neg m e) (.fin (decide (0 < n)) n.natAbs 0)).1
      match fr with
      | .fin _ fm fe =>
        if fm = 0 then
          (if -126 ≤ n then .exact (.fin false 1 n) else .near false 1 n 2 (-149))
        else
          let x := (roundGrid 1 false fm fe (-128)).1
          let y := expSeries (ln2Q128 * x / 2 ^ 128) 40 1 (2 ^ 128) (2 ^ 128)
          .near false y (n - 128) 2 (ulpExp y (n - 128))
      | _ => .special fmtF32.nan 0

/-- FLOG2. -/
def log2At (a : FV) : Approx :=
  match a with
  | .nan => .special fmtF32.nan 0
  | .inf neg => if neg then .special fmtF32.nan fNV else .exact (.inf false)
  | .fin _ 0 _ => .special (fmtF32.inf true) fDZ
  | .fin true _ _ => .special fmtF32.nan fNV
  | .fin false m e =>
    let l : Int := Nat.log2 m
    let x : Int := l + e
    if isPow2 m then .exact (.fin (decide (x < 0)) x.natAbs 0)
    else
      let bits := log2Bits 120 (m * 2 ^ 128 / 2 ^ Nat.log2 m) 0
      let v : Int := x * 2 ^ 120 + bits
      if -1 ≤ x && x ≤ 0 then .near (decide (v < 0)) v.natAbs (-120) 1 (-22)
      else .near (decide (v < 0)) v.natAbs (-120) 2 (ulpExp v.natAbs (-120))

/-- a mod 2 as a multiple of 2^−128, for a magnitude m · 2^e. -/
def mod2Q (m : Nat) (e : Int) : Nat :=
  if 1 ≤ e then 0
  else if -128 ≤ e then m * 2 ^ (128 + e).toNat % 2 ^ 129
  else m / 2 ^ (-128 - e).toNat % 2 ^ 129

/-- FSINP. -/
def sinpAt (a : FV) : Approx :=
  match a with
  | .nan => .special fmtF32.nan 0
  | .inf _ => .special fmtF32.nan fNV
  | .fin neg 0 _ => .exact (.fin neg 0 0)
  | .fin neg m e =>
    let r := mod2Q m e
    let tiny := decide (e < -128)
    let h := r % 2 ^ 128
    let flip := decide (2 ^ 128 ≤ r)
    if h = 0 && !tiny then .exact (.fin neg 0 0)
    else if h = 2 ^ 127 && !tiny then .exact (.fin (neg != flip) 1 0)
    else .near (neg != flip) (sinPiQ (if h ≤ 2 ^ 127 then h else 2 ^ 128 - h)) (-128) 1 (-22)

/-- FCOSP. -/
def cospAt (a : FV) : Approx :=
  match a with
  | .nan => .special fmtF32.nan 0
  | .inf _ => .special fmtF32.nan fNV
  | .fin _ 0 _ => .exact (.fin false 1 0)
  | .fin _ m e =>
    let r := mod2Q m e
    let tiny := decide (e < -128)
    let h := r % 2 ^ 128
    let flip := decide (2 ^ 128 ≤ r)
    if h = 0 && !tiny then .exact (.fin flip 1 0)
    else if h = 2 ^ 127 && !tiny then .exact (.fin false 0 0)
    else if h ≤ 2 ^ 127 then .near flip (cosPiQ h) (-128) 1 (-22)
    else .near (!flip) (cosPiQ (2 ^ 128 - h)) (-128) 1 (-22)

/-- Whether a finite candidate lies within bound · 2^be of the exact value, which m · 2^e gives to 2^(be − 90): within the bound less
2^(be − 80) (log 6). -/
def withinBound (c : FV) (neg : Bool) (m : Nat) (e : Int) (bound : Nat) (be : Int) : Bool :=
  match FV.add 0 c (.fin (!neg) m e) with
  | (.fin _ d de, _) => FV.cmp? (.fin false d de) (.fin false (bound * 2 ^ 80 - 1) (be - 80)) != some .gt
  | _ => false

/-- The f32 result of an approximating function (R265): at a point not fixed, the free value of the operand and of gm as for T f32,
without RM, which is not read, when it lies within the bound, else the value rounded to nearest (log 6). NX is set there; UF and OF from
the result. -/
def approxResult (op : Nat) (r : Rnd) (gm operand : BitVec 32) : Approx → Nat × Flags
  | .special b fl => (b, fl)
  | .exact v => fmtF32.round { r with rm := 0 } v
  | .near neg m e bound be =>
    let near := (fmtF32.round rne (.fin neg m e)).1
    let cand := Config.approx op operand ((gm &&& 0xFFFFE3E0) ||| 10) % 2 ^ 32
    let x := if withinBound (fmtF32.decode cand) neg m e bound be then cand else near
    if r.ftz && fmtF32.isSubnormal x then (x / 2 ^ 31 * 2 ^ 31, fUF ||| fNX)
    else
      (if r.sat && (fmtF32.decode x).isInf then fmtF32.maxBits neg else x,
        fNX ||| (if fmtF32.isSubnormal x || (x % 2 ^ 31 == 0 && decide (be < -22)) then fUF else 0)
          ||| (if (fmtF32.decode x).isInf then (if r.sat then fOF ||| fSAT else fOF) else 0))

/-- The six functions by opcode (R265). -/
def approxAt (op : Nat) (sat : Bool) (a : FV) : Approx :=
  match op with
  | 0x5A => rcpAt sat a
  | 0x5B => rsqAt a
  | 0x5E => exp2At sat a
  | 0x5F => log2At a
  | 0x60 => sinpAt a
  | _ => cospAt a

/-- An approximating function on an element of T f16, bf16 or f32 (R265): narrow types are widened, and the f32 result
converted by R124 under gm. -/
def approxOp (op t : Nat) (r : Rnd) (gm : BitVec 32) (a : Nat) : Nat × Flags :=
  if t = 10 then
    approxResult op r gm (BitVec.ofNat 32 (fmtF32.flush r.ftz a)) (approxAt op r.sat (fmtF32.read r.ftz a))
  else
    let wide := (fmtF32.round rne ((fmtOf t).read r.ftz a)).1
    let (x, fl) := approxResult op r gm (BitVec.ofNat 32 wide) (approxAt op r.sat (fmtF32.decode wide))
    let (y, fl2) := convert r t (.flt (fmtF32.decode x))
    (y, fl ||| fl2)

end Sys2Proof.Machine
end

