-- ==== Sys2Proof/Machine/State.lean ====
section
/-! DEFINITION. The state of one D480 package as plain data, and the state after reset. Every field names the rule
of spec/ that gives it; a field the model adds says so. Keys: a context is 64·partition + context; a gang is
2^32·context + SEQ; a workgroup 8·gang + rank; a group 16·workgroup + index; a path 32·group + number, where
numbers 0–3 are splits and 4–31 are fragments 0–27 (R127, R134). -/

namespace Sys2Proof.Machine

/-- How a path waits (R140). -/
inductive Wait where
  /-- It does not wait. -/
  | ready
  /-- Its instruction waits and is tested afresh when the path is next chosen (a full queue, missing credits, banks or
  room, a page in transit, a logged byte). -/
  | retry
  /-- AALLOC waits for its banks (R146). -/
  | banks
  /-- Arrived at a JOIN (R136) whose region starts here. -/
  | join (start : BitVec 64)
  /-- Arrived at a collective (R138): the instruction. -/
  | coll (i : Instr)
  /-- WAITC (R285): event counters and their targets. -/
  | waitc (conds : List (Nat × BitVec 32))
  /-- BWAIT (R311): lane, barrier operand and target of each ACTIVE lane. -/
  | bwait (conds : List (Nat × BitVec 32 × Nat))
  /-- SETTLE (R321): the group, and whether it is the status form. -/
  | settle (group : Nat) (status : Bool) (act : BitVec 32)
  /-- A plain load or atomic through a fabric window holds the path until its response (R183). -/
  | load (id : Nat)
  /-- FENCE (R303): kind, mask and the numbers of the requests it waits for. -/
  | fence (kind : BitVec 2) (mask : BitVec 8) (ids : List Nat)
  /-- Parked by TRAP until the reply naming this SEQ (R83). -/
  | parked (seq : BitVec 32)
  /-- PAUSE until the core counter reaches this value (R338). -/
  | pause (till : Nat)
  /-- MAPACK awaits the answer to this version (R335). -/
  | mapack (v : BitVec 32)
  /-- A POST of this header is held by borrowers' acknowledgements (R70); whether it writes p7. -/
  | notice (header : Nat)
  /-- SPAWN or COMP holds until the dockets up to this index of the pigeonhole are accepted (R316). -/
  | spawned (hole upto : Nat)
  /-- A borrow read awaits gathers (R302). -/
  | borrow (id : Nat)
  /-- The accesses to SO pages of the instruction just executed are on their way (R295): their numbers. -/
  | performed (ids : List Nat)
  /-- Parked by TRAP, whose record has no room or no place yet (R82): the code and s0 to s7 as the TRAP found them. -/
  | trapped (code : BitVec 24) (args : List (BitVec 32))
deriving DecidableEq, Repr

/-- One lane of a load in flight: the first register, how many, and the words (R140, R192). For a fabric access,
`raw` bytes arrive first (`miss` requests outstanding) and are decoded on arrival by the page's FMT (R292); `fl` are the flags
of a lane decoded at once, raised when the load completes (R182, R293). `skip`: the
registers whose writeback a debugger cancelled (R89). -/
structure LoadLane where
  lane : Nat
  reg  : Nat
  nreg : Nat
  data : BitVec 1024
  miss : Nat := 0
  code : BitVec 8 := 0
  raw  : Bool := false
  va   : BitVec 64 := 0
  fmt  : Nat := 0
  n    : Nat := 1
  gm   : BitVec 32 := 0
  fl   : BitVec 7 := 0
  skip : List Nat := []
deriving DecidableEq, Repr

/-- A load, atomic with return or status variant in flight (R140, R288). `hold`: it holds its path at its own pc; `unit`: it is one unit of a GATH
or an expand-load (R301). `mute`: a debugger cancelled its p7 and LSTAT (R89). -/
structure Load where
  id     : Nat
  wr     : Bool
  status : Bool
  hold   : Bool
  unit   : Bool := false
  mute   : Bool := false
  lanes  : List LoadLane
deriving DecidableEq, Repr

/-- A failed write or atomic of a split, until its next FENCE of the kind in R37 (R38): the request's number, status, virtual
address, link if any. A posted one the FENCE reports; one that its own instruction reported only fails later flags (R36). -/
structure PostFail where
  id   : Nat
  code : BitVec 8
  va   : BitVec 64
  link : Option Nat
  posted : Bool := true
deriving DecidableEq, Repr

/-- A path: split or fragment (R127). `aper` is the context's apertures as its last switch point saw them, `held` those that
the completion of its waiting instruction is to see, where a host wrote one meanwhile (R104). `mid`: its last instruction was no
switch point; `lent`: it issued it from a borrowed slot, which it keeps (R135). `xbase`: the base and step of the
expand-load that it is in the middle of (R301). -/
structure Path where
  born   : Nat
  pc     : BitVec 64
  mask   : BitVec 32
  gm     : BitVec 32
  stack  : List (BitVec 64)
  fw     : CMap 32
  live   : CMap 32
  pix    : BitVec 32
  lstat  : BitVec 32
  aper   : CMap 64
  held   : Option (CMap 64) := none
  wait   : Wait
  loads  : List Load
  fails  : List PostFail
  inH    : Bool
  hcause : BitVec 32
  hpc    : BitVec 64
  haddr  : BitVec 64
  hlanes : BitVec 32
  hmode  : BitVec 32
  hmask  : BitVec 32
  sfw    : CMap 32
  slive  : CMap 32
  smask  : BitVec 32
  hstack : List (BitVec 64)
  stop   : BitVec 8
  xbase  : Option (BitVec 64 × Nat) := none
  mid    : Bool := false
  lent   : Bool := false
deriving DecidableEq, Repr

/-- A group: 32 lanes (R127, R128). v is keyed 32·register + lane, p by predicate number (p0 is not held). `turn` is the place in
the order of R135 of the path that executed the group's last switch point (a split's number, 4 more than a fragment's `born`), `pol` the
issue policy as that switch point found it (R145). -/
structure Group where
  v      : CMap 32
  s      : CMap 32
  p      : CMap 32
  aflags : BitVec 32
  exited : BitVec 32
  turn   : Nat
  births : Nat
  rrots  : Nat
  pol    : Nat := 0
deriving DecidableEq, Repr

/-- A granted accumulator allocation (R146, R173): physical banks, the kind of each relative bank (1 integer),
elements keyed 4096·bank + position. -/
structure Acc where
  banks : List Nat
  kinds : CMap 1
  data  : CMap 80
deriving DecidableEq, Repr

/-- A command list in a Loom (R170, R176): its owner (a workgroup, or a docket), the command index, the steps done,
the elements that its DRAIN has written. -/
structure LoomList where
  addr  : BitVec 64
  part  : Nat
  ctx   : Nat
  wg    : Option Nat
  docket : Option Nat
  banks : List Nat
  acc   : Option Acc
  cmd   : Nat
  step  : Nat
  fmt   : Bool
  ended : Bool
  code  : BitVec 8
  drained : Nat := 0
deriving DecidableEq, Repr

/-- A workgroup (R127): scratch bytes and tags (R96), lane slices keyed 1024·(32·group + lane) + offset, the
scratch map (R93: 0 untouched, 1 resident, 2 evicted, 3 in transit), frames (R94), pins (R315), the fills in progress (page, one more
than the group whose access started it or 0 for an engine's), and of a workgroup that is off its core the Loom lists (R176) and the
order of use of its resident pages, oldest first (page, group). `rot` are the pages of rotations in progress (R95), with the
index of the groups that rotate. -/
structure Wg where
  core   : Nat
  stage  : Nat
  ngrp   : Nat
  slice  : Nat
  spages : Nat
  scratch : CMap 8
  tags   : CMap 1
  slices : CMap 8
  pages  : CMap 2
  frames : FMap Nat
  pins   : CMap 8
  acc    : Option Acc
  lists  : List LoomList
  fills  : List (Nat × Nat) := []
  recent : List (Nat × Nat) := []
  rot    : List (Nat × Nat) := []
deriving DecidableEq, Repr

/-- A copy-schedule entry (R163), with DST from its second slot (R164). -/
structure CopyEntry where
  srcsp  : Nat
  dstsp  : Nat
  decode : Bool
  tgt    : Nat
  rank   : Nat
  dtype  : Nat
  reps   : Nat
  release : Nat
  every  : Nat
  event  : Nat
  x      : Nat
  y      : Nat
  z      : Nat
  srcsy  : Int
  dstsy  : Int
  srcsz  : Int
  dstsz  : Int
  srcadv : Int
  dstadv : Int
  src    : BitVec 64
  dst    : BitVec 64
  taddr  : BitVec 64
deriving DecidableEq, Repr

/-- A released Courier instance (R164): its number, entry index and k; `held` on NOTPRESENT (R166), `miss` the address that it was last
reported for, or that of a failed request; whether it writes already, the parts it has started, the requests that are not yet answered, the failure met, the source bytes by
running offset, the FMT of each row's source page. -/
structure Inst where
  id    : Nat
  entry : Nat
  k     : Nat
  held  : Bool
  wr    : Bool
  pos   : Nat
  pend  : Nat
  code  : BitVec 8
  buf   : CMap 8
  fmts  : List Nat
  miss  : Option Int := none
deriving DecidableEq, Repr

/-- A queued deferred fault (R188): the path whose store was logged, by key and `born`, or none for a Courier fault. -/
structure DFault where
  cause : BitVec 8
  addr  : BitVec 64
  path  : Option (Nat × Nat)
deriving DecidableEq, Repr

/-- A ray in flight of a TRACE (R179, R326). -/
structure Trace where
  id    : Nat
  path  : Nat
  event : Nat
  load  : Nat
  rays  : List (Nat × BitVec 256 × BitVec 64)
deriving DecidableEq, Repr

/-- What started a gang: a launch (its key) or a docket (its key). -/
inductive Source where
  | launch (key : Nat)
  | docket (key : Nat)
deriving DecidableEq, Repr

/-- A gang (R127). status: 0 placed, 1 pre-empted, 2 swapped out, 4 ended, 5 killed with remote writes still draining
(R193); `drained`: it left a draining core and is placed again as soon as there is room (R25). -/
structure Gang where
  part   : Nat
  ctx    : Nat
  seq    : BitVec 32
  src    : Source
  gx     : Nat
  gy     : Nat
  gz     : Nat
  linear : Nat
  cluster : Nat
  pos    : Nat
  nwg    : Nat
  status : Nat
  halted : Bool
  clunits : Nat
  policy : Nat
  cmem   : CMap 8
  ctags  : CMap 1
  stageCtr : BitVec 32
  evc    : CMap 32
  sched  : List CopyEntry
  insts  : List Inst
  cstat  : BitVec 32
  dq     : List DFault
  lost   : Bool
  traces : List Trace
  drained : Bool := false
deriving DecidableEq, Repr

/-- A launch record's fields as accepted (R77). -/
structure LRec where
  kind   : Nat
  after  : Bool
  settled : Bool
  policy : Nat
  mapver : BitVec 32
  gx     : Nat
  gy     : Nat
  gz     : Nat
  wgs    : Nat
  grps   : Nat
  stagemap : BitVec 32
  slice  : Nat
  scratch : Nat
  cluster : Nat
  chip   : Nat
  entries : List (BitVec 64)
  sched  : List CopyEntry
  sgrp   : Nat
  args   : BitVec 64
  doneAddr : BitVec 64
  doneVal : BitVec 64
  doneScope : Nat
  doneEn : Bool
deriving DecidableEq, Repr

/-- An accepted launch or marker (R77, R80). chip is K; chipDies the KiB taken on each die (R360); prio that of its queue (R75). -/
structure Launch where
  part   : Nat
  queue  : Nat
  index  : BitVec 32
  ctx    : Nat
  record : LRec
  next   : Nat
  started : Bool
  killed : Bool
  chip   : CMap 8
  ktags  : CMap 1
  chipDies : List Nat
  prio   : Nat := 0
deriving DecidableEq, Repr

/-- A docket the Task Sorter has accepted (R150, R151): the image's fields, its state code, the postmarks of its
latest completed run and of its latest run, whether it has completed a run on the final postmark; `stopping`: its run is to stop (R158); `parcel`: the
sender and slot of its parcel; `passed`: it was passed over for want of a place (R154); `launch`: the launch whose gang spawned it (log
50); `subctx`: the context whose address SUBHDR is, that of SUBS where it subscribed the docket (R320); `cmd` and `vec`: a stack-dot run's command and vector as read at its start, `vecBad` the cause of a vector that could not be read
(R178). -/
structure Docket where
  hole   : Nat
  index  : BitVec 32
  addr   : BitVec 64
  part   : Nat
  ctx    : Nat
  kind   : Nat
  prio   : Nat
  subv   : Bool
  pre    : Bool
  autoseal : Bool
  entry  : BitVec 64
  geom   : BitVec 64
  subhdr : BitVec 64
  outhdr : BitVec 64
  args   : BitVec 128
  state  : Nat
  code   : Nat
  seen   : BitVec 32
  last   : Option (BitVec 32)
  lastFinal : Bool
  runs   : BitVec 32
  stopping : Bool
  parcel : Option (Nat × Nat)
  passed : Bool := false
  launch : Option Nat := none
  subctx : Nat := 0
  cmd    : Option (BitVec 512) := none
  vec    : List Byte := []
  vecBad : BitVec 8 := 0
deriving DecidableEq, Repr

/-- A parcel registration in force (R68): grants are (sender, first slot, slots). -/
structure PReg where
  slots  : BitVec 64
  hole   : Nat
  prio   : Nat
  entry  : BitVec 64
  geom   : BitVec 64
  grants : List (Nat × Nat × Nat)
  busy   : List Nat
deriving DecidableEq, Repr

/-- The debug window of a context (R88). `step`: the path that a STEP runs while STATUS is PENDING. -/
structure Debug where
  gang : BitVec 32 := 0
  wg   : Nat := 0
  grp  : Nat := 0
  split : Nat := 0
  lane : Nat := 0
  frag : Bool := false
  fnum : Nat := 0
  reg  : Nat := 0
  word : Nat := 0
  data : BitVec 32 := 0
  status : BitVec 3 := 0
  step : Option Nat := none
deriving DecidableEq, Repr

/-- A context's registers and rings (R81, R84, R160, R185, R26, R27). `chg`: the versions whose MAPCHG is not yet delivered,
oldest first (R189); `regNext`: the registration that PREG named while the one in force is withdrawn (R68); `grace`: the grace period runs; `sealing`: a SEALGRP in progress, which SEALBUSY shows: the MEMBERS address, the
number of members and how many are done (R160, R161). -/
structure Ctx where
  aper    : CMap 64 := []
  mapbuf  : BitVec 64 := 0
  sysbase : BitVec 64 := 0
  syslog  : Nat := 0
  syshead : BitVec 32 := 0
  systail : BitVec 32 := 0
  resbase : BitVec 64 := 0
  reslog  : Nat := 0
  reshead : BitVec 32 := 0
  restail : BitVec 32 := 0
  resovf  : BitVec 32 := 0
  resPosted : Bool := false
  swapst  : BitVec 2 := 0
  suspmap : Bool := false
  savearea : BitVec 64 := 0
  issuepol : BitVec 32 := 0
  hentry  : BitVec 64 := 0
  sgbase  : BitVec 64 := 0
  sgn     : Nat := 0
  sealerr : Bool := false
  sealing : Option (BitVec 64 × Nat × Nat) := none
  preg    : BitVec 64 := 0
  prstat  : BitVec 2 := 0
  reg     : Option PReg := none
  regNext : Option PReg := none
  dbg     : Debug := {}
  acked   : BitVec 32 := 1
  chg     : List (BitVec 32) := []
  grace   : Bool := false
  nextSeq : BitVec 32 := 0
deriving DecidableEq, Repr

/-- A partition's control blocks (R74, R109, R148). `ending`: EN falls once the kills of R74 have finished; `sbnext`: the
pool size written last, in force as `sbsize` once no gang of the partition is placed. -/
structure Part where
  pclust : BitVec 24 := 0
  home   : BitVec 1 := 0
  en     : Bool := false
  ending : Bool := false
  pst    : BitVec 2 := 0
  ptroot : BitVec 64 := 0
  invia  : BitVec 52 := 0
  invbusy : Bool := false
  invall : Bool := false
  sbbase : BitVec 64 := 0
  sbsize : BitVec 32 := 0
  sbnext : BitVec 32 := 0
  ftbase : BitVec 64 := 0
  ftlog  : Nat := 0
  fthead : BitVec 32 := 0
  fttail : BitVec 32 := 0
  phmask : CMap 64 := []
deriving DecidableEq, Repr

/-- A function's notification ring (R85). -/
structure Fn where
  base : BitVec 64 := 0
  log  : Nat := 0
  head : BitVec 32 := 0
  tail : BitVec 32 := 0
  lost : BitVec 32 := 0
  msix : Nat := 0
deriving DecidableEq, Repr

/-- A launch queue (R75). -/
structure Queue where
  base : BitVec 64 := 0
  log  : Nat := 0
  ctx  : Nat := 0
  prio : Nat := 0
  tail : BitVec 32 := 0
  head : BitVec 32 := 0
  err  : Bool := false
deriving DecidableEq, Repr

/-- A pigeonhole (R148); `acc` is the next slot index the Task Sorter examines, `waits`: that slot could not be accepted, `again`:
TAIL has been written since (R152);
`origin`: the launches whose gangs spawned the dockets of slots not yet accepted, by slot index (log 50). -/
structure Hole where
  base : BitVec 64 := 0
  log  : Nat := 0
  ctx  : Nat := 0
  hostfed : Bool := false
  tail : BitVec 32 := 0
  head : BitVec 32 := 0
  err  : BitVec 3 := 0
  acc  : BitVec 32 := 0
  waits : Bool := false
  again : Bool := false
  origin : List (Nat × Nat) := []
deriving DecidableEq, Repr

/-- A key slot of a link (R44). `full`: its counter has reached 2^40 since it was loaded (R46). -/
structure KeySlot where
  txkey : BitVec 256 := 0
  rxkey : BitVec 256 := 0
  txsalt : BitVec 56 := 0
  rxsalt : BitVec 56 := 0
  loaded : Bool := false
  rxlast : Option (BitVec 40) := none
  rxdead : Bool := false
  full   : Bool := false
deriving DecidableEq, Repr

/-- A flit in a retry buffer (R44): its sequence number, its failures in a row, whether it is to be sent again. -/
structure RetryFlit where
  seq   : Nat
  fails : Nat := 0
  due   : Bool := false
deriving DecidableEq, Repr

/-- A scale-up link's port (R40–R47). `retraining` (R42), `pam4` the single PAM4 retrain of R25, `retry` the retry buffer, oldest
first, `frank` a franking flit that has not left. -/
structure Link where
  tmo    : BitVec 24 := 1000000
  signal : BitVec 2 := 0
  txslot : BitVec 1 := 0
  frankack : Bool := false
  keywarn : Bool := false
  keyheld : Bool := false
  keyerr : Bool := false
  cnt    : CMap 40 := []
  warnexp : BitVec 6 := 38
  late   : BitVec 32 := 0
  tmocnt : BitVec 32 := 0
  failcnt : BitVec 32 := 0
  cmdslot : BitVec 1 := 0
  stage  : KeySlot := {}
  slot0  : KeySlot := {}
  slot1  : KeySlot := {}
  gens   : CMap 4 := []
  switching : Bool := false
  retraining : Bool := false
  pam4   : Bool := false
  retry  : List RetryFlit := []
  frank  : Bool := false
  txseq  : BitVec 12 := 0
deriving DecidableEq, Repr

/-- A request of a path through a fabric window (R33–R40). kind 0 read, 1 write, 2 atomic with return, 3 atomic
without, 4 ordered flag, 5 a STGR to local memory that waits (R298), 6 and 7 a Courier read and write (`load` the
instance, `path` the gang's first path key, `orphan` set). `op` is the operation plus 8 times its type. `covers` are the earlier requests that 4 and 5
wait for (as does an access to an SO page for the lane before it, `so`, R197); `tainted`: one of them failed; `orphan`: its path has
ended. `sent`: it has a link and a tag; `left`: its flit has left the port, else it is queued there (R42, R46). `uo`: its page is
UO. `more`: the other parts of the path that made it, once that path has diverged (R134). `here`: an access to an SO page of local memory
that waits for the lane before it (R197), with its leaf and the extent of its whole store. `coll`: the collective id of the reduction page
that it writes, and that extent (R63). `exit`: the exit whose failures it counts among (R38). The completion counters of a split (R35) are counts over these requests. -/
structure Req where
  id    : Nat
  path  : Nat
  kind  : Nat
  group : Nat
  link  : Nat
  tag   : Nat
  gen   : BitVec 4
  va    : BitVec 64
  addr  : BitVec 64
  len   : Nat
  data  : BitVec 512
  op    : Nat
  load  : Nat
  lane  : Nat
  off   : Nat
  sent  : Bool
  covers : List Nat
  tainted : Bool
  orphan : Bool := false
  so     : Bool := false
  uo     : Bool := false
  left   : Bool := false
  more   : List Nat := []
  here   : Option (BitVec 128 × Nat × Nat) := none
  coll   : Option (Nat × Nat × Nat) := none
  exit   : Nat := 0
deriving DecidableEq, Repr

/-- A side-log entry (R111): the intermediate and virtual address of its block, its bytes keyed by intermediate address
with bit 8 marking a byte that is held, or one reduction of a width and type. `born` is its path's; `ext` are the addresses and
lengths of the stores it holds bytes of (R63). -/
structure LogEntry where
  core  : Nat
  group : Nat
  path  : Nat
  part  : Nat
  ctx   : Nat
  ia    : Nat
  va    : BitVec 64
  bytes : CMap 9
  red   : Bool
  width : Nat
  ty    : Nat
  born  : Nat := 0
  ext   : List (Nat × Nat) := []
deriving DecidableEq, Repr

/-- A core (R17, R143, R144, R146, R170, R179, R337): the cycle counter, the owner of each accumulator bank (a
workgroup key, or 2^80 + a docket key for a Loom task), the waiting bank requests in order, the Loom's queue, the ramp
stage, the lost-locality scores by group (a group's score goes with it), the victim tags and the recency order of
resident pages, oldest first: workgroup, page and the group whose access last touched it. -/
structure Core where
  cycles : Nat := 0
  bankOwner : FMap Nat := []
  bankQueue : List (Nat × Nat) := []
  loom   : List LoomList := []
  ramp   : Nat := 0
  scores : CMap 8 := []
  victims : List (Nat × Nat × Nat) := []
  lru    : List (Nat × Nat × Nat) := []
deriving DecidableEq, Repr

/-- A store that the Selvedge holds during an exchange (R63): its number, its path and lane, its place in local memory or the request
that it makes through a window, its bytes, the extent of the whole store where that contributes, whether its page is SO. -/
structure HeldStore where
  id   : Nat
  path : Nat
  lane : Nat
  va   : BitVec 64
  pa   : Nat
  bytes : List Byte
  ext  : Nat × Nat
  req  : Option Req := none
  so   : Bool := false
deriving DecidableEq, Repr

/-- A collective-table entry in force (R61, R63): marks of the elements contributed, the exchange in progress, the
stores held during it. -/
structure Coll where
  part  : Nat
  ctx   : Nat
  cid   : Nat
  bf16  : Bool
  ring  : Bool
  offload : Bool
  ranks : Nat
  me    : Nat
  elems : Nat
  base  : BitVec 64
  peers : BitVec 64
  done  : BitVec 64
  docket : BitVec 64
  gen   : BitVec 32
  marks : CMap 1
  busy  : Bool
  held  : List HeldStore
  leaving : Bool
deriving DecidableEq, Repr

/-- A tile that arrived from a peer for a job (R53, R59): the sender's rank, pass, round or step, tile number, the
AND of its contributors' sealed bits, the sender's digest, the coded bytes. -/
structure TileMsg where
  sender : Nat
  pass   : Nat
  round  : Nat
  tile   : Nat
  allSealed : Bool
  digest : BitVec 64
  bytes  : List Byte
deriving DecidableEq, Repr

/-- A compositing job (R56–R60). `part` is the rank's current partial: per tile
the words of its channels; `planes` the rank planes of a ring job; arrived: tiles of the current and the next pass not yet merged;
`posted`: the pass has posted its destination and waits for the borrowers (R60, R70). -/
structure Job where
  docket : Nat
  mode  : Nat
  ring  : Bool
  chans : Nat
  gather : Bool
  ranks : Nat
  me    : Nat
  tiles : Nat
  tag   : Nat
  src   : BitVec 64
  dst   : BitVec 64
  stat  : BitVec 64
  tmo   : Nat
  sub   : Bool
  dsthdr : Bool
  peers : List Nat
  pass  : Nat
  running : Bool
  round : Nat
  srcPost : BitVec 32
  sealed : Bool
  allSealed : Bool
  sat   : Bool
  part  : List (Nat × List (BitVec 32))
  planes : List (Nat × List Nat)
  arrived : List TileMsg
  posted : Bool := false
deriving DecidableEq, Repr

/-- A line of the borrow cache (R69). -/
structure BLine where
  pkg  : Nat
  ia   : Nat
  header : BitVec 64
  post : BitVec 32
  unwatched : Bool
  data : BitVec 2048
deriving DecidableEq, Repr

/-- A part of a lane's borrow read that awaits a gather (R302): its number, the path, the load's number, the lane, the
offset in the value, the address, the bytes, the postmark expected. -/
structure BRead where
  id    : Nat
  path  : Nat
  load  : Nat
  lane  : Nat
  off   : Nat
  ia    : Nat
  len   : Nat
  expect : BitVec 32
deriving DecidableEq, Repr

/-- A subscription that has left its tile's list as DONE while its OUTHDR was not settled: the tile, an address of
`ctx`, waits for that, an address of `octx`, still (R159). -/
structure Owing where
  part : Nat
  ctx  : Nat
  tile : BitVec 64
  octx : Nat
  out  : BitVec 64
deriving DecidableEq, Repr

/-- An exit of a path whose requests were not all answered (R38): its number, its context, the failures so far. -/
structure Exit where
  id   : Nat
  part : Nat
  ctx  : Nat
  fails : List PostFail
deriving DecidableEq, Repr

/-- Where the bytes of an on-chip space lie. -/
inductive SLoc where
  | slice (wk : Nat)
  | scratch (wk : Nat)
  | cluster (gid : Nat)
  | chip (launch : Nat)
  | none
deriving DecidableEq, Repr

/-- A store of a lane to an on-chip memory that other lanes, or the Loom alone (`loom`), may not see yet (R177, R205): the lane, the place
and the bytes as they were. -/
structure Stale where
  group : Nat
  lane  : Nat
  loc   : SLoc
  key   : Nat
  old   : List Byte
  loom  : Bool
deriving DecidableEq, Repr

/-- The Selvedge, the parcel engine and the borrow cache (R56–R71). `pend`: the entry being set up; `lender` and `notices`: a header,
2^64·(64·partition + context) + its address, with a borrower (R70). -/
structure Selv where
  offign  : BitVec 32 := 0
  uuddrop : BitVec 32 := 0
  stale   : BitVec 32 := 0
  notefail : BitVec 32 := 0
  jobfail : BitVec 32 := 0
  notetmo : BitVec 32 := 1000000
  cid   : BitVec 12 := 0
  cpart : BitVec 4 := 0
  cctx  : BitVec 6 := 0
  entry : BitVec 320 := 0
  cst   : BitVec 3 := 0
  pend  : Option Coll := none
  colls : FMap Coll := []
  jobs  : FMap Job := []
  lender : List (Nat × Nat) := []
  notices : List (Nat × Nat) := []
  newer : CMap 32 := []
  lines : List BLine := []
  reads : List BRead := []
  credits : FMap (Nat × Nat) := []
deriving DecidableEq, Repr

/-- The management controller: the Build Map (R21–R23; an unlisted entry is as after bring-up), start-up, firmware
and attestation (R17–R20; `image`: the image that is being verified; `measured`: the measurement of the image in use of each
component whose image the host supplied), channel copies in progress (R25). -/
structure Mgmt where
  mapver : BitVec 32 := 1
  cause  : BitVec 8 := 0
  subject : BitVec 16 := 0
  cores  : Nat := 192
  hbmgb  : Nat := 512
  l2kib  : Nat := 196608
  grace  : BitVec 32 := 1000000
  mckhz  : BitVec 32 := 500000
  coreEnt : FMap (BitVec 32) := []
  chanEnt : FMap (BitVec 8) := []
  linkEnt : FMap (BitVec 32) := []
  portEnt : FMap (BitVec 16) := []
  island : FMap (BitVec 2) := []
  l2Ent  : FMap (BitVec 32) := []
  needsReset : Bool := false
  started : Bool := false
  awake  : Nat := 0
  copying : List (Nat × Nat) := []
  fwstat : BitVec 2 := 0
  fwbase : BitVec 64 := 0
  fwlen  : BitVec 32 := 0
  image  : Option (List Byte) := none
  measured : FMap (BitVec 256) := []
  nonce  : BitVec 256 := 0
  attbuf : BitVec 64 := 0
  attst  : BitVec 3 := 0
  attlen : BitVec 16 := 0
  leaves : BitVec 21 := 1048576
deriving DecidableEq, Repr

/-- A message the package sends on Ultra Ethernet: destination package, a kind (1 compositing tile, 2 contribution
set-up, 3 parcel, 4 receive-slot grant, 5 grant withdrawn, 6 gather request, 7 gather response, 8 postmark notice,
9 notice acknowledgement, 10 returned slot), numbers and bytes. The model's own record of outputs (log 2). -/
structure NetMsg where
  dest : Nat
  kind : Nat
  nums : List Nat
  bytes : List Byte
deriving DecidableEq, Repr

/-- What comes next (the model's own, log 2): an event of the device or of the outside, events whose causes are detected together (R24), the
path that issues next,
cycles that pass on a core, bytes the outside writes into host or device memory, a cached table entry that the
memory side drops (R108), whether host bus requests complete with an error from now on (log 67), whether lanes' stores to the on-chip
memories are seen late by others from now on (log 1), paths of one group that issue in one cycle (R242). -/
inductive Agenda where
  | event (i : Instr)
  | together (is : List Instr)
  | issue (p : Nat)
  | elapse (core cycles : Nat)
  | hostBytes (addr : Nat) (bytes : List Byte)
  | deviceBytes (addr : Nat) (bytes : List Byte)
  | drop (part page : Nat)
  | hostBus (fails : Bool)
  | lag (on : Bool)
  | cycle (ps : List Nat)
deriving DecidableEq, Repr

/-- The state of one package. `swaps`: the contexts whose swaps have been commanded and not completed, in order (R86). `hostErr`: host
bus requests complete with an error (the model's own, log 67). `lag`: lanes' stores to the on-chip memories are seen late by others (the
model's own, log 1); `stale`: those that are not seen yet. `exits`: exits of paths that still count failures (R38). -/
structure State where
  agenda  : List Agenda
  cur     : Nat
  mem     : Memory
  hostMem : Memory
  paths   : FMap Path
  groups  : FMap Group
  wgs     : FMap Wg
  gangs   : FMap Gang
  launches : FMap Launch
  dockets : FMap Docket
  ctxs    : FMap Ctx
  parts   : FMap Part
  fns     : FMap Fn
  queues  : FMap Queue
  holes   : FMap Hole
  lastHole : FMap Nat
  links   : FMap Link
  reqs    : List Req
  sidelog : List LogEntry
  cores   : FMap Core
  tlb     : FMap (BitVec 128)
  filters : List (Nat × Nat × Nat)
  parked  : List (Nat × BitVec 32 × Nat)
  replies : List (Nat × BitVec 32 × BitVec 32)
  selv    : Selv
  mgmt    : Mgmt
  swaps   : List Nat
  vfEn    : Bool
  numVfs  : Nat
  owing   : List Owing
  hostErr : Bool
  lag     : Bool
  stale   : List Stale
  exits   : List Exit
  netOut  : List NetMsg
  free    : Nat
  uid     : Nat
deriving DecidableEq, Repr

/-- Why the model stops with a fault. -/
inductive Fault where
  /-- exec was called for a path instruction while no path issues (the current path key names no path). The step
  never does so. Safe: the hardware executes no instruction without a path (log 14). -/
  | noIssuingPath
deriving DecidableEq, Repr

/-- Why the model refuses. -/
inductive Refusal where
  /-- Raised by a dispatch arm whose instruction has no meaning yet. Safe: nothing is claimed of it. -/
  | notModelled (mnemonic : String)
deriving DecidableEq, Repr

/-- The package right after reset: every register at the value its rule gives, every table empty (R6, log 4). -/
def State.reset : State where
  agenda := []
  cur := 0
  mem := []
  hostMem := []
  paths := []
  groups := []
  wgs := []
  gangs := []
  launches := []
  dockets := []
  ctxs := []
  parts := []
  fns := []
  queues := []
  holes := []
  lastHole := []
  links := []
  reqs := []
  sidelog := []
  cores := []
  tlb := []
  filters := []
  parked := []
  replies := []
  selv := {}
  mgmt := {}
  swaps := []
  vfEn := false
  numVfs := 0
  owing := []
  hostErr := false
  lag := false
  stale := []
  exits := []
  netOut := []
  free := 0
  uid := 1

end Sys2Proof.Machine
end

