-- ==== Sys2Proof/Machine/Access.lean ====
section
/-! DEFINITION. The memory side (spec/05_memory_hierarchy.md): apertures, page-table walks with the cached entries and
first touch, byte accesses of the five spaces with barrier tags, the side log's bytes, and the addresses that
software writes into registers (spec/04_host_interface.md R359). -/

namespace Sys2Proof.Machine

/-- Bits [lo+len−1:lo] of a word as a number (R7). -/
def bf {n : Nat} (x : BitVec n) (lo len : Nat) : Nat := x.toNat / 2 ^ lo % 2 ^ len

/-- A 64-bit address plus a signed byte offset, modulo 2^64 (R91). -/
def addOff (a : BitVec 64) (off : BitVec 8) : BitVec 64 := a + off.signExtend 64

/-- Key of a context (partition 0–8, context 0–63). -/
def ctxKey (part ctx : Nat) : Nat := 64 * part + ctx

def State.ctx (s : State) (part ctx : Nat) : Ctx := FMap.getD s.ctxs (ctxKey part ctx) {}
def State.putCtx (s : State) (part ctx : Nat) (c : Ctx) : State := { s with ctxs := FMap.set s.ctxs (ctxKey part ctx) c }
def State.part (s : State) (n : Nat) : Part := FMap.getD s.parts n {}
def State.putPart (s : State) (n : Nat) (p : Part) : State := { s with parts := FMap.set s.parts n p }
def State.core (s : State) (n : Nat) : Core := FMap.getD s.cores n {}
def State.putCore (s : State) (n : Nat) (c : Core) : State := { s with cores := FMap.set s.cores n c }
def State.link (s : State) (n : Nat) : Link := FMap.getD s.links n {}
def State.putLink (s : State) (n : Nat) (l : Link) : State := { s with links := FMap.set s.links n l }
def State.hole (s : State) (n : Nat) : Hole := FMap.getD s.holes n {}
def State.putHole (s : State) (n : Nat) (h : Hole) : State := { s with holes := FMap.set s.holes n h }
def State.queue (s : State) (n : Nat) : Queue := FMap.getD s.queues n {}
def State.putQueue (s : State) (n : Nat) (q : Queue) : State := { s with queues := FMap.set s.queues n q }
def State.fn (s : State) (n : Nat) : Fn := FMap.getD s.fns n {}
def State.putFn (s : State) (n : Nat) (f : Fn) : State := { s with fns := FMap.set s.fns n f }

/-! ### Build Map entries after bring-up (R23) -/

/-- Core entry 10c + k: active with LOGICAL 8c + k, or spare at positions 8 and 9; ISLAND as R15. -/
def coreEntry0 (i : Nat) : BitVec 32 :=
  let c := i / 10
  let k := i % 10
  BitVec.ofNat 32 ((if k < 8 then 0 else 1) + (5 * c + k / 2) * 2 ^ 8 + (if k < 8 then 8 * c + k else 0xFF) * 2 ^ 16)
/-- Channel entry 34s + physical channel. -/
def chanEntry0 (i : Nat) : BitVec 8 :=
  let k := i % 34
  BitVec.ofNat 8 (if k < 32 then 4 * k else 1 + 4 * 0x3F)
/-- An island holding only spare units is off: the core pair of positions 8 and 9 (R15, R23). -/
def island0 (i : Nat) : BitVec 2 := if i < 120 && i % 5 == 4 then 1 else 0
def l2Entry0 (_ : Nat) : BitVec 32 := 0xFFFF

def Mgmt.core (m : Mgmt) (i : Nat) : BitVec 32 := FMap.getD m.coreEnt i (coreEntry0 i)
def Mgmt.chan (m : Mgmt) (i : Nat) : BitVec 8 := FMap.getD m.chanEnt i (chanEntry0 i)
def Mgmt.isl (m : Mgmt) (i : Nat) : BitVec 2 := FMap.getD m.island i (island0 i)
def Mgmt.l2 (m : Mgmt) (i : Nat) : BitVec 32 := FMap.getD m.l2Ent i (l2Entry0 i)
def Mgmt.linkE (m : Mgmt) (i : Nat) : BitVec 32 := FMap.getD m.linkEnt i 0
def Mgmt.port (m : Mgmt) (i : Nat) : BitVec 16 := FMap.getD m.portEnt i 0

/-- The Selvedge, the parcel engine and the collective table have stopped (R360). -/
def Mgmt.selvDown (m : Mgmt) : Bool := m.isl 168 == 2 || m.isl 169 == 2

/-- Whether logical channel c of a stack is served by an active physical channel (R12, R13). -/
def Mgmt.channelLive (m : Mgmt) (stack c : Nat) : Bool :=
  m.chanEnt.isEmpty ||
    (List.range 34).any fun k => bf (m.chan (34 * stack + k)) 0 2 == 0 && bf (m.chan (34 * stack + k)) 2 6 == c

/-- Whether a physical address lies in a 64 KiB frame on a retired HBM channel (R13, R25). -/
def Mgmt.frameRetired (m : Mgmt) (pa : Nat) : Bool :=
  let f := pa / 65536
  decide (pa < Config.hbmBytes) && !m.channelLive (f / 32 % 8) (f % 32)

/-! ### Apertures (R102, R103) -/

/-- Whether aperture register x is valid and covers an address. -/
def aperCovers (x : BitVec 64) (va : Nat) : Bool :=
  bf x 0 1 == 1 && bf x 1 2 != 3 && decide (bf x 5 5 ≤ 22) &&
    va / 2 ^ (30 + bf x 5 5) == bf x 10 27 * 2 ^ 30 / 2 ^ (30 + bf x 5 5)

/-- Kind, link group and intermediate address of an address under aperture register x. -/
def aperMap (x : BitVec 64) (va : Nat) : Nat × Nat × Nat :=
  let sz := 2 ^ (30 + bf x 5 5)
  (bf x 1 2, bf x 3 2, bf x 37 22 * 2 ^ 30 / sz * sz + va % sz)

/-- The lowest-numbered valid aperture that covers an address. -/
def aperFind (ap : CMap 64) (va : Nat) : Option (Nat × Nat × Nat) :=
  ((List.range 8).find? fun n => aperCovers (CMap.get ap n) va).map fun n => aperMap (CMap.get ap n) va

/-! ### Page-table walks (R105–R108, R110) -/

/-- What an access needs of a leaf (R107 outcome 5). -/
inductive Need where
  | rd | wr | rmw
deriving DecidableEq, Repr

def entV (e : BitVec 128) : Bool := e.getLsbD 0
def entLeaf (e : BitVec 128) : Bool := e.getLsbD 1
def entOrd (e : BitVec 128) : Nat := bf e 4 2
def entAnon (e : BitVec 128) : Bool := e.getLsbD 6
def entSoft (e : BitVec 128) : Bool := e.getLsbD 7
def entRed (e : BitVec 128) : Bool := e.getLsbD 8
def entColl (e : BitVec 128) : Nat := bf e 9 12
def entFmt (e : BitVec 128) : Nat := bf e 21 5
def entBlk (e : BitVec 128) : Nat := bf e 26 2
def entScale (e : BitVec 128) : Nat := bf e 64 52

/-- Format errors of a leaf entry (R106, R107 outcome 1). -/
def leafBad (e : BitVec 128) (large : Bool) : Bool :=
  bf e 28 4 != 0 || bf e 116 12 != 0 || entOrd e == 3 || decide (15 ≤ entFmt e) || entBlk e == 3 ||
    (entAnon e && entSoft e) || (large && (bf e 32 5 != 0 || entAnon e))

/-- Format errors of a non-leaf entry: only V, LEAF and NEXT are used. -/
def nodeBad (e : BitVec 128) : Bool := bf e 2 62 != 0 || bf e 116 12 != 0

/-- The end of a fresh walk: a format error, in the leaf if one was reached; no leaf reached; or the leaf with its address and size. -/
inductive Reach where
  | format (e : Option (BitVec 128))
  | none
  | leaf (e : BitVec 128) (at_ : Nat) (large : Bool)
deriving DecidableEq, Repr

def entAt (m : Memory) (a : Nat) : BitVec 128 := BitVec.ofNat 128 (Memory.read m a 16)

/-- A walk from PTROOT (R105). -/
def freshWalk (m : Memory) (root : BitVec 64) (ia : Nat) : Reach :=
  if root = 0 then .none
  else
    let e0 := entAt m (root.toNat + 16 * (ia / 2 ^ 36 % 2 ^ 16))
    if entLeaf e0 || nodeBad e0 then .format Option.none
    else if !entV e0 then .none
    else
      let a1 := bf e0 64 52 + 16 * (ia / 2 ^ 21 % 2 ^ 15)
      let e1 := entAt m a1
      if entLeaf e1 then (if leafBad e1 true then .format (some e1) else .leaf e1 a1 true)
      else if nodeBad e1 then .format Option.none
      else if !entV e1 then .none
      else
        let a2 := bf e1 64 52 + 16 * (ia / 2 ^ 16 % 2 ^ 5)
        let e2 := entAt m a2
        if !entLeaf e2 then .format Option.none
        else if leafBad e2 false then .format (some e2) else .leaf e2 a2 false

/-- Cause codes of R184. -/
abbrev cILLEGAL : BitVec 8 := 0x01
abbrev cLATCH : BitVec 8 := 0x02
abbrev cMISALIGN : BitVec 8 := 0x03
abbrev cAPERTURE : BitVec 8 := 0x04
abbrev cPERMISSION : BitVec 8 := 0x05
abbrev cNOTPRESENT : BitVec 8 := 0x06
abbrev cSLICE : BitVec 8 := 0x07
abbrev cSCRATCH : BitVec 8 := 0x08
abbrev cBARRIER : BitVec 8 := 0x09
abbrev cCOLLECTIVE : BitVec 8 := 0x0A
abbrev cACC : BitVec 8 := 0x0B
abbrev cFORMAT : BitVec 8 := 0x0C
abbrev cSTRADDLE : BitVec 8 := 0x0D
abbrev cREMOTE : BitVec 8 := 0x0E
abbrev cPOSTMARK : BitVec 8 := 0x0F
abbrev cTRAP : BitVec 8 := 0x20
abbrev cBREAK : BitVec 8 := 0x21
abbrev cMAPCHG : BitVec 8 := 0x22

/-- The level of a cause (R184). -/
def causeLevel (c : BitVec 8) : Nat :=
  match c.toNat with
  | 0x01 => 1 | 0x02 => 2 | 0x03 => 3 | 0x07 => 4 | 0x08 => 4 | 0x04 => 5 | 0x0D => 6 | 0x09 => 7
  | 0x0C => 8 | 0x05 => 9 | 0x06 => 10 | 0x0E => 11 | _ => 12

/-- The outcome of a walk (R107): a physical address with the leaf; a soft miss; a cause, with the leaf reached if
any (its ORD decides logging, R111). -/
inductive WalkOut where
  | ok (pa : Nat) (e : BitVec 128) (large : Bool)
  | soft
  | fault (c : BitVec 8) (e : Option (BitVec 128))
deriving DecidableEq, Repr

/-- Outcomes 4 to 6 of R107 for a leaf. The FRAME of a fabric window's page (`win`) is a node's address, not HBM's (R13, R103). An
address beyond HBM's capacity is read and written like any other (log 73). -/
def leafOut (mg : Mgmt) (e : BitVec 128) (large : Bool) (ia : Nat) (nd : Need) (win : Bool := false) : WalkOut :=
  let off := if large then ia % 2 ^ 21 else ia % 2 ^ 16
  let pa := bf e 32 32 * 65536 + off
  if !entV e then .fault cNOTPRESENT (some e)
  else if !win && mg.frameRetired pa then .fault cNOTPRESENT (some e)
  else if (nd ≠ .wr && !e.getLsbD 2) || (nd ≠ .rd && !e.getLsbD 3) then .fault cPERMISSION (some e)
  else .ok pa e large

/-- Key of a cached entry: one per 64 KiB. -/
def tlbKey (part ia : Nat) : Nat := part * 2 ^ 36 + ia / 65536

/-- Cache an entry; bit 28, reserved in memory, marks a 2 MiB page. -/
def State.cache (s : State) (part ia : Nat) (e : BitVec 128) (large : Bool) : State :=
  { s with tlb := FMap.set s.tlb (tlbKey part ia) (if large then e ||| 0x10000000 else e) }

/-- A fresh entry that grants nothing replaces the cached one (R108). -/
def State.uncache (s : State) (part ia : Nat) : State := { s with tlb := FMap.erase s.tlb (tlbKey part ia) }

/-- The address of entry i of a first-touch ring (R109, R110), device physical. -/
def ftSlot (p : Part) : Nat := p.ftbase.toNat + 8 * (p.fthead.toNat % 2 ^ p.ftlog)

/-- A walk with first touch and soft miss (R107, R110); `ray` for the RAY path, `pure` forbids first touch (R304). -/
def State.walkFresh (s : State) (part ia : Nat) (nd : Need) (ray pure : Bool) (win : Bool := false) : WalkOut × State :=
  let p := s.part part
  match freshWalk s.mem p.ptroot ia with
  | .format e => (.fault cFORMAT e, s.uncache part ia)
  | .none => (.fault cNOTPRESENT none, s.uncache part ia)
  | .leaf e a large =>
    if !entV e && entAnon e && !pure then
      if p.ftlog = 0 || p.fthead = p.fttail then (.fault cNOTPRESENT (some e), s.uncache part ia)
      else
        let fr := Memory.read s.mem (ftSlot p) 8 / 65536 % 2 ^ 32
        let e' : BitVec 128 := BitVec.ofNat 128 (e.toNat / 2 ^ 64 * 2 ^ 64 + fr * 2 ^ 32 + e.toNat % 2 ^ 32 / 2 * 2 + 1)
        let s' := { s with mem := Memory.write s.mem a 16 e'.toNat }
        let s' := s'.putPart part { p with fthead := p.fthead + 1 }
        (leafOut s.mgmt e' large ia nd win, s'.cache part ia e' large)
    else if !entV e && entSoft e && ray then (.soft, s.uncache part ia)
    else (leafOut s.mgmt e large ia nd win, if entV e then s.cache part ia e large else s.uncache part ia)

/-- A walk through the cached entries: a cached success stands; anything else is walked afresh (R108). -/
def State.walk (s : State) (part ia : Nat) (nd : Need) (ray : Bool := false) (win : Bool := false) : WalkOut × State :=
  match FMap.get? s.tlb (tlbKey part ia) with
  | none => s.walkFresh part ia nd ray false win
  | some e =>
    let large := e.getLsbD 28
    match leafOut s.mgmt (e &&& ~~~(0x10000000 : BitVec 128)) large ia nd win with
    | .ok pa e' l => (.ok pa e' l, s)
    | _ => s.walkFresh part ia nd ray false win

/-! ### Accesses to G -/

/-- Part of an access inside one 64 KiB page (R103, R198): local physical bytes, a fabric window's node bytes, or a
cause. -/
inductive Piece where
  | loc (ia pa len : Nat) (e : BitVec 128)
  | fab (group ia addr len : Nat) (e : BitVec 128)
  | borrow (ia len : Nat)
  | bad (c : BitVec 8) (ia len : Nat) (fabric : Bool) (e : Option (BitVec 128))
deriving DecidableEq, Repr

/-- Translate one part of an access to G (R103). A fetch, and a device access, pass `dev`: a window other than local
memory is then refused. -/
def State.piece (s : State) (ap : CMap 64) (part : Nat) (va len : Nat) (nd : Need) (ray : Bool := false) : Piece × State :=
  if 2 ^ 57 ≤ va then (.bad cAPERTURE 0 len false none, s)
  else
    match aperFind ap va with
    | none => (.bad cAPERTURE 0 len false none, s)
    | some (kind, g, ia) =>
      if kind = 2 then (.borrow ia len, s)
      else
        match s.walk part ia nd ray (kind == 1) with
        | (.ok pa e _, s') => if kind = 1 then (.fab g ia pa len e, s') else (.loc ia pa len e, s')
        | (.soft, s') => (.bad 0xFF ia len (kind == 1) none, s')
        | (.fault c e, s') => (.bad c ia len (kind == 1) e, s')

/-- The parts of an access of `len` bytes (R198): at most two for the widths there are, `fuel` bounds them. -/
def State.pieces (s : State) (ap : CMap 64) (part : Nat) (nd : Need) : Nat → Nat → Nat → List Piece × State
  | 0, _, _ => ([], s)
  | fuel + 1, va, len =>
    if len = 0 then ([], s)
    else
      let n := min len (65536 - va % 65536)
      let (p, s1) := s.piece ap part va n nd
      let (ps, s2) := s1.pieces ap part nd fuel (va + n) (len - n)
      (p :: ps, s2)

/-- The cause of a part, if it has one, for an access that borrow windows refuse (R103). -/
def Piece.cause : Piece → Option (BitVec 8)
  | .bad c _ _ _ _ => some c
  | .borrow _ _ => some cPERMISSION
  | _ => none

/-! ### The addresses of registers, rings and records (R359) -/

/-- Bytes of device or host memory through an address of R359: bit 63 a host bus address, else a virtual address of
the context under its local-memory apertures; none when it does not translate. -/
def State.physOf (s : State) (part ctx : Nat) (va : Nat) (nd : Need) : Option Nat × State :=
  match s.piece (s.ctx part ctx).aper part va 1 nd with
  | (.loc _ pa _ _, s') => (some pa, s')
  | (_, s') => (none, s')

/-- Read `n` bytes at a virtual address of a context, page by page. -/
def State.readVA (s : State) (part ctx : Nat) : Nat → Nat → Nat → Option (List Byte) × State
  | 0, _, n => (if n = 0 then some [] else none, s)
  | fuel + 1, va, n =>
    if n = 0 then (some [], s)
    else
      let k := min n (65536 - va % 65536)
      match s.physOf part ctx va .rd with
      | (none, s1) => (none, s1)
      | (some pa, s1) =>
        match s1.readVA part ctx fuel (va + k) (n - k) with
        | (none, s2) => (none, s2)
        | (some bs, s2) => (some (Memory.bytes s.mem pa k ++ bs), s2)

/-- Write bytes at a virtual address of a context, page by page; nothing is written when a page fails. -/
def State.writeVA (s : State) (part ctx : Nat) : Nat → Nat → List Byte → Option State
  | 0, _, bs => if bs.isEmpty then some s else none
  | fuel + 1, va, bs =>
    if bs.isEmpty then some s
    else
      let k := min bs.length (65536 - va % 65536)
      match s.physOf part ctx va .wr with
      | (none, _) => none
      | (some pa, s1) =>
        match s1.writeVA part ctx fuel (va + k) (bs.drop k) with
        | none => none
        | some s2 => some { s2 with mem := Memory.writeBytes s2.mem pa (bs.take k) }

/-- The state after the walks of an access at a virtual address of a context, up to the first page that fails: a first touch
stands even then (R110). -/
def State.walkVA (s : State) (part ctx : Nat) (nd : Need) : Nat → Nat → Nat → State
  | 0, _, _ => s
  | fuel + 1, va, n =>
    if n = 0 then s
    else
      match s.physOf part ctx va nd with
      | (none, s1) => s1
      | (some _, s1) => s1.walkVA part ctx nd fuel (va / 65536 * 65536 + 65536) (n - min n (65536 - va % 65536))

/-- A write at a virtual address: whether it was made, and the state after it. -/
def State.wroteVA (s : State) (part ctx fuel va : Nat) (bs : List Byte) : Bool × State :=
  match s.writeVA part ctx fuel va bs with
  | some s1 => (true, s1)
  | none => (false, s.walkVA part ctx .wr fuel va bs.length)

/-- Read at a register's address (R359 last row); a host bus request may complete with an error (log 67). -/
def State.readAddr (s : State) (part ctx : Nat) (a : BitVec 64) (n : Nat) : Option (List Byte) × State :=
  if a.msb then (if s.hostErr then none else some (Memory.bytes s.hostMem (a.toNat % 2 ^ 63) n), s) else s.readVA part ctx 16 a.toNat n

/-- Write at a register's address (R359 last row). -/
def State.writeAddr (s : State) (part ctx : Nat) (a : BitVec 64) (bs : List Byte) : Option State :=
  if a.msb then (if s.hostErr then none else some { s with hostMem := Memory.writeBytes s.hostMem (a.toNat % 2 ^ 63) bs })
  else s.writeVA part ctx 16 a.toNat bs

/-- The place of the byte at a register's address: host memory or device memory, and the address there. -/
def State.placeOf (s : State) (part ctx : Nat) (a : BitVec 64) : Option (Bool × Nat) :=
  if a.msb then some (true, a.toNat % 2 ^ 63) else (s.physOf part ctx a.toNat .rd).1.map fun pa => (false, pa)

/-- A write at a register's address: whether it was made, and the state after it. -/
def State.wroteAddr (s : State) (part ctx : Nat) (a : BitVec 64) (bs : List Byte) : Bool × State :=
  match s.writeAddr part ctx a bs with
  | some s1 => (true, s1)
  | none => (false, s.walkVA part ctx .wr 16 a.toNat bs.length)

/-- Whether two addresses of contexts of one partition name one place. -/
def State.samePlace (s : State) (part ctx : Nat) (va : BitVec 64) (part' ctx' : Nat) (va' : BitVec 64) : Bool :=
  part == part' && ((ctx == ctx' && va == va') ||
    ((s.placeOf part ctx va).isSome && s.placeOf part ctx va == s.placeOf part ctx' va'))

/-! ### On-chip spaces (R90, R91, R96, R168) -/

/-- A word's barrier tag covers 8 bytes; whether any byte of [o, o+n) is tagged. -/
def tagged (tags : CMap 1) (o n : Nat) : Bool :=
  (List.range ((o + n - 1) / 8 - o / 8 + 1)).any fun i => n != 0 && CMap.get tags (o / 8 + i) == 1

/-- An on-chip space. -/
inductive Space where
  | L | S | C | K
deriving DecidableEq, Repr

/-! ### The side log (R111–R113, R206) -/

/-- The youngest entry of a group that holds a byte: `none` no entry; `some (some b)` a store's byte; `some none` a
reduction. -/
def logByte (log : List LogEntry) (group part a : Nat) : Option (Option Byte) :=
  log.foldl (fun acc e =>
    if e.group = group && e.part = part && CMap.get e.bytes a ≠ 0 then
      some (if e.red then none else some ((CMap.get e.bytes a).setWidth 8))
    else acc) none

/-! ### Functions (R18, R72) -/

/-- VF n exists (R72); before the package has started there is only PF0's management (R18). -/
def State.vfExists (s : State) (n : Nat) : Bool := s.mgmt.started && s.vfEn && decide (1 ≤ n ∧ n ≤ 8 ∧ n ≤ s.numVfs)

/-- The partition a function holds (R72): its launch queues, context windows and pigeonholes stand in that function's BAR0, and in none
before the package has started (R18). -/
def State.fnPart (s : State) (fn : Nat) : Option Nat :=
  if fn = 0 then (if s.vfEn || !s.mgmt.started then none else some 0)
  else if s.vfExists fn then some fn
  else none

/-- Whether a function exposes a partition's launch queues and context windows: partition n is held by function n (R72). -/
def State.hosted (s : State) (part : Nat) : Bool := s.fnPart part == some part

end Sys2Proof.Machine
end

