-- ==== Sys2Proof/Machine/Operands.lean ====
section
/-! DEFINITION. What a path's instruction reads: the executing path and its owners, source selectors, registers and
predicates, ACTIVE lanes (spec/13_formats_and_opcode_map.md R225–R231), gm (R235–R237), and the static conditions of
legality of every instruction's fields. -/

namespace Sys2Proof.Machine

/-- The executing path with its group, workgroup and gang, and their keys. -/
structure Run where
  key   : Nat
  path  : Path
  group : Group
  wg    : Wg
  gang  : Gang
deriving DecidableEq, Repr

def Run.gk (r : Run) : Nat := r.key / 32
def Run.wk (r : Run) : Nat := r.key / 512
def Run.gid (r : Run) : Nat := r.key / 4096

/-- The path at a key with its owners. -/
def State.runAt (s : State) (k : Nat) : Option Run :=
  match FMap.get? s.paths k, FMap.get? s.groups (k / 32), FMap.get? s.wgs (k / 512), FMap.get? s.gangs (k / 4096) with
  | some p, some g, some w, some q => some ⟨k, p, g, w, q⟩
  | _, _, _, _ => none

/-- The path that issues. -/
def State.run? (s : State) : Option Run := s.runAt s.cur

def State.putPath (s : State) (k : Nat) (p : Path) : State := { s with paths := FMap.set s.paths k p }
def State.putGroup (s : State) (k : Nat) (g : Group) : State := { s with groups := FMap.set s.groups k g }
def State.putWg (s : State) (k : Nat) (w : Wg) : State := { s with wgs := FMap.set s.wgs k w }
def State.putGang (s : State) (k : Nat) (g : Gang) : State := { s with gangs := FMap.set s.gangs k g }

/-- The lanes of a group. -/
def lanes32 : List Nat :=
  [0, 1, 2, 3, 4, 5, 6, 7, 8, 9, 10, 11, 12, 13, 14, 15, 16, 17, 18, 19, 20, 21, 22, 23, 24, 25, 26, 27, 28, 29, 30, 31]

/-- The lanes of a mask in ascending order. -/
def lanesOf (m : BitVec 32) : List Nat := lanes32.filter fun L => m.getLsbD L

/-- The mask of the lanes where a test holds (LANEBIT, R242). -/
def laneMask (f : Nat → Bool) : BitVec 32 := lanes32.foldl (fun m L => if f L then m ||| (1#32 <<< L) else m) 0

/-- The lowest lane of a mask, 0 for none. -/
def lowLane (m : BitVec 32) : Nat := (lanesOf m).headD 0

/-! ### gm (R235) -/

def gmT (gm : BitVec 32) : Nat := bf gm 0 5
def gmS (gm : BitVec 32) : Nat := bf gm 5 5
def gmRnd (gm : BitVec 32) : Rnd := ⟨bf gm 10 3, gm.getLsbD 13, gm.getLsbD 14⟩
def gmSat (gm : BitVec 32) : Bool := gm.getLsbD 13
def gmN (gm : BitVec 32) : Nat := bf gm 19 6
def gmM (gm : BitVec 32) : Nat := bf gm 25 2

/-- A value gm accepts (R235, R236). -/
def gmOk (gm : BitVec 32) : Bool :=
  decide (gmT gm ≤ 14) && decide (gmS gm ≤ 14) && decide (bf gm 10 3 ≤ 4) && gmM gm != 3 && bf gm 27 5 == 0

/-- The conditions a MODE immediate meets (R236). -/
def modeOk (i : BitVec 32) : Bool := decide (bf i 0 5 ≤ 14) && decide (bf i 5 5 ≤ 14) && decide (bf i 10 3 ≤ 4)

def Run.T (r : Run) : Nat := gmT r.path.gm

/-- The lanes where predicate n is true; p0 always (R8). -/
def Group.pred (g : Group) (n : Nat) : BitVec 32 := if n = 0 then 0xFFFFFFFF else CMap.get g.p n

/-- ACTIVE: the lanes of the path whose guard holds (R7). -/
def Run.active (r : Run) : BitVec 32 :=
  let g := r.group.pred (bf r.path.gm 15 3)
  r.path.mask &&& (if r.path.gm.getLsbD 18 then ~~~g else g)

/-! ### Source selectors (R229, R230) -/

/-- Register v of a lane. -/
def Group.vreg (g : Group) (n L : Nat) : BitVec 32 := CMap.get g.v (32 * n + L)
def Group.sreg (g : Group) (n : Nat) : BitVec 32 := CMap.get g.s n
/-- Latch fwN of a lane. -/
def Path.latch (p : Path) (n L : Nat) : BitVec 32 := CMap.get p.fw (32 * n + L)

/-- The 32-bit value of a selector in a lane (R229). -/
def Run.src32 (r : Run) (sel : BitVec 8) (L : Nat) : BitVec 32 :=
  let n := sel.toNat
  if n < 0x80 then r.group.vreg n L
  else if n < 0xA0 then r.group.sreg (n - 0x80)
  else if n < 0xA4 then r.path.latch (n - 0xA0) L
  else if n = 0xA5 then BitVec.ofNat 32 L
  else if n = 0xA6 then BitVec.ofNat 32 (r.gk % 16)
  else if n = 0xA7 then BitVec.ofNat 32 (r.wk % 8)
  else if n = 0xA8 then BitVec.ofNat 32 r.wg.stage
  else if n = 0xA9 then 1
  else 0

/-- A pair: the selector's value low, its neighbour's high; constants are zero-extended (R230). -/
def Run.srcPair (r : Run) (sel : BitVec 8) (L : Nat) : BitVec 64 :=
  if sel.toNat < 0xA4 then r.src32 (sel + 1) L ++ r.src32 sel L else (r.src32 sel L).setWidth 64

/-- SRC(X, L) at the width of type t (R242). -/
def Run.src (r : Run) (t : Nat) (sel : BitVec 8) (L : Nat) : BitVec 64 :=
  if tyIs64 t then r.srcPair sel L else (r.src32 sel L).setWidth 64

/-- vD or the pair vD:vD+1 of a lane, at the width of type t. -/
def Run.dval (r : Run) (t d L : Nat) : BitVec 64 :=
  if tyIs64 t then r.group.vreg (d + 1) L ++ r.group.vreg d L else (r.group.vreg d L).setWidth 64

/-- A selector is legal at a width (R229, R230). -/
def selOk (wide : Bool) (sel : BitVec 8) : Bool :=
  let n := sel.toNat
  decide (n ≤ 0xA9) &&
    (!wide || (if n < 0xA0 then n % 2 == 0 else if n < 0xA4 then n != 0xA3 else true))

/-- The lanes of ACTIVE that read a dead latch through a selector (R233). -/
def Run.dead (r : Run) (wide : Bool) (sel : BitVec 8) : BitVec 32 :=
  let n := sel.toNat
  if n < 0xA0 || 0xA4 ≤ n then 0
  else
    let l := CMap.get r.path.live (n - 0xA0)
    r.active &&& ~~~(if wide then l &&& CMap.get r.path.live (n - 0xA0 + 1) else l)

/-! ### Static legality (R226–R231, R240) -/

/-- Destination kinds (R227). -/
inductive DKind where
  | V | S | P | X | Z
deriving DecidableEq, Repr

/-- What an instruction's fields name: W, D and its kind, sources that are selectors (a, b), address pairs (ga, gb), v
register groups (va, vb), how many v registers D, A and B reach at most, and further conditions. -/
structure Shape where
  w  : BitVec 1 := 0
  dk : DKind := .Z
  d  : Nat := 0
  dn : Nat := 0
  a  : Option (BitVec 8) := none
  b  : Option (BitVec 8) := none
  ga : Option (BitVec 8) := none
  gb : Option (BitVec 8) := none
  va : Option (BitVec 8) := none
  vb : Option (BitVec 8) := none
  an : Nat := 2
  bn : Nat := 2
  extra : Bool := true
deriving DecidableEq, Repr

/-- System registers there are (R330). -/
def sysKnown (n : Nat) : Bool :=
  decide (n ≤ 0x00A) || (decide (0x010 ≤ n) && decide (n ≤ 0x017)) || (decide (0x020 ≤ n) && decide (n ≤ 0x027)) || n == 0x030

/-- System registers of 64 bits (R330). -/
def sysWide (n : Nat) : Bool := n == 0x005 || n == 0x006 || (decide (0x010 ≤ n) && decide (n ≤ 0x017))

/-- The operands of every instruction (R239, R277, R287, R306, R328); an event of the device names no register. -/
def Instr.shape : Sys2Proof.Instr → Shape
  | .nop => {}
  | .mode i => { extra := modeOk (i.setWidth 32) }
  | .mshape m _ => { extra := decide (m ≠ 3) }
  | .lit _ => {}
  | .lith _ => {}
  | .mov w d a => { w := w, dk := .V, d := d.toNat, dn := 2, a := some a }
  | .movs w d a => { w := w, dk := .S, d := d.toNat, dn := 0, a := some a }
  | .sel w d a b => { w := w, dk := .V, d := d.toNat, dn := 2, a := some a, b := some b }
  | .add w d a b => { w := w, dk := .V, d := d.toNat, dn := 2, a := some a, b := some b }
  | .sub w d a b => { w := w, dk := .V, d := d.toNat, dn := 2, a := some a, b := some b }
  | .mul w d a b => { w := w, dk := .V, d := d.toNat, dn := 2, a := some a, b := some b }
  | .mulh w d a b => { w := w, dk := .V, d := d.toNat, dn := 2, a := some a, b := some b }
  | .mad w d a b => { w := w, dk := .V, d := d.toNat, dn := 2, a := some a, b := some b }
  | .min w d a b => { w := w, dk := .V, d := d.toNat, dn := 2, a := some a, b := some b }
  | .max w d a b => { w := w, dk := .V, d := d.toNat, dn := 2, a := some a, b := some b }
  | .abs w d a => { w := w, dk := .V, d := d.toNat, dn := 2, a := some a }
  | .neg w d a => { w := w, dk := .V, d := d.toNat, dn := 2, a := some a }
  | .and w d a b => { w := w, dk := .V, d := d.toNat, dn := 2, a := some a, b := some b }
  | .or w d a b => { w := w, dk := .V, d := d.toNat, dn := 2, a := some a, b := some b }
  | .xor w d a b => { w := w, dk := .V, d := d.toNat, dn := 2, a := some a, b := some b }
  | .andn w d a b => { w := w, dk := .V, d := d.toNat, dn := 2, a := some a, b := some b }
  | .not w d a => { w := w, dk := .V, d := d.toNat, dn := 2, a := some a }
  | .shl w d a b => { w := w, dk := .V, d := d.toNat, dn := 2, a := some a, b := some b }
  | .shr w d a b => { w := w, dk := .V, d := d.toNat, dn := 2, a := some a, b := some b }
  | .sar w d a b => { w := w, dk := .V, d := d.toNat, dn := 2, a := some a, b := some b }
  | .rot w d a b => { w := w, dk := .V, d := d.toNat, dn := 2, a := some a, b := some b }
  | .clz w d a => { w := w, dk := .V, d := d.toNat, dn := 2, a := some a }
  | .ctz w d a => { w := w, dk := .V, d := d.toNat, dn := 2, a := some a }
  | .popc w d a => { w := w, dk := .V, d := d.toNat, dn := 2, a := some a }
  | .brev w d a => { w := w, dk := .V, d := d.toNat, dn := 2, a := some a }
  | .bswap w d a => { w := w, dk := .V, d := d.toNat, dn := 2, a := some a }
  | .bfx w d a b => { w := w, dk := .V, d := d.toNat, dn := 2, a := some a, b := some b }
  | .bfi w d a b => { w := w, dk := .V, d := d.toNat, dn := 2, a := some a, b := some b }
  | .lea1 w d a b => { w := w, dk := .V, d := d.toNat, dn := 2, a := some a, b := some b }
  | .lea2 w d a b => { w := w, dk := .V, d := d.toNat, dn := 2, a := some a, b := some b }
  | .lea3 w d a b => { w := w, dk := .V, d := d.toNat, dn := 2, a := some a, b := some b }
  | .lea4 w d a b => { w := w, dk := .V, d := d.toNat, dn := 2, a := some a, b := some b }
  | .absd w d a b => { w := w, dk := .V, d := d.toNat, dn := 2, a := some a, b := some b }
  | .avg w d a b => { w := w, dk := .V, d := d.toNat, dn := 2, a := some a, b := some b }
  | .dot4 w d a b => { w := w, dk := .V, d := d.toNat, dn := 2, a := some a, b := some b }
  | .dotq w d a b => { w := w, dk := .V, d := d.toNat, dn := 2, a := some a, b := some b }
  | .pack2 w d a b => { w := w, dk := .V, d := d.toNat, dn := 2, a := some a, b := some b }
  | .prmb w d a b => { w := w, dk := .V, d := d.toNat, dn := 2, a := some a, b := some b }
  | .ceq d a b => { dk := .P, d := d.toNat, dn := 0, a := some a, b := some b }
  | .cne d a b => { dk := .P, d := d.toNat, dn := 0, a := some a, b := some b }
  | .clt d a b => { dk := .P, d := d.toNat, dn := 0, a := some a, b := some b }
  | .cle d a b => { dk := .P, d := d.toNat, dn := 0, a := some a, b := some b }
  | .cgt d a b => { dk := .P, d := d.toNat, dn := 0, a := some a, b := some b }
  | .cge d a b => { dk := .P, d := d.toNat, dn := 0, a := some a, b := some b }
  | .cun d a b => { dk := .P, d := d.toNat, dn := 0, a := some a, b := some b }
  | .ctst d a b => { dk := .P, d := d.toNat, dn := 0, a := some a, b := some b }
  | .pand d _ _ _ _ => { dk := .P, d := d.toNat, dn := 0 }
  | .por d _ _ _ _ => { dk := .P, d := d.toNat, dn := 0 }
  | .pxor d _ _ _ _ => { dk := .P, d := d.toNat, dn := 0 }
  | .pnot d _ _ => { dk := .P, d := d.toNat, dn := 0 }
  | .pmov d _ _ => { dk := .P, d := d.toNat, dn := 0 }
  | .pget w d => { w := w, dk := .V, d := d.toNat, dn := 2 }
  | .fadd w d a b => { w := w, dk := .V, d := d.toNat, dn := 2, a := some a, b := some b }
  | .fsub w d a b => { w := w, dk := .V, d := d.toNat, dn := 2, a := some a, b := some b }
  | .fmul w d a b => { w := w, dk := .V, d := d.toNat, dn := 2, a := some a, b := some b }
  | .ffma w d a b => { w := w, dk := .V, d := d.toNat, dn := 2, a := some a, b := some b }
  | .ffms w d a b => { w := w, dk := .V, d := d.toNat, dn := 2, a := some a, b := some b }
  | .fnma w d a b => { w := w, dk := .V, d := d.toNat, dn := 2, a := some a, b := some b }
  | .fmin w d a b => { w := w, dk := .V, d := d.toNat, dn := 2, a := some a, b := some b }
  | .fmax w d a b => { w := w, dk := .V, d := d.toNat, dn := 2, a := some a, b := some b }
  | .fabs w d a => { w := w, dk := .V, d := d.toNat, dn := 2, a := some a }
  | .fneg w d a => { w := w, dk := .V, d := d.toNat, dn := 2, a := some a }
  | .frcp w d a => { w := w, dk := .V, d := d.toNat, dn := 2, a := some a }
  | .frsq w d a => { w := w, dk := .V, d := d.toNat, dn := 2, a := some a }
  | .fsqrt w d a => { w := w, dk := .V, d := d.toNat, dn := 2, a := some a }
  | .fdiv w d a b => { w := w, dk := .V, d := d.toNat, dn := 2, a := some a, b := some b }
  | .fexp2 w d a => { w := w, dk := .V, d := d.toNat, dn := 2, a := some a }
  | .flog2 w d a => { w := w, dk := .V, d := d.toNat, dn := 2, a := some a }
  | .fsinp w d a => { w := w, dk := .V, d := d.toNat, dn := 2, a := some a }
  | .fcosp w d a => { w := w, dk := .V, d := d.toNat, dn := 2, a := some a }
  | .fflr w d a => { w := w, dk := .V, d := d.toNat, dn := 2, a := some a }
  | .fceil w d a => { w := w, dk := .V, d := d.toNat, dn := 2, a := some a }
  | .frnd w d a => { w := w, dk := .V, d := d.toNat, dn := 2, a := some a }
  | .ffrc w d a => { w := w, dk := .V, d := d.toNat, dn := 2, a := some a }
  | .fcls w d a => { w := w, dk := .V, d := d.toNat, dn := 2, a := some a }
  | .fscl w d a b => { w := w, dk := .V, d := d.toNat, dn := 2, a := some a, b := some b }
  | .fgete w d a => { w := w, dk := .V, d := d.toNat, dn := 2, a := some a }
  | .fdot2 w d a b => { w := w, dk := .V, d := d.toNat, dn := 2, a := some a, b := some b }
  | .cvt w d a => { w := w, dk := .V, d := d.toNat, dn := 2, a := some a }
  | .cvpk w d a b => { w := w, dk := .V, d := d.toNat, dn := 2, a := some a, b := some b }
  | .cvlo w d a => { w := w, dk := .V, d := d.toNat, dn := 2, a := some a }
  | .cvhi w d a => { w := w, dk := .V, d := d.toNat, dn := 2, a := some a }
  | .shfli w d a b => { w := w, dk := .V, d := d.toNat, dn := 2, a := some a, b := some b }
  | .shflx w d a b => { w := w, dk := .V, d := d.toNat, dn := 2, a := some a, b := some b }
  | .shflb w d a b => { w := w, dk := .V, d := d.toNat, dn := 2, a := some a, b := some b }
  | .shflf w d a b => { w := w, dk := .V, d := d.toNat, dn := 2, a := some a, b := some b }
  | .ballot w d a => { w := w, dk := .S, d := d.toNat, dn := 0, a := some a }
  | .vany d a => { dk := .P, d := d.toNat, dn := 0, a := some a }
  | .vall d a => { dk := .P, d := d.toNat, dn := 0, a := some a }
  | .veq d a => { dk := .P, d := d.toNat, dn := 0, a := some a }
  | .scan w d a => { w := w, dk := .V, d := d.toNat, dn := 2, a := some a }
  | .scanx w d a => { w := w, dk := .V, d := d.toNat, dn := 2, a := some a }
  | .reda w d a => { w := w, dk := .S, d := d.toNat, dn := 0, a := some a }
  | .redmn w d a => { w := w, dk := .S, d := d.toNat, dn := 0, a := some a }
  | .redmx w d a => { w := w, dk := .S, d := d.toNat, dn := 0, a := some a }
  | .matchL w d a => { w := w, dk := .V, d := d.toNat, dn := 2, a := some a }
  | .actm w d => { w := w, dk := .S, d := d.toNat, dn := 0 }
  | .elect d => { dk := .P, d := d.toNat, dn := 0 }
  | .bra _ _ => {}
  | .call _ _ => {}
  | .calli a => { dn := 0, ga := some a }
  | .jmpi a => { dn := 0, ga := some a }
  | .ret => {}
  | .join o => { extra := decide (o.toInt ≤ 0) }
  | .exit => {}
  | .yield => {}
  | .waitc a b => { dn := 0, a := some a, b := some b }
  | .brk _ => {}
  | .loop _ _ => {}
  | .ldl w d a _ => { w := w, dk := .V, d := d.toNat, dn := 4, a := some a }
  | .stl d a _ => { dk := .X, d := d.toNat, dn := 2, a := some a }
  | .lds w d a _ => { w := w, dk := .V, d := d.toNat, dn := 4, a := some a }
  | .sts d a _ => { dk := .X, d := d.toNat, dn := 2, a := some a }
  | .ldc w d a _ => { w := w, dk := .V, d := d.toNat, dn := 4, a := some a }
  | .stc d a _ => { dk := .X, d := d.toNat, dn := 2, a := some a }
  | .ldk w d a _ => { w := w, dk := .V, d := d.toNat, dn := 4, a := some a }
  | .stk d a _ => { dk := .X, d := d.toNat, dn := 2, a := some a }
  | .ldg w d a _ => { w := w, dk := .V, d := d.toNat, dn := 4, ga := some a }
  | .stg d a _ => { dk := .X, d := d.toNat, dn := 2, ga := some a }
  | .ldgs w d a _ => { w := w, dk := .V, d := d.toNat, dn := 4, ga := some a }
  | .stgs d a _ => { dk := .X, d := d.toNat, dn := 2, ga := some a }
  | .ldsq w d a _ => { w := w, dk := .V, d := d.toNat, dn := 4, a := some a, extra := decide (d.toNat % 4 = 0) }
  | .stsq d a _ => { dk := .X, d := d.toNat, dn := 4, a := some a, extra := decide (d.toNat % 4 = 0) }
  | .ldgq w d a _ => { w := w, dk := .V, d := d.toNat, dn := 4, ga := some a, extra := decide (d.toNat % 4 = 0) }
  | .stgq d a _ => { dk := .X, d := d.toNat, dn := 4, ga := some a, extra := decide (d.toNat % 4 = 0) }
  | .ldga w d a _ => { w := w, dk := .V, d := d.toNat, dn := 4, ga := some a }
  | .stgr d a _ => { dk := .X, d := d.toNat, dn := 2, ga := some a }
  | .atsAdd w d a _ => { w := w, dk := .V, d := d.toNat, dn := 4, a := some a }
  | .atsMin w d a _ => { w := w, dk := .V, d := d.toNat, dn := 4, a := some a }
  | .atsMax w d a _ => { w := w, dk := .V, d := d.toNat, dn := 4, a := some a }
  | .atsAnd w d a _ => { w := w, dk := .V, d := d.toNat, dn := 4, a := some a }
  | .atsOr w d a _ => { w := w, dk := .V, d := d.toNat, dn := 4, a := some a }
  | .atsXor w d a _ => { w := w, dk := .V, d := d.toNat, dn := 4, a := some a }
  | .atsXch w d a _ => { w := w, dk := .V, d := d.toNat, dn := 4, a := some a }
  | .atsCas w d a _ => { w := w, dk := .V, d := d.toNat, dn := 4, a := some a }
  | .atgAdd w d a _ => { w := w, dk := .V, d := d.toNat, dn := 4, ga := some a }
  | .atgMin w d a _ => { w := w, dk := .V, d := d.toNat, dn := 4, ga := some a }
  | .atgMax w d a _ => { w := w, dk := .V, d := d.toNat, dn := 4, ga := some a }
  | .atgAnd w d a _ => { w := w, dk := .V, d := d.toNat, dn := 4, ga := some a }
  | .atgOr w d a _ => { w := w, dk := .V, d := d.toNat, dn := 4, ga := some a }
  | .atgXor w d a _ => { w := w, dk := .V, d := d.toNat, dn := 4, ga := some a }
  | .atgXch w d a _ => { w := w, dk := .V, d := d.toNat, dn := 4, ga := some a }
  | .atgCas w d a _ => { w := w, dk := .V, d := d.toNat, dn := 4, ga := some a }
  | .atcAdd w d a _ => { w := w, dk := .V, d := d.toNat, dn := 4, a := some a }
  | .atcCas w d a _ => { w := w, dk := .V, d := d.toNat, dn := 4, a := some a }
  | .atgsAdd w d a _ => { w := w, dk := .V, d := d.toNat, dn := 4, ga := some a }
  | .atgsCas w d a _ => { w := w, dk := .V, d := d.toNat, dn := 4, ga := some a }
  | .reds d a _ => { dk := .X, d := d.toNat, dn := 2, a := some a }
  | .redg d a _ => { dk := .X, d := d.toNat, dn := 2, ga := some a }
  | .fence k _ s => { extra := decide (k ≠ 3 ∧ s.toNat ≤ 4) }
  | .gath w d a _ => { w := w, dk := .V, d := d.toNat, dn := 4, ga := some a }
  | .scat d a _ => { dk := .X, d := d.toNat, dn := 2, ga := some a }
  | .stgc d a _ => { dk := .X, d := d.toNat, dn := 2, ga := some a }
  | .ldge w d a _ => { w := w, dk := .V, d := d.toNat, dn := 4, ga := some a }
  | .pfg a _ => { dn := 0, ga := some a }
  | .cstep a => { dn := 0, a := some a }
  | .cstat w d => { w := w, dk := .S, d := d.toNat, dn := 0, extra := decide (d.toNat % 2 = 0) }
  | .binit a b => { dn := 0, a := some a, b := some b }
  | .barv a _ => { dn := 0, a := some a }
  | .bexp a b => { dn := 0, a := some a, b := some b }
  | .bwait a b => { dn := 0, a := some a, b := some b }
  | .btest d a b => { dk := .P, d := d.toNat, dn := 0, a := some a, b := some b }
  | .binv a _ => { dn := 0, a := some a }
  | .rrot a b => { dn := 0, extra := decide (0x80 ≤ a.toNat ∧ a.toNat < 0xA0 ∧ a.toNat % 2 = 0), b := some b }
  | .sppin a b => { dn := 0, a := some a, b := some b }
  | .sprel a b => { dn := 0, a := some a, b := some b }
  | .spawn a b => { dn := 0, ga := some a, b := some b }
  | .tdep a b => { dn := 0, ga := some a, b := some b }
  | .tsig a => { dn := 0, ga := some a }
  | .post a k _ => { a := if k = 1 then some a else none, ga := if k = 1 then none else some a }
  | .seal a k => { a := if k = 1 then some a else none, ga := if k = 1 then none else some a }
  | .pmrk w d a k => { w := w, dk := .S, d := d.toNat, a := if k = 1 then some a else none, ga := if k = 1 then none else some a, extra := decide (d.toNat % 2 = 0) }
  | .subs a b => { dn := 0, ga := some a, gb := some b }
  | .settle a _ => { dn := 0, a := some a }
  | .lque a => { dn := 0, ga := some a }
  | .lmma d a b => { dk := .X, d := d.toNat, dn := 32, va := some a, vb := some b, an := 8, bn := 32 }
  | .aalloc a => { dn := 0, a := some a }
  | .afree => {}
  | .adrn w d a b => { w := w, dk := .S, d := d.toNat, dn := 0, ga := some a, b := some b }
  | .afil a b => { dn := 0, ga := some a, b := some b }
  | .trace w d a b => { w := w, dk := .V, d := d.toNat, dn := 4, va := some a, an := 10, b := some b, extra := decide (d.toNat % 4 = 0 ∧ a.toNat % 2 = 0 ∧ a.toNat ≤ 118) }
  | .psend a b => { va := some a, an := 16, b := some b, extra := decide (a.toNat % 16 = 0) }
  | .comp w d a b => { w := w, dk := .S, d := d.toNat, ga := some a, b := some b, extra := decide (w = 1 ∨ d.toNat % 2 = 0) }
  | .trap _ => {}
  | .rte => {}
  | .srd w d s => { w := w, dk := .S, d := d.toNat, extra := sysKnown s.toNat && (!sysWide s.toNat || d.toNat % 2 == 0) }
  | .swr d s => { dk := .S, d := d.toNat, extra := sysKnown s.toNat && (!sysWide s.toNat || d.toNat % 2 == 0) }
  | .mapack a => { dn := 0, a := some a }
  | .icinv => {}
  | .cyc w d => { w := w, dk := .S, d := d.toNat, dn := 0, extra := decide (d.toNat % 2 = 0) }
  | .pause a => { dn := 0, a := some a }
  | .pauseExpiry .. | .loadReturn .. | .fenceComplete .. | .mapackAnswer .. | .powerOn .. | .clusterWake ..
  | .loomRampStage .. | .fwcmd .. | .fwVerifyDone .. | .attcmd .. | .attestReportDone .. | .laneSpare ..
  | .coreDrain .. | .coreRetire .. | .channelSpare .. | .channelCopyDone .. | .linkLaneFailure .. | .linkRetrainDone ..
  | .l2Way .. | .portDown .. | .islandRetire .. | .mapchgDelivery .. | .deferredFaultDelivery .. | .graceExpiry ..
  | .hostack .. | .timeoutUnknown .. | .remoteResponse .. | .orderedFlagRelease .. | .flitReceive .. | .flitNak ..
  | .keyLoad .. | .keySwitch .. | .frankingAck .. | .uudPacketDrop .. | .compositingPassStart .. | .compositingTileArrival ..
  | .peerTimeout .. | .reductionExchange .. | .collectiveSetup .. | .collectiveSetupDone .. | .collectiveTeardown .. | .collectiveTeardownDone ..
  | .parcelArrival .. | .receiveSlotGrant .. | .preg .. | .pregWithdrawDone .. | .borrowGatherResponse .. | .borrowGatherTimeout ..
  | .postmarkNotice .. | .noticeAck .. | .noticeTimeout .. | .tail .. | .launchRecordFetch .. | .kill ..
  | .launchComplete .. | .gangPlace .. | .gangPreempt .. | .gangMigrate .. | .gangResume .. | .sysreply ..
  | .systail .. | .resclr .. | .swapOut .. | .swapIn .. | .swapDone .. | .halt ..
  | .resume .. | .read .. | .write .. | .force .. | .step .. | .partitionEn ..
  | .vfEnableChange .. | .phmask .. | .invalidatePage .. | .invalidateAll .. | .invalidationDone .. | .sealgrp ..
  | .pigeonholeTail .. | .apertureHostWrite .. | .registerWrite .. | .sideLogRetry .. | .courierRetry .. | .docketSlotRetry ..
  | .docketAccept .. | .docketIssue .. | .runComplete .. | .pagerTransferDone .. | .courierInstanceDone .. | .mma ..
  | .mmaz .. | .drain .. | .endList .. | .loomRingPhase .. | .sduDone .. | .traceDone ..
  | .scoreHalving .. | .borrowGatherRequest .. | .retrainingDone .. | .portDisable .. | .grantRevocation .. => {}

/-- A G address or jump target names an even v or s register (R231, R277). -/
def pairSelOk (sel : BitVec 8) : Bool := decide (sel.toNat < 0xA0) && sel.toNat % 2 == 0

/-- A selector that names a v register. -/
def vSelOk (sel : BitVec 8) : Bool := decide (sel.toNat < 0x80)

/-- The static conditions on W, D and the selectors (R227–R231). -/
def Shape.ok (h : Shape) : Bool :=
  (h.w == 0 || (h.d == 0 && h.dk != .X && h.dk != .Z && h.dk != .P)) &&
  (h.dk != .S || decide (h.d < 32)) && (h.dk != .P || h.d != 0) &&
  (h.a.all (selOk false)) && (h.b.all (selOk false)) && (h.ga.all pairSelOk) && (h.gb.all pairSelOk) &&
  (h.va.all vSelOk) && (h.vb.all vSelOk) && h.extra

/-- No field of the instruction makes it ILLEGAL whatever gm holds. -/
def Instr.staticOk (i : Sys2Proof.Instr) : Bool := (Instr.shape i).ok

/-! ### Load targets (R140, R288) -/

/-- Whether v register n lies among those an instruction names. -/
def Shape.names (h : Shape) (n : Nat) : Bool :=
  let inSel (o : Option (BitVec 8)) (k : Nat) := o.any fun x => decide (x.toNat < 0x80 ∧ x.toNat ≤ n ∧ n < x.toNat + k)
  ((h.dk == .V || h.dk == .X) && decide (h.d ≤ n ∧ n < h.d + h.dn)) ||
    inSel h.a h.an || inSel h.b h.bn || inSel h.ga 2 || inSel h.gb 2 || inSel h.va h.an || inSel h.vb h.bn

/-- Whether an instruction reads or writes p7 by name. -/
def Instr.namesP7 : Sys2Proof.Instr → Bool
  | .pand d _ a _ b | .por d _ a _ b | .pxor d _ a _ b => d == 7 || a == 7 || b == 7
  | .pnot d _ a | .pmov d _ a => d == 7 || a == 7
  | .pget .. => true
  | .bra c _ | .call c _ => c.toNat % 8 == 7
  | i => (Instr.shape i).dk == .P && (Instr.shape i).d == 7

/-- Whether an instruction reads or writes LSTAT by name. -/
def Instr.namesLstat : Sys2Proof.Instr → Bool
  | .srd _ _ n | .swr _ n => n == 3
  | _ => false

/-- Whether the path's next instruction must wait for a load in flight: it names one of its targets, or p7 or LSTAT (log
32) while a status variant is outstanding, or its guard is p7. -/
def Path.interlocked (p : Path) (i : Sys2Proof.Instr) : Bool :=
  p.loads.any fun l =>
    (l.wr && l.lanes.any fun x => (List.range x.nreg).any fun k => (Instr.shape i).names (x.reg + k)) ||
    (l.status && (bf p.gm 15 3 == 7 || Instr.namesP7 i || Instr.namesLstat i))

end Sys2Proof.Machine
end

