-- ==== Sys2Proof/Machine/Docket.lean ====
section
/-! DEFINITION. Notifications (spec/04_host_interface.md R85), tile headers, subscriptions, settling and docket records
(spec/08_task_sorter_and_postmarks.md R148–R161): the updates that instructions, engines and the host share. -/

namespace Sys2Proof.Machine

/-- A field of a record set: bits [lo+len−1:lo]. -/
def setF {n : Nat} (x : BitVec n) (lo len v : Nat) : BitVec n :=
  BitVec.ofNat n (x.toNat - bf x lo len * 2 ^ lo + v % 2 ^ len * 2 ^ lo)

/-- A saturating 32-bit counter advanced by one (R47, R71). -/
def satInc (x : BitVec 32) : BitVec 32 := if x = 0xFFFFFFFF then x else x + 1

/-- A ring with its device and software indices is full (R85: free-running counts modulo the size). -/
def ringFull (head tail : BitVec 32) (log : Nat) : Bool := decide (2 ^ log ≤ (head - tail).toNat)

/-- Post a notification in a function's ring (R85): a 16-byte entry, MSI-X vector 0; on a full ring, or with no ring
set up, it is counted as lost. -/
def State.notify (s : State) (fn kind code ctx : Nat) (detail : BitVec 32) : State :=
  let f := s.fn fn
  if f.log < 4 || ringFull f.head f.tail f.log then s.putFn fn { f with lost := f.lost + 1 }
  else
    let a := f.base.toNat % 2 ^ 63 + 16 * (f.head.toNat % 2 ^ f.log)
    let bs := leBytes (kind + code * 2 ^ 8 + ctx * 2 ^ 16 + detail.toNat * 2 ^ 32) 16
    let s1 := if f.base.msb then (if s.hostErr then s else { s with hostMem := Memory.writeBytes s.hostMem a bs })
              else { s with mem := Memory.writeBytes s.mem a bs }
    s1.putFn fn { f with head := f.head + 1, msix := f.msix + 1 }

/-! ### Pigeonholes and dockets (R148–R153) -/

/-- Key of a docket: pigeonhole and free-running index. -/
def docketKey (hole : Nat) (idx : BitVec 32) : Nat := hole * 2 ^ 32 + idx.toNat

/-- The partition that owns pigeonhole 64d + h, if any (R148). -/
def State.holeOwner (s : State) (h : Nat) : Option Nat :=
  (List.range 9).find? fun n => (CMap.get (s.part n).phmask (h / 64)).getLsbD (h % 64)

/-- The address of slot i of a pigeonhole (R149). -/
def slotAddr (h : Hole) (i : BitVec 32) : BitVec 64 := h.base + BitVec.ofNat 64 (64 * (i.toNat % 2 ^ h.log))

/-- Write bytes of an accepted docket's slot. -/
def State.writeSlot (s : State) (d : Docket) (off : Nat) (bs : List Byte) : State :=
  (s.wroteAddr d.part d.ctx (d.addr + BitVec.ofNat 64 off) bs).2

/-- Record a docket with its STATE, CODE, SEEN and RUNS in the slot (R150). -/
def State.putDocket (s : State) (k : Nat) (d : Docket) : State :=
  let s1 := { s with dockets := FMap.set s.dockets k d }
  let s2 := s1.writeSlot d 1 (leBytes d.state 1 ++ leBytes d.code 1)
  s2.writeSlot d 0x28 (leBytes d.seen.toNat 4 ++ leBytes d.runs.toNat 4)

/-- DEP of an accepted docket, read afresh. -/
def State.docketDep (s : State) (d : Docket) : BitVec 32 :=
  match s.readAddr d.part d.ctx (d.addr + 4) 4 with
  | (some bs, _) => BitVec.ofNat 32 (leNat bs)
  | (none, _) => 1

/-- HEAD passes consecutive slots whose dockets are DONE or ABANDONED; those slots are free (R149). -/
def State.advanceHead (s : State) (hole : Nat) : Nat → State
  | 0 => s
  | fuel + 1 =>
    let h := s.hole hole
    if h.head = h.acc then s
    else
      match FMap.get? s.dockets (docketKey hole h.head) with
      | some d =>
        if d.state = 5 || d.state = 6 then
          State.advanceHead ({ s with dockets := FMap.erase s.dockets (docketKey hole h.head) }.putHole hole
            { h with head := h.head + 1 }) hole fuel
        else s
      | none => s

/-- The accepted docket of a partition whose slot lies at an address of a context, whichever context its pigeonhole is of (R153,
R320). -/
def State.docketAt (s : State) (part ctx : Nat) (va : BitVec 64) : Option (Nat × Docket) :=
  s.dockets.find? fun x => s.samePlace part ctx va x.2.part x.2.ctx x.2.addr

/-! ### Tile headers (R156) -/

/-- Where a header lies: global memory of a context, or a launch's chip scratchpad. -/
inductive HLoc where
  | g (part ctx : Nat) (va : BitVec 64)
  | k (launch : Nat) (off : Nat)
deriving DecidableEq, Repr

def hPost (h : BitVec 512) : BitVec 32 := BitVec.ofNat 32 (bf h 0 32)
def hSealed (h : BitVec 512) : Bool := h.getLsbD 32
def hSettled (h : BitVec 512) : Bool := h.getLsbD 34
def hSubn (h : BitVec 512) : Nat := bf h 48 16
def hSlot (h : BitVec 512) (p : BitVec 32) : BitVec 64 :=
  BitVec.ofNat 64 (bf h (if p.toNat % 2 = 0 then 64 else 128) 64)
def hSublist (h : BitVec 512) : BitVec 64 := BitVec.ofNat 64 (bf h 192 64)
def hSgrp (h : BitVec 512) : Nat := bf h 256 16
def hSubcap (h : BitVec 512) : Nat := bf h 272 16
/-- The reader count of the slot of postmark p. -/
def hReaders (h : BitVec 512) (p : BitVec 32) : Nat := bf h (if p.toNat % 2 = 0 then 288 else 304) 16
def hAddReader (h : BitVec 512) (p : BitVec 32) (up : Bool) : BitVec 512 :=
  if p = 0 then h
  else setF h (if p.toNat % 2 = 0 then 288 else 304) 16 (if up then hReaders h p + 1 else hReaders h p - 1)

/-- Read a header. -/
def State.readHdr (s : State) : HLoc → Option (BitVec 512)
  | .g part ctx va => (s.readVA part ctx 2 va.toNat 64).1.map fun bs => BitVec.ofNat 512 (leNat bs)
  | .k l off =>
    (FMap.get? s.launches l).map fun la => BitVec.ofNat 512 (Memory.read la.chip off 64)

/-- Write a header: one indivisible update (R157), which a tagged word in it refuses (R169). -/
def State.writeHdr (s : State) (loc : HLoc) (h : BitVec 512) : Option State :=
  match loc with
  | .g part ctx va =>
    match s.physOf part ctx va.toNat .rmw with
    | (none, _) => none
    | (some pa, s1) => some { s1 with mem := Memory.write s1.mem pa 64 h.toNat }
  | .k l off =>
    match FMap.get? s.launches l with
    | none => none
    | some la =>
      if tagged la.ktags off 64 then none
      else some { s with launches := FMap.set s.launches l { la with chip := Memory.write la.chip off 64 h.toNat } }

/-- The state after the walks of reading a header and its subscriber list (R110). -/
def State.walkHdr (s : State) : HLoc → State
  | .k _ _ => s
  | .g part ctx va =>
    let s1 := s.walkVA part ctx .rd 2 va.toNat 64
    match s1.readHdr (.g part ctx va) with
    | none => s1
    | some h => s1.walkVA part ctx .rd 10 (hSublist h).toNat (8 * hSubcap h)

/-- The place of the header that a docket subscribes to. -/
def Docket.hdr (d : Docket) : HLoc := .g d.part d.subctx d.subhdr

/-- The dockets in a header's subscriber list, in list order (R156, R158); an entry holds its docket's address whole, a host address too
(log 94). -/
def State.subscribers (s : State) (loc : HLoc) (h : BitVec 512) : List Nat :=
  match loc with
  | .k _ _ => []
  | .g part ctx _ =>
    (List.range (hSubcap h)).filterMap fun i =>
      match s.readVA part ctx 2 ((hSublist h).toNat + 8 * i) 8 with
      | (some bs, _) =>
        let e := leNat bs
        if e % 2 = 1 then (s.docketAt part ctx (BitVec.ofNat 64 (e / 64 * 64))).map (·.1) else none
      | (none, _) => none

/-- Whether a fire is owed to a subscription (R158): the postmark differs from the latest run's, or the header is
sealed and no run on the final postmark has completed since (log 18). -/
def fireOwed (d : Docket) (h : BitVec 512) : Bool :=
  d.last.getD 0 != hPost h || (hSealed h && !d.lastFinal)

/-- Apply a header event to one subscriber (R158): IDLE to READY; a preempt-mode wave or Loom run is told to stop. -/
def State.fireOne (s : State) (h : BitVec 512) (k : Nat) : State :=
  match FMap.get? s.dockets k with
  | none => s
  | some d =>
    if !fireOwed d h then s
    else if d.state = 4 then s.putDocket k { d with state := 2 }
    else if d.state = 3 && d.pre && (d.kind = 0 || d.kind = 1 || d.kind = 4) && d.last.getD 0 != hPost h then
      s.putDocket k { d with stopping := true }
    else s

/-- Apply a header event to every subscriber, in list order. -/
def State.fire (s : State) (loc : HLoc) (h : BitVec 512) : State :=
  ((s.walkHdr loc).subscribers loc h).foldl (fun s k => s.fireOne h k) (s.walkHdr loc)

/-- The context a header belongs to. -/
def State.hdrCtx (s : State) : HLoc → Nat × Nat
  | .g part ctx _ => (part, ctx)
  | .k l _ => match FMap.get? s.launches l with
    | some la => (la.part, la.ctx)
    | none => (0, 0)

/-- Decrement UNSETTLED of a settle group below SGN (R159). -/
def State.decUnsettled (s : State) (part ctx g : Nat) : State :=
  let c := s.ctx part ctx
  if g = 0xFFFF || c.sgn ≤ g then s
  else
    let a := c.sgbase + BitVec.ofNat 64 (16 * g)
    match s.readAddr part ctx a 4 with
    | (some bs, s1) => (s1.wroteAddr part ctx a (leBytes (leNat bs + 2 ^ 32 - 1) 4)).2
    | (none, s1) => s1

/-- Whether a subscriber lets its tile settle (R159). -/
def State.subSettled (s : State) (k : Nat) : Bool :=
  match FMap.get? s.dockets k with
  | none => true
  | some d =>
    d.state = 6 || (d.lastFinal &&
      (d.outhdr = 0 || (match s.readHdr (.g d.part d.ctx d.outhdr) with
        | some h => hSettled h
        | none => false)))

/-- Whether a tile still waits for the OUTHDR of a docket that is DONE (R159). -/
def State.owes (s : State) (loc : HLoc) : Bool :=
  s.owing.any fun o => (match loc with
    | .g part ctx va => s.samePlace part ctx va o.part o.ctx o.tile
    | .k _ _ => false) && (match s.readHdr (.g o.part o.octx o.out) with
    | some h => !hSettled h
    | none => true)

/-- Settle a tile if its last condition holds, then the tiles that waited on it through OUTHDR (R159). The chain of
OUTHDRs is followed as far as there are dockets. -/
def State.trySettle (s : State) (loc : HLoc) : Nat → State
  | 0 => s
  | fuel + 1 =>
    let s := s.walkHdr loc
    match s.readHdr loc with
    | none => s
    | some h =>
      if !hSealed h || hSettled h || !(s.subscribers loc h).all s.subSettled || s.owes loc then s
      else
        match s.writeHdr loc (setF h 34 1 1) with
        | none => s
        | some s1 =>
          let c := s1.hdrCtx loc
          let s2 := s1.decUnsettled c.1 c.2 (hSgrp h)
          match loc with
          | .k _ _ => s2
          | .g part ctx va =>
            let mine (o : Owing) : Bool := s2.samePlace part ctx va o.part o.octx o.out
            let s3 := { s2 with owing := s2.owing.filter fun o => !mine o }
            let subs := (s2.dockets.filter fun x => x.2.subv && s2.samePlace part ctx va x.2.part x.2.ctx x.2.outhdr).map
              fun x => (x.2.subctx, x.2.subhdr)
            (subs ++ (s2.owing.filter mine).map fun o => (o.ctx, o.tile)).foldl (fun s t => State.trySettle s (.g part t.1 t.2) fuel) s3

def State.settle (s : State) (loc : HLoc) : State := s.trySettle loc (s.dockets.length + s.owing.length + 1)

/-- SEAL of a header (R157, R158): none when it cannot be updated, sealed already or not (R161). -/
def State.sealHdr (s : State) (loc : HLoc) : Option State :=
  match s.readHdr loc with
  | none => none
  | some h =>
    match s.writeHdr loc (setF h 32 1 1) with
    | none => none
    | some s1 => some (if hSealed h then s1 else (s1.fire loc (setF h 32 1 1)).settle loc)

/-- Key of a header in the tables of the lender (R70). -/
def lendKey (part ctx : Nat) (va : BitVec 64) : Nat := 2 ^ 64 * (64 * part + ctx) + va.toNat

/-- Whether a key names the header at an address of a context, through whichever alias. -/
def State.lentAs (s : State) (part ctx : Nat) (va : BitVec 64) (key : Nat) : Bool :=
  s.samePlace part ctx va (key / 2 ^ 70) (key / 2 ^ 64 % 64) (BitVec.ofNat 64 key)

/-- What a POST meets (R157). -/
inductive PostOut where
  | ok (s : State)
  | sealed
  | limit
  | lost
deriving DecidableEq, Repr

/-- POST of a header (R157): the checks, the increment with the flip of CUR, the fires; a notice to each recorded
borrower (R70). -/
def State.postHdr (s : State) (loc : HLoc) : PostOut :=
  match s.readHdr loc with
  | none => .lost
  | some h =>
    if hSealed h then .sealed
    else if hPost h = 0x80000000 then .limit
    else
      let p := hPost h + 1
      let h' := setF (setF h 0 32 p.toNat) 33 1 (p.toNat % 2)
      match s.writeHdr loc h' with
      | none => .lost
      | some s1 =>
        let s2 := s1.fire loc h'
        match loc with
        | .k _ _ => .ok s2
        | .g part ctx va =>
          let lent := s2.selv.lender.filter fun x => s2.lentAs part ctx va x.1
          .ok { s2 with
            selv := { s2.selv with notices := s2.selv.notices ++ lent }
            netOut := s2.netOut ++ lent.map fun (x : Nat × Nat) => (⟨x.2, 8, [x.1 % 2 ^ 64, p.toNat], []⟩ : NetMsg) }

/-- Whether a header has notices that are not acknowledged (R70). -/
def State.noticed (s : State) : HLoc → Bool
  | .k _ _ => false
  | .g part ctx va => s.selv.notices.any fun x => s.lentAs part ctx va x.1

/-- Take a docket out of its header's list when it becomes DONE or ABANDONED (R152): the entry stops being valid. -/
def State.unsubscribe (s : State) (d : Docket) : State :=
  if !d.subv then s
  else
    match s.readHdr d.hdr with
    | none => s
    | some h =>
      let s1 := (List.range (hSubcap h)).foldl (fun s i =>
        let a := (hSublist h).toNat + 8 * i
        match s.readVA d.part d.subctx 2 a 8 with
        | (some bs, s') =>
          if leNat bs % 2 = 1 && s'.samePlace d.part d.subctx (BitVec.ofNat 64 (leNat bs / 64 * 64)) d.part d.ctx d.addr then
            (s'.wroteVA d.part d.subctx 2 a (leBytes (leNat bs - 1) 8)).2
          else s'
        | (none, s') => s') s
      (s1.writeHdr d.hdr (setF h 48 16 (hSubn h - 1))).getD s1

/-- Enter a docket, by the address of its slot in the header's context, in a header's list; none when it is full or unreadable (R152,
R320). -/
def State.subscribe (s : State) (part ctx : Nat) (slot va : BitVec 64) : Option State :=
  let loc := HLoc.g part ctx va
  match s.readHdr loc with
  | none => none
  | some h =>
    let freeAt := (List.range (hSubcap h)).find? fun i =>
      match s.readVA part ctx 2 ((hSublist h).toNat + 8 * i) 8 with
      | (some bs, _) => leNat bs % 2 == 0
      | (none, _) => false
    match freeAt with
    | none => none
    | some i =>
      match s.writeVA part ctx 2 ((hSublist h).toNat + 8 * i) (leBytes (slot.toNat + 1) 8) with
      | none => none
      | some s1 => s1.writeHdr loc (setF h 48 16 (hSubn h + 1))

/-- The parcel slot of a docket returns to its sender with its credit (R67). -/
def State.returnParcel (s : State) (d : Docket) : State :=
  match d.parcel with
  | none => s
  | some (sender, slot) =>
    let c := s.ctx d.part d.ctx
    let s1 := match c.reg with
      | some g => s.putCtx d.part d.ctx { c with reg := some { g with busy := g.busy.filter (· != slot) } }
      | none => s
    { s1 with netOut := s1.netOut ++ [⟨sender, 10, [1], []⟩] }

/-- The run of a docket ends without completing: its slot's reader count goes down (R156, log 18). -/
def State.dropReader (s : State) (d : Docket) : State :=
  if !d.subv then s
  else
    match s.readHdr d.hdr with
    | some h => (s.writeHdr d.hdr (hAddReader h (d.last.getD 0) false)).getD s
    | none => s

/-- A docket that becomes DONE while its OUTHDR is not settled is still waited for by its tile (R159). -/
def State.addOwing (s0 : State) (d : Docket) (state : Nat) : State :=
  let s := if d.outhdr = 0 then s0 else s0.walkHdr (.g d.part d.ctx d.outhdr)
  if state = 5 && d.subv && d.outhdr ≠ 0 && (match s.readHdr (.g d.part d.ctx d.outhdr) with
    | some h => !hSettled h
    | none => true) then { s with owing := s.owing ++ [⟨d.part, d.subctx, d.subhdr, d.ctx, d.outhdr⟩] }
  else s

/-- The compositing job of a docket, if there is one, ends without a trace (log 86). -/
def State.dropJob (s : State) (k : Nat) : State := { s with selv := { s.selv with jobs := FMap.erase s.selv.jobs k } }

/-- A docket becomes ABANDONED with a code, or DONE (R151): a run in progress is given up, a compositing job with it, the docket leaves
its header's list, its parcel slot returns, and HEAD moves on. -/
def State.finishDocket (s : State) (k : Nat) (state code : Nat) : State :=
  match FMap.get? s.dockets k with
  | none => s
  | some d =>
    if d.state = 5 || d.state = 6 then s
    else
      let s0 := (if state = 6 && d.state = 3 then s.dropReader d else s).dropJob k
      let s1 := (s0.putDocket k { d with state := state, code := code, stopping := false }).returnParcel d
      let s2 := if d.subv then ((s1.addOwing d state).unsubscribe d).settle d.hdr else s1
      State.advanceHead s2 d.hole (s2.dockets.length + 1)

/-- One from DEP as a target or TSIG does, or a signed addend (R153): the memory word and, while PENDING, readiness. -/
def State.depChanged (s : State) (part ctx : Nat) (va : BitVec 64) : State :=
  match s.docketAt part ctx va with
  | none => s
  | some (k, d) =>
    if d.state = 1 && s.docketDep d = 0 then
      let owed := !d.subv || (match s.readHdr d.hdr with
        | some h => fireOwed d h
        | none => false)
      s.putDocket k { d with state := if owed then 2 else 4 }
    else s

/-- A docket target (R165, R174, R63): DEP minus 1, one DEV-scope release. -/
def State.decDep (s : State) (part ctx : Nat) (va : BitVec 64) : State :=
  match s.readVA part ctx 2 (va.toNat + 4) 4 with
  | (some bs, s1) =>
    match s1.wroteVA part ctx 2 (va.toNat + 4) (leBytes (leNat bs + 2 ^ 32 - 1) 4) with
    | (true, s2) => s2.depChanged part ctx va
    | (false, s2) => s2
  | (none, s1) => s1

/-! ### Transaction barriers (R168, R169, R310) -/

def bPend (w : BitVec 64) : Nat := bf w 0 28
def bArr (w : BitVec 64) : Nat := bf w 28 14
def bExp (w : BitVec 64) : Nat := bf w 42 14
def bPhase (w : BitVec 64) : Nat := bf w 56 7

def bWord (pend arr ex phase : Nat) : BitVec 64 :=
  BitVec.ofNat 64 (pend % 2 ^ 28 + arr % 2 ^ 14 * 2 ^ 28 + ex % 2 ^ 14 * 2 ^ 42 + phase % 2 ^ 7 * 2 ^ 56)

/-- COMPLETE-TEST (R310): both countdowns zero reload ARR and advance PHASE. -/
def bComplete (w : BitVec 64) : BitVec 64 :=
  if bPend w = 0 && bArr w = 0 then bWord 0 (bExp w) (bExp w) (bPhase w + 1) else w

/-- One arrival. -/
def bArrive (w : BitVec 64) : BitVec 64 := bComplete (bWord (bPend w) (bArr w + 2 ^ 14 - 1) (bExp w) (bPhase w))
/-- Bytes announced (BEXP) or landed (Courier: 2^28 − n). -/
def bBytes (w : BitVec 64) (n : Nat) : BitVec 64 := bComplete (bWord (bPend w + n) (bArr w) (bExp w) (bPhase w))
/-- The wrap-aware phase test of R171 and R311. -/
def bReached (w : BitVec 64) (t : Nat) : Bool := decide ((bPhase w + 128 - t % 128) % 128 < 64)

end Sys2Proof.Machine
end

