-- ==== Sys2Proof/Machine/Flags.lean ====
section
/-! DEFINITION. Bypass latches (spec/13_formats_and_opcode_map.md R232–R234), AFLAGS (spec/06_number_formats.md R123),
and how an instruction of the integer, float, convert, lane and system classes writes its result (R228, R241, R242). -/

namespace Sys2Proof.Machine

abbrev Out := Host.Outcome State Fault Refusal

/-- One shift of the latches: fw0 takes the result in ACTIVE lanes and dies elsewhere (R232). -/
def Path.shift1 (p : Path) (act : BitVec 32) (res : Nat → BitVec 32) : Path :=
  { p with
    fw := CMap.setMany p.fw ((lanesOf p.mask).flatMap fun L =>
      [(96 + L, p.latch 2 L), (64 + L, p.latch 1 L), (32 + L, p.latch 0 L),
       (L, if act.getLsbD L then res L else 0)])
    live := CMap.setMany p.live
      [(3, CMap.get p.live 2), (2, CMap.get p.live 1), (1, CMap.get p.live 0), (0, act)] }

/-- The shift of a result: a 64-bit one shifts twice, low half last (R232). -/
def Path.shiftRes (p : Path) (wide : Bool) (act : BitVec 32) (res : Nat → BitVec 64) : Path :=
  if wide then
    (p.shift1 act fun L => (res L).extractLsb' 32 32).shift1 act fun L => (res L).setWidth 32
  else p.shift1 act fun L => (res L).setWidth 32

/-- The path past a 4-byte instruction that is no switch point. -/
def Path.past (p : Path) : Path := { p with pc := p.pc + 4, wait := .ready }

/-- The path past a switch point: every latch dead (R233), the context's apertures seen, or those the path's waiting
instruction was to see (R104). -/
def Path.pastSwitch (p : Path) (ap : CMap 64) (at_ : BitVec 64) : Path :=
  { p with pc := at_, live := [], aper := p.held.getD ap, held := none, wait := .ready, mid := false }

/-- Whether a path waits inside an instruction it has executed, whose next switch point is a later instruction (R104,
R140, R192). -/
def Path.executing (p : Path) : Bool :=
  p.stop == 0x21 ||
  match p.wait with
  | .ready | .retry => false
  | _ => true

/-- A host's write of an aperture is met by a path that waits inside an instruction: that one's completion is no switch
point after the write (R104). -/
def Path.holdAper (p : Path) (ap : CMap 64) : Path :=
  if p.executing then { p with held := some (p.held.getD ap) } else p

/-- A path stopped during a PAUSE drops the rest of the wait (R338). -/
def Path.unpaused (p : Path) (ap : CMap 64) : Path :=
  match p.wait with
  | .pause _ => p.pastSwitch ap (p.pc + 4)
  | _ => p

/-- Raise flags (R123). -/
def Group.raise (g : Group) (f : Flags) : Group := { g with aflags := g.aflags ||| f.setWidth 32 }

/-- v writes of a result in the lanes of a table. -/
def Group.writeV (g : Group) (d : Nat) (wide : Bool) (tab : List (Nat × BitVec 64)) : Group :=
  { g with
    v := CMap.setMany g.v (tab.flatMap fun x =>
      if wide then [(32 * d + x.1, x.2.setWidth 32), (32 * (d + 1) + x.1, x.2.extractLsb' 32 32)]
      else [(32 * d + x.1, x.2.setWidth 32)]) }

/-- s write of a result. -/
def Group.writeS (g : Group) (d : Nat) (wide : Bool) (x : BitVec 64) : Group :=
  { g with
    s := CMap.setMany g.s (if wide then [(d, x.setWidth 32), (d + 1, x.extractLsb' 32 32)] else [(d, x.setWidth 32)]) }

/-- Predicate write in the lanes of ACTIVE (R254). -/
def Group.writeP (g : Group) (d : Nat) (act val : BitVec 32) : Group :=
  { g with p := CMap.set g.p d ((CMap.get g.p d &&& ~~~act) ||| (val &&& act)) }

/-- A result of kind V: registers unless W, latches, flags, the pc (R241). -/
def State.finishV (s : State) (r : Run) (w : BitVec 1) (d : Nat) (wide : Bool) (f : Nat → BitVec 64 × Flags) : State :=
  let act := r.active
  let tab := (lanesOf act).map fun L => (L, f L)
  let fl : Flags := tab.foldl (fun a x => a ||| x.2.2) 0
  let vals := tab.map fun x => (x.1, x.2.1)
  let g := (if w = 1 then r.group else r.group.writeV d wide vals).raise fl
  (s.putGroup r.gk g).putPath r.key (r.path.shiftRes wide act fun L => FMap.getD vals L 0).past

/-- A result of kind S: the scalar is written when ACTIVE is not empty; fw0 of every ACTIVE lane takes it (R232, R242). -/
def State.finishS (s : State) (r : Run) (w : BitVec 1) (d : Nat) (wide : Bool) (x : BitVec 64) (fl : Flags) : State :=
  let act := r.active
  let g := if act = 0 then r.group else (if w = 1 then r.group else r.group.writeS d wide x).raise fl
  (s.putGroup r.gk g).putPath r.key (r.path.shiftRes wide act fun _ => x).past

/-- A result of kind P: no latch changes. -/
def State.finishP (s : State) (r : Run) (d : Nat) (val : BitVec 32) : State :=
  (s.putGroup r.gk (r.group.writeP d r.active val)).putPath r.key r.path.past

/-! ### Packed elements (R114, R242) -/

/-- Element k of a register or pair, unsigned. -/
def elemU (t : Nat) (x : BitVec 64) (k : Nat) : Nat := x.toNat / 2 ^ (tyBits t * k) % 2 ^ tyBits t

/-- A register or pair built element by element. -/
def packElems (t : Nat) (f : Nat → Nat × Flags) : BitVec 64 × Flags :=
  (List.range (tyElems t)).foldl (fun a k =>
    let e := f k
    (a.1 ||| BitVec.ofNat 64 (e.1 % 2 ^ tyBits t * 2 ^ (tyBits t * k)), a.2 ||| e.2)) (0, 0)

end Sys2Proof.Machine
end

