-- ==== Sys2Proof/Machine/Space.lean ====
section
/-! DEFINITION. The on-chip memories by place, their barrier words (spec/09_engines.md R168, R169), event counters (R162), and the
shuttle rings and the end of a Loom command list (R170–R175). -/

namespace Sys2Proof.Machine

/-! ### On-chip memories -/

/-- The bytes of a location. -/
def State.slocMem (s : State) : SLoc → CMap 8
  | .slice k => ((FMap.get? s.wgs k).map (·.slices)).getD []
  | .scratch k => ((FMap.get? s.wgs k).map (·.scratch)).getD []
  | .cluster k => ((FMap.get? s.gangs k).map (·.cmem)).getD []
  | .chip k => ((FMap.get? s.launches k).map (·.chip)).getD []
  | .none => []

/-- The barrier tags of a location (R168); the lane slice has none. -/
def State.slocTags (s : State) : SLoc → CMap 1
  | .scratch k => ((FMap.get? s.wgs k).map (·.tags)).getD []
  | .cluster k => ((FMap.get? s.gangs k).map (·.ctags)).getD []
  | .chip k => ((FMap.get? s.launches k).map (·.ktags)).getD []
  | _ => []

/-- Replace the bytes and tags of a location. -/
def State.putSloc (s : State) (l : SLoc) (m : CMap 8) (t : CMap 1) : State :=
  match l with
  | .slice k => match FMap.get? s.wgs k with
    | some w => s.putWg k { w with slices := m }
    | none => s
  | .scratch k => match FMap.get? s.wgs k with
    | some w => s.putWg k { w with scratch := m, tags := t }
    | none => s
  | .cluster k => match FMap.get? s.gangs k with
    | some g => s.putGang k { g with cmem := m, ctags := t }
    | none => s
  | .chip k => match FMap.get? s.launches k with
    | some l => { s with launches := FMap.set s.launches k { l with chip := m, ktags := t } }
    | none => s
  | .none => s

/-! ### Stores that are seen late (R177, R205) -/

/-- Whether a late store has a byte in a range of a place. -/
def Stale.meets (x : Stale) (l : SLoc) (k n : Nat) : Bool := x.loc == l && decide (x.key < k + n) && decide (k < x.key + x.old.length)

/-- A write to a range of a place: late stores that it meets are seen by all. -/
def State.seen (s : State) (l : SLoc) (k n : Nat) : State := { s with stale := s.stale.filter fun x => !x.meets l k n }

/-- Every store is seen by all. -/
def State.seenAll (s : State) : State := { s with stale := [] }

/-- A release by lanes of a group: their stores are seen by every lane, not yet by the Loom (R177, R201). -/
def State.seenByLanes (s : State) (gk : Nat) (mask : BitVec 32) : State :=
  { s with stale := s.stale.map fun (x : Stale) => if x.group = gk && mask.getLsbD x.lane then { x with loom := true } else x }

/-- The bytes of a place as those see it to whom some late stores are not visible. -/
def staleView (m : CMap 8) (l : SLoc) (late : List Stale) : CMap 8 :=
  (late.filter fun x => x.loc == l).foldl (fun m x => Memory.writeBytes m x.key x.old) m

/-- The bytes of a place as a lane sees them: its own stores, and those of the others that are visible. -/
def State.laneMem (s : State) (l : SLoc) (gk lane : Nat) : CMap 8 :=
  staleView (s.slocMem l) l (s.stale.filter fun x => !x.loom && !(x.group == gk && x.lane == lane))

/-- The bytes of a place as the Loom sees them. -/
def State.loomMem (s : State) (l : SLoc) : CMap 8 := staleView (s.slocMem l) l s.stale

/-- The chip scratchpad of a launch, and its size. -/
def State.chipOf (s : State) (k : Nat) : SLoc × Nat := (.chip k, ((FMap.get? s.launches k).map fun l => 1024 * l.record.chip).getD 0)

/-- The location of an on-chip space, and its size. -/
def State.copyLoc (s : State) (gid : Nat) (q : Gang) (sp rank : Nat) : SLoc × Nat :=
  match sp with
  | 1 => match q.src with
    | .launch k => s.chipOf k
    | .docket _ => (.none, 0)
  | 2 => (.cluster gid, 4096 * q.clunits)
  | _ => (.scratch (8 * gid + rank), ((FMap.get? s.wgs (8 * gid + rank)).map fun w => 1024 * w.spages).getD 0)

/-! ### Barrier words (R168, R169) -/

/-- The word at an offset of a location. -/
def State.barWord (s : State) (l : SLoc) (o : Nat) : BitVec 64 := BitVec.ofNat 64 (Memory.read (s.slocMem l) o 8)

/-- Whether the word is tagged. -/
def State.barTag (s : State) (l : SLoc) (o : Nat) : Bool := CMap.get (s.slocTags l) (o / 8) == 1

/-- One indivisible update of a word (R169). -/
def State.putBar (s : State) (l : SLoc) (o : Nat) (w : BitVec 64) : State :=
  s.putSloc l (Memory.write (s.slocMem l) o 8 w.toNat) (s.slocTags l)

/-- Set or clear a tag. -/
def State.putTag (s : State) (l : SLoc) (o : Nat) (t : BitVec 1) : State :=
  s.putSloc l (s.slocMem l) (CMap.set (s.slocTags l) (o / 8) t)

/-- Add 1 to an event counter (R162). -/
def State.eventAdd (s : State) (gid e : Nat) : State :=
  match FMap.get? s.gangs gid with
  | none => s
  | some q => s.putGang gid { q with evc := CMap.set q.evc e (CMap.get q.evc e + 1) }

/-! ### Shuttle rings (R171) -/

/-- Rows of a tile shape. -/
def mselRows (m : Nat) : Nat := if m = 0 then 16 else if m = 1 then 32 else 64

/-- A ring of a command: header, data, slots, rows. -/
structure Ring where
  hdr  : Nat
  data : Nat
  n    : Nat
  rows : Nat
deriving DecidableEq, Repr

/-- Bytes of a slot (R171). -/
def Ring.slotBytes (g : Ring) (t blk : Nat) : Nat :=
  64 * g.rows + (if t = 14 then 64 * ((2 * g.rows + blk - 1) / blk) else 0)

/-! ### Command lists (R170, R174, R175) -/

/-- Where a list's space lies (RSP, DSP, STSP, TSP), and its size: K, the cluster of the gang, or S of the workgroup. K of a Loom task
is that of the launch whose gang spawned its docket (log 50). -/
def State.listLoc (s : State) (l : LoomList) (sp : Space) : SLoc × Nat :=
  match l.wg with
  | none =>
    match sp, (l.docket.bind (FMap.get? s.dockets)).bind (·.launch) with
    | .K, some k => s.chipOf k
    | _, _ => (.none, 0)
  | some wk =>
    match sp, FMap.get? s.gangs (wk / 8) with
    | .K, some q => s.copyLoc (wk / 8) q 1 0
    | .C, some q => s.copyLoc (wk / 8) q 2 0
    | .S, some q => s.copyLoc (wk / 8) q 3 (wk % 8)
    | _, _ => (.none, 0)

/-- The 8-byte status of a Loom list (R174). -/
def loomStatus (l : LoomList) (code : BitVec 8) : BitVec 64 :=
  BitVec.ofNat 64 (code.toNat + (if l.fmt then 256 else 0) + l.cmd % 2 ^ 16 * 2 ^ 16 + l.step % 2 ^ 32 * 2 ^ 32)

/-- More commands of 32 bytes than addresses allow. -/
def listFuel : Nat := 2 ^ 52

/-- Command i of a list (R170); none where it cannot be read. -/
def State.loomCmd (s : State) (l : LoomList) (i : Nat) : Option (BitVec 256) × State :=
  let x := s.readVA l.part l.ctx 2 ((l.addr.toNat + 32 * i) % 2 ^ 64) 32
  (x.1.map fun bs => BitVec.ofNat 256 (leNat bs), x.2)

/-- The END command of a list, from command i on, where it can be found (R170). -/
def State.findEnd (s : State) (l : LoomList) : Nat → Nat → Option (BitVec 256) × State
  | 0, _ => (none, s)
  | fuel + 1, i =>
    match s.loomCmd l i with
    | (none, s1) => (none, s1)
    | (some x, s1) => if bf x 0 4 = 0 then (some x, s1) else s1.findEnd l fuel (i + 1)

/-- A word of 8 bytes in a space of a list, inside its allocation and on no tagged word (R169). -/
def State.putListWord (s : State) (l : LoomList) (sp : Space) (o : Nat) (x : BitVec 64) : State :=
  let y := s.listLoc l sp
  if o + 8 ≤ y.2 && !tagged (s.slocTags y.1) o 8 then s.putSloc y.1 (Memory.write (s.slocMem y.1) o 8 x.toNat) (s.slocTags y.1) else s

/-- What the end of a list writes, at END or early (R174): the status word, then its target, as its END command names them. -/
def State.endWrites (s : State) (l : LoomList) (code : BitVec 8) : State :=
  match s.findEnd l listFuel l.cmd with
  | (none, s1) => s1
  | (some e, s1) =>
    let st := loomStatus l code
    let sta := bf e 128 64
    let s3 := match bf e 10 2 with
      | 0 => (s1.wroteVA l.part l.ctx 2 sta (leBytes st.toNat 8)).2
      | 1 => s1.putListWord l .K sta st
      | 3 => s1.putListWord l .S sta st
      | _ => s1
    match bf e 8 2 with
    | 1 =>
      let x := s3.listLoc l (match bf e 12 2 with | 0 => .S | 1 => .K | _ => .C)
      let o := bf e 64 64
      if bf e 12 2 ≠ 3 && o % 8 = 0 && decide (o + 8 ≤ x.2) && s3.barTag x.1 o then s3.putBar x.1 o (bArrive (s3.barWord x.1 o))
      else s3
    | 2 => s3.decDep l.part l.ctx (BitVec.ofNat 64 (bf e 64 64))
    | 3 => match l.wg with
      | some wk => s3.eventAdd (wk / 8) (bf e 16 8)
      | none => s3
    | _ => s3

/-- The rings in S that an MMA or MMAZ command names (R170, R171): first byte and length of the headers and the data. -/
def cmdRings (x : BitVec 256) : List (Nat × Nat) :=
  if (bf x 0 4 != 1 && bf x 0 4 != 2) || x.getLsbD 28 then []
  else
    let blk := 32 * 2 ^ bf x 14 2
    let ga : Ring := ⟨bf x 64 32, bf x 128 32, bf x 192 4 + 1, mselRows (bf x 12 2)⟩
    let gb : Ring := ⟨bf x 96 32, bf x 160 32, bf x 196 4 + 1, 16 * bf x 16 6⟩
    [(ga.hdr, 8 * (1 + 2 * ga.n)), (gb.hdr, 8 * (1 + 2 * gb.n)),
      (ga.data, ga.n * ga.slotBytes (bf x 4 4) blk), (gb.data, gb.n * gb.slotBytes (bf x 8 4) blk)]

/-- Whether a page lies within a ring in S that a command of a list names, from command i to its END (R95). -/
def State.ringPage (s : State) (l : LoomList) (page : Nat) : Nat → Nat → Bool
  | 0, _ => false
  | fuel + 1, i =>
    match (s.loomCmd l i).1 with
    | none => false
    | some x => ((cmdRings x).any fun g => decide (g.1 < 1024 * (page + 1) ∧ 1024 * page < g.1 + g.2)) ||
        (bf x 0 4 != 0 && s.ringPage l page fuel (i + 1))

/-- Whether a word of a page of a workgroup's scratch carries a barrier tag. -/
def Wg.tagAt (w : Wg) (page o : Nat) : Bool := o / 1024 == page && CMap.get w.tags (o / 8) == 1

/-- Whether a page is pinned (R95) by SPPIN, by a barrier word on which a path waits in BWAIT or which a copy entry has as its target, or
as part of a ring of a list that is queued or runs. -/
def State.pageFixed (s : State) (wk : Nat) (w : Wg) (page : Nat) : Bool :=
  CMap.get w.pins page != 0 ||
  (s.paths.any fun x => x.1 / 512 == wk && match x.2.wait with
    | .bwait conds => conds.any fun c => c.2.2 != 128 && !c.2.1.getLsbD 31 && w.tagAt page c.2.1.toNat
    | _ => false) ||
  ((FMap.get? s.gangs (wk / 8)).any fun q => q.sched.any fun e => e.tgt == 1 && bf e.taddr 62 2 < 2 && e.rank == wk % 8 &&
    w.tagAt page (bf e.taddr 0 32)) ||
  ((s.core w.core).loom ++ w.lists).any fun l => l.wg == some wk && s.ringPage l page listFuel l.cmd

/-- Whether a page is pinned (R95): so, or as a source or destination page of a rotation in progress. -/
def State.pagePinned (s : State) (wk : Nat) (w : Wg) (page : Nat) : Bool :=
  (w.rot.any fun x => x.2 == page) || s.pageFixed wk w page

/-- Frames of a core that hold no pinned page, and those of one phase (R95). -/
def State.unpinned (s : State) (core : Nat) : Nat × (Nat → Nat) :=
  let held := s.wgs.flatMap fun x =>
    if x.2.core = core then (x.2.frames.filter fun f => s.pagePinned x.1 x.2 f.1).map (·.2) else []
  (Config.frames - held.length, fun ph => 128 - (held.filter fun f => f % 3 == ph).length)

end Sys2Proof.Machine
end

