-- ==== Sys2Proof/Machine/Ops.lean ====
section
/-! DEFINITION. The shared operations: banks, the pager's frames, the end of a gang and of a launch, taking an
exception and returning from one (spec/10_traps_faults_preemption.md R184–R193), deferred faults, waiting. -/

namespace Sys2Proof.Machine

/-- Run a meaning on the executing path. -/
def withRun (s : State) (f : Run → Out) : Out :=
  match s.run? with
  | none => .fault .noIssuingPath
  | some r => f r

/-- The context of a run. -/
def State.rctx (s : State) (r : Run) : Ctx := s.ctx r.gang.part r.gang.ctx

/-- The launch of a gang, if it was started by one. -/
def State.launchOf (s : State) (q : Gang) : Option (Nat × Launch) :=
  match q.src with
  | .launch k => (FMap.get? s.launches k).map fun l => (k, l)
  | .docket _ => none

/-! ### Accumulator banks (R146) -/

/-- Physical banks of a core that nobody owns, ascending. -/
def Core.freeBanks (c : Core) : List Nat := (List.range 16).filter fun b => (FMap.get? c.bankOwner b).isNone

/-- The owner number of a Loom-task docket's banks. -/
def docketOwner (k : Nat) : Nat := 2 ^ 80 + k

/-- An allocation as it is granted: a new one, or one that a workgroup brings with it (R147). -/
def Acc.granted (old : Option Acc) (bs : List Nat) : Acc :=
  match old with
  | some a => { a with banks := bs }
  | none => ⟨bs, [], []⟩

/-- Grant the core's waiting requests in order; the first that cannot be met holds back the rest. -/
def State.grantBanks (s : State) (core : Nat) : Nat → State
  | 0 => s
  | fuel + 1 =>
    let c := s.core core
    match c.bankQueue with
    | [] => s
    | (owner, n) :: rest =>
      if c.freeBanks.length < n then s
      else
        let bs := c.freeBanks.take n
        let c' := { c with bankQueue := rest, bankOwner := bs.foldl (fun m b => FMap.set m b owner) c.bankOwner }
        let s1 := s.putCore core c'
        let s2 :=
          if owner < 2 ^ 80 then
            match FMap.get? s1.wgs owner with
            | some w => s1.putWg owner { w with acc := some (Acc.granted w.acc bs) }
            | none => s1
          else
            s1.putCore core { c' with loom := c'.loom.map fun l =>
              if (l.docket == some (owner - 2 ^ 80)) = true then { l with acc := some (Acc.granted none bs) } else l }
        State.grantBanks s2 core fuel

/-- Free the banks of an owner, drop its waiting requests, and wake the others in order (R146). -/
def State.freeBanksOf (s : State) (core owner : Nat) : State :=
  let c := s.core core
  (s.putCore core { c with
    bankOwner := c.bankOwner.filter fun x => x.2 != owner
    bankQueue := c.bankQueue.filter fun x => x.1 != owner }).grantBanks core 17

/-- Drop what a workgroup off its core claims ahead of its return, on every core but one (R147). -/
def State.dropClaims (s : State) (wk but : Nat) : State :=
  (s.cores.filter fun c => c.1 != but && (c.2.bankQueue.any (·.1 == wk) || c.2.bankOwner.any (·.2 == wk))).foldl
    (fun (s : State) c => s.freeBanksOf c.1 wk) s

/-! ### The pager (R93–R95) -/

/-- Frames of a core in use. -/
def State.usedFrames (s : State) (core : Nat) : List Nat :=
  s.wgs.flatMap fun x => if x.2.core = core then x.2.frames.map (·.2) else []

/-- Evict the least recently used unpinned page of a phase from a core (R95); the victim is recorded (R144). Its bytes and tags go to
its backing (R96). Where rotations have every other page of the phase, one of theirs goes (log 99). -/
def State.evictOne (s : State) (core phase : Nat) : Option State :=
  let c := s.core core
  let victim (pinned : Nat → Wg → Nat → Bool) : Option (Nat × Nat × Nat) :=
    c.lru.find? fun x => x.2.1 % 3 == phase && ((FMap.get? s.wgs x.1).any fun w => !pinned x.1 w x.2.1)
  match victim s.pagePinned <|> victim s.pageFixed with
  | none => none
  | some (wk, pg, gk) =>
    match FMap.get? s.wgs wk with
    | none => none
    | some w =>
      some ((s.putWg wk { w with pages := CMap.set w.pages pg 2, frames := FMap.erase w.frames pg }).putCore core
        { c with lru := c.lru.filter (· != (wk, pg, gk)), victims := (c.victims ++ [(wk, pg, gk)]).drop (c.victims.length - 255) })

/-- A frame of a phase that holds no page. -/
def State.freeFrame (s : State) (core phase : Nat) : Option Nat :=
  ((List.range 128).find? fun j => !(s.usedFrames core).contains (3 * j + phase)).map fun j => 3 * j + phase

/-- Give a page a frame of its phase, evicting if there is none free (R94, R95); none while every frame of the phase is pinned. -/
def State.takeFrame (s : State) (wk page : Nat) : Option State :=
  match FMap.get? s.wgs wk with
  | none => none
  | some w =>
    let s1 := match s.freeFrame w.core (page % 3) with
      | some _ => s
      | none => (s.evictOne w.core (page % 3)).getD s
    match s1.freeFrame w.core (page % 3), FMap.get? s1.wgs wk with
    | some f, some w1 => some (s1.putWg wk { w1 with pages := CMap.set w1.pages page 1, frames := FMap.set w1.frames page f })
    | _, _ => none

/-- A page becomes the most recently used of its core; `by_` is one more than the accessing group, or 0 for an engine, whose access
leaves the page's last group as it was (R95, R144). -/
def State.usedPage (s : State) (core wk page by_ : Nat) : State :=
  let mine (x : Nat × Nat × Nat) : Bool := x.1 == wk && x.2.1 == page
  let l := (s.core core).lru
  let g := if by_ = 0 then ((l.find? mine).map (·.2.2)).getD (16 * wk) else by_ - 1
  s.putCore core { s.core core with lru := (l.filter fun x => !mine x) ++ [(wk, page, g)] }

/-- An access to one page (R93): false while the page is evicted (a fill starts), in transit or without a frame. -/
def State.touchPage (s : State) (wk page by_ : Nat) : Bool × State :=
  match FMap.get? s.wgs wk with
  | none => (true, s)
  | some w =>
    match (CMap.get w.pages page).toNat with
    | 0 => match s.takeFrame wk page with
      | some s1 => (true, s1.usedPage w.core wk page by_)
      | none => (false, s)
    | 1 => (true, s.usedPage w.core wk page by_)
    | 2 => (false, s.putWg wk { w with pages := CMap.set w.pages page 3, fills := w.fills ++ [(page, by_)] })
    | _ => (false, s)

/-- Touch every page of [off, off + n) of a workgroup's scratch; false when the access must wait. -/
def State.touch (s : State) (wk off n : Nat) (by_ : Nat := 0) : Bool × State :=
  (List.range ((off + n - 1) / 1024 - off / 1024 + 1)).foldl (fun a i =>
    let (ok, s') := a.2.touchPage wk (off / 1024 + i) by_
    (a.1 && ok, s')) (true, s)

/-! ### Ends (R139, R193) -/

/-- Stop the Loom lists of a workgroup, in the Loom or frozen, with status ABANDONED (R175, R176). -/
def State.dropLists (s : State) (wk : Nat) : State :=
  match FMap.get? s.wgs wk with
  | none => s
  | some w =>
    let c := s.core w.core
    let mine := (c.loom.filter fun l => l.wg == some wk) ++ w.lists
    let s1 := (s.putCore w.core { c with loom := c.loom.filter fun l => l.wg != some wk }).putWg wk { w with lists := [] }
    mine.foldl (fun s l => s.endWrites l 7) s1

/-! ### Posted failures at the end of a path (R38) -/

/-- Posted failures that no fence will report: FAILCNT of each link (saturating, log 74), EXIT_FAILURES once per link and once for
those that used no link. -/
def State.exitFails (s : State) (part ctx : Nat) (all : List PostFail) : State :=
  let fs := all.filter (·.posted)
  let perLink := (List.range 16).foldl (fun (s : State) l =>
    let n := (fs.filter fun f => f.link == some l).length
    if n = 0 then s
    else (s.putLink l { s.link l with failcnt := (List.range n).foldl (fun c _ => satInc c) (s.link l).failcnt }).notify
      part 2 0 ctx (BitVec.ofNat 32 l)) s
  if fs.any fun f => f.link.isNone then perLink.notify part 2 0 ctx 0xFFFFFFFF else perLink

/-- The paths that a request belongs to: the one that made it, and the parts that it has diverged into (R134). -/
def Req.owners (q : Req) : List Nat := q.path :: q.more

/-- Whether a request belongs to a path. -/
def Req.isOf (q : Req) (k : Nat) : Bool := !q.orphan && q.owners.contains k

/-- A request with other owners; with none it is an orphan. -/
def Req.withOwners (q : Req) (l : List Nat) : Req :=
  match l.eraseDups with
  | [] => { q with orphan := true, more := [] }
  | k :: t => { q with path := k, more := t }

/-- Change every request: those in the table, and those that stores held at the Selvedge are to make (R63). -/
def State.mapReqs (s : State) (f : Req → Req) : State :=
  { s with
    reqs := s.reqs.map f
    selv := { s.selv with colls := s.selv.colls.map fun (c : Nat × Coll) => (c.1, { c.2 with
      held := c.2.held.map fun (h : HeldStore) => { h with req := h.req.map f } }) } }

/-- The requests in the table, and those that stores held at the Selvedge are to make. -/
def State.allReqs (s : State) : List Req := s.reqs ++ s.selv.colls.flatMap fun c => c.2.held.filterMap (·.req)

/-- Whether a request or a store that the Selvedge holds has a number: it is not performed yet. -/
def State.pends (s : State) (i : Nat) : Bool :=
  (s.reqs.any fun q => q.id == i) || s.selv.colls.any fun c => c.2.held.any fun h => h.id == i

/-- A request without a path that ends; one that is an orphan then counts its failure among those of an exit. -/
def Req.leave (q : Req) (k exit : Nat) : Req :=
  if q.isOf k then
    let q1 := q.withOwners (q.owners.filter (· != k))
    if q1.orphan then { q1 with exit := exit } else q1
  else q

/-- Exits whose requests are all answered report their failures, each link's once (R38, log 74). -/
def State.settleExits (s : State) : State :=
  (s.exits.filter fun x => !(s.allReqs.any fun q => q.exit == x.id)).foldl (fun (s : State) x => s.exitFails x.part x.ctx x.fails)
    { s with exits := s.exits.filter fun x => s.allReqs.any fun q => q.exit == x.id }

/-- A path ends (R139): its record goes, its requests stay without it; its failures are counted once the last of its writes and atomics is
answered (R38). -/
def State.endPath (s : State) (k : Nat) : State :=
  match FMap.get? s.paths k with
  | none => s
  | some p =>
    let s1 := { s with
      uid := s.uid + 1
      paths := FMap.erase s.paths k
      parked := s.parked.filter fun x => x.1 != k }.mapReqs fun q => q.leave k s.uid
    match FMap.get? s.gangs (k / 4096) with
    | some g => { s1 with exits := s1.exits ++ [(⟨s.uid, g.part, g.ctx, p.fails⟩ : Exit)] }.settleExits
    | none => s1

/-- Whether a workgroup's remote writes and atomics are still unanswered (R193). -/
def State.draining (s : State) (wk : Nat) : Bool := s.reqs.any fun q => q.path / 512 == wk && q.kind != 0 && decide (q.kind < 6)

/-- Release a workgroup: its groups, its banks (R193); lane slices, scratch, pins go with it (R90). -/
def State.freeWg (s : State) (wk : Nat) : State :=
  match FMap.get? s.wgs wk with
  | none => s
  | some w =>
    let s1 := { s.seenAll with
      groups := s.groups.filter fun x => x.1 / 16 != wk
      wgs := FMap.erase s.wgs wk }
    let s2 := s1.putCore w.core { s1.core w.core with lru := (s1.core w.core).lru.filter fun x => x.1 != wk }
    (s2.freeBanksOf w.core wk).dropClaims wk w.core

/-- Whether a released instance or a trace of a gang still uses a workgroup (R167, R193). -/
def Gang.uses (q : Gang) (wk : Nat) : Bool :=
  (q.insts.any fun i => (q.sched[i.entry]?).any fun e => e.rank == wk % 8 && (e.srcsp == 3 || e.dstsp == 3 || e.tgt == 1)) ||
    q.traces.any fun t => t.path / 512 == wk

/-- Whether a workgroup still has something that its exit completes first (R113, R139, R167, R175, R193); a store that the Selvedge
holds counts as a logged one (R63, R201). -/
def State.wgBusy (s : State) (wk : Nat) (w : Wg) : Bool :=
  (s.paths.any fun x => x.1 / 512 == wk) || ((s.core w.core).loom.any fun l => l.wg == some wk) || !w.lists.isEmpty ||
    (s.sidelog.any fun e => e.group / 16 == wk) || s.draining wk ||
    (FMap.get? s.gangs (wk / 8)).any fun q => q.uses wk ||
      (q.status != 5 && s.selv.colls.any fun c => c.2.held.any fun h => h.path / 512 == wk)

/-- Deferred faults of a gang of which no lane remains can be delivered no more: LOST_FAULT (R188). -/
def State.lostFaults (s : State) (gid : Nat) : State :=
  match FMap.get? s.gangs gid with
  | none => s
  | some q =>
    if q.dq.isEmpty || s.paths.any fun x => x.1 / 4096 == gid then s
    else q.dq.foldl (fun (s : State) f => s.notify q.part 12 0 q.ctx (f.cause.setWidth 32)) (s.putGang gid { q with dq := [] })

/-- Workgroups without paths whose lists, logged stores and remote writes are done are released; a gang without
workgroups whose instances and traces are done retires (R139, R193), a killed one leaves nothing. -/
def State.reapGang (s0 : State) (gid : Nat) : State :=
  let s := s0.lostFaults gid
  let s1 := (List.range 8).foldl (fun (s : State) i =>
    let wk := 8 * gid + i
    match FMap.get? s.wgs wk with
    | none => s
    | some w =>
      if s.wgBusy wk w then s else s.freeWg wk) s
  match FMap.get? s1.gangs gid with
  | none => s1
  | some q =>
    if (s1.wgs.any fun x => x.1 / 8 == gid) || !q.insts.isEmpty || !q.traces.isEmpty || q.status = 4 then s1
    else
      match q.src, q.status with
      | .docket _, 5 => { s1.seenAll with gangs := FMap.erase s1.gangs gid }
      | _, _ => s1.seenAll.putGang gid { q with status := 4, cmem := [], ctags := [], dq := [] }

/-- The requests for banks of a gang's workgroups are taken back (R193); others that can be met now are (R146). -/
def State.dropBankRequests (s : State) (gid : Nat) : State :=
  (s.cores.filter fun c => c.2.bankQueue.any fun x => x.1 / 8 == gid).foldl (fun (s : State) c =>
    (s.putCore c.1 { s.core c.1 with bankQueue := (s.core c.1).bankQueue.filter fun x => x.1 / 8 != gid }).grantBanks c.1 17) s

/-- Kill a gang (R193): lists abandoned, side-log entries and traces discarded, Courier instances cancelled with
the dockets that wait on them ABANDONED, requests for banks taken back, paths ended. The gang is status 5 while its remote writes drain. -/
def State.killGang (s : State) (gid : Nat) : State :=
  match FMap.get? s.gangs gid with
  | none => s
  | some q =>
    if q.status = 4 || q.status = 5 then s
    else
      let s1 := (List.range 8).foldl (fun (s : State) i => s.dropLists (8 * gid + i)) (s.dropBankRequests gid)
      let s2 := { s1 with sidelog := s1.sidelog.filter fun e => e.group / 128 != gid }
      let waiting := q.insts.filterMap fun i => (q.sched[i.entry]?).bind fun e =>
        if e.tgt = 2 then some e.taddr else none
      let s3 := waiting.foldl (fun (s : State) va => match s.docketAt q.part q.ctx va with
        | some (k, d) => if d.state = 5 then s else s.finishDocket k 6 5
        | none => s) s2
      let s4 := (s3.paths.filter fun x => x.1 / 4096 == gid).foldl (fun (s : State) x => s.endPath x.1) s3
      match FMap.get? s4.gangs gid with
      | none => s4
      | some q4 => (s4.putGang gid { q4 with status := 5, halted := false, insts := [], traces := [], dq := [] }).reapGang gid

/-- Kill a launch (R80): every gang of it, placed or not; KILLED is posted. -/
def State.killLaunch (s : State) (k : Nat) : State :=
  match FMap.get? s.launches k with
  | none => s
  | some l =>
    if l.killed then s
    else
      let s1 := { s with launches := FMap.set s.launches k { l with killed := true } }
      let s2 := (s1.gangs.filter fun x => x.2.src == .launch k).foldl (fun s x => s.killGang x.1) s1
      s2.notify l.part 5 0 l.ctx l.index

/-- TASK_FAULT's DETAIL (R85). -/
def taskDetail (d : Docket) : BitVec 32 := BitVec.ofNat 32 (d.hole % 256 + d.index.toNat % 2 ^ 16 * 2 ^ 16)

/-- A fault that no handler takes (R186): the launch is killed, or the docket's gang alone, its docket ABANDONED with
FAULTED and TASK_FAULT posted. -/
def State.fatal (s : State) (gid : Nat) : State :=
  match FMap.get? s.gangs gid with
  | none => s
  | some q =>
    match q.src with
    | .launch k => s.killLaunch k
    | .docket k =>
      let s1 := (s.killGang gid).finishDocket k 6 6
      match FMap.get? s.dockets k with
      | some d => s1.notify q.part 11 0 q.ctx (taskDetail d)
      | none => s1

/-! ### Taking an exception (R185) and returning (R186, R334) -/

/-- Enter the handler: HCAUSE, HPC, HADDR, HLANES, HMODE, HMASK, the latches saved and dead, handler mode, gm 2, the
pc at HENTRY; an expand-load that it interrupts finds its base afresh when it resumes (R301). -/
def Path.enter (p : Path) (hentry : BitVec 64) (cause : BitVec 8) (lane : Nat) (addr hpc : BitVec 64)
    (lanes : BitVec 32) (deferred lost : Bool) : Path :=
  { p with
    hcause := BitVec.ofNat 32 (cause.toNat + lane % 32 * 2 ^ 8 + (if deferred then 2 ^ 13 else 0) + (if lost then 2 ^ 14 else 0))
    hpc := hpc, haddr := addr, hlanes := lanes, hmode := p.gm, hmask := p.mask
    sfw := p.fw, slive := p.live, smask := p.mask
    live := [], inH := true, gm := 2, pc := hentry, hstack := [], held := none, wait := .ready, xbase := none }

/-- Raise a cause in a path: the handler, or the end of R186. -/
def State.raise (s : State) (r : Run) (cause : BitVec 8) (lane : Nat) (addr : BitVec 64) (lanes : BitVec 32) : State :=
  let h := (s.rctx r).hentry
  if r.path.inH || h = 0 then s.fatal r.gid
  else s.putPath r.key (r.path.enter h cause lane addr r.path.pc lanes false false)

/-- ILLEGAL: the lowest lane and the lanes of the active mask, whatever the guard (R184, R240). -/
def State.illegal (s : State) (r : Run) : State :=
  s.raise r cILLEGAL (lowLane r.path.mask) 0 r.path.mask

/-- A cause of level 12, for the whole instruction (R184). -/
def State.raiseWhole (s : State) (r : Run) (cause : BitVec 8) : State :=
  s.raise r cause (lowLane r.path.mask) 0 r.path.mask

/-- A lane's cause. -/
structure LaneFault where
  lane  : Nat
  cause : BitVec 8
  addr  : BitVec 64
deriving DecidableEq, Repr

/-- The reported fault: the lowest level, then the lowest lane (R184). -/
def pickFault : List LaneFault → Option LaneFault
  | [] => none
  | f :: t =>
    match pickFault t with
    | none => some f
    | some g =>
      if causeLevel f.cause < causeLevel g.cause || (causeLevel f.cause = causeLevel g.cause && f.lane ≤ g.lane)
      then some f else some g

/-- Raise the lanes' causes of one instruction (R184): HLANES every lane with a cause. -/
def State.raiseLanes (s : State) (r : Run) (fs : List LaneFault) : State :=
  match pickFault fs with
  | none => s
  | some f => s.raise r f.cause f.lane f.addr (laneMask fun L => fs.any fun x => x.lane == L)

/-- LATCH in the lanes that read a dead latch (R233); its address is 0. -/
def State.latchFault (s : State) (r : Run) (dead : BitVec 32) : State :=
  s.raise r cLATCH (lowLane dead) 0 dead

/-- ILLEGAL, then LATCH, then the meaning (R241, R276, R288, R305). -/
def checked (s : State) (r : Run) (legal : Bool) (dead : BitVec 32) (k : Unit → Out) : Out :=
  if !legal then .next (s.illegal r)
  else if dead ≠ 0 then .next (s.latchFault r dead)
  else k ()

/-- The lanes named by HMASK, of those the path held, that have not exited (R186). -/
def Path.rteMask (p : Path) : BitVec 32 := p.hmask &&& p.smask &&& p.mask

/-- Return from handler mode (R186 items 1 and 2, R273). -/
def Path.rte (p : Path) : Path :=
  { p with pc := p.hpc, gm := p.hmode, mask := p.rteMask, fw := p.sfw, live := p.slive, inH := false, hstack := [], wait := .ready
           mid := false }

/-! ### Deferred faults (R188, R190) -/

/-- Queue a deferred fault of a gang; one that merges or is dropped marks the next delivery (HCAUSE[14], R187); with HENTRY
zero, R190. Where no lane of the gang remains it is LOST_FAULT at once (R188). `path` is that of a store, by key and `born`. -/
def State.defer (s : State) (gid : Nat) (cause : BitVec 8) (addr : BitVec 64) (path : Option (Nat × Nat)) : State :=
  match FMap.get? s.gangs gid with
  | none => s
  | some q =>
    if (s.ctx q.part q.ctx).hentry = 0 then
      if path.isSome && cause ≠ cNOTPRESENT then s.fatal gid else s
    else if !(s.paths.any fun x => x.1 / 4096 == gid) then s.notify q.part 12 0 q.ctx (cause.setWidth 32)
    else if (q.dq.any fun f => f.cause == cause && f.addr.toNat / 65536 == addr.toNat / 65536) ||
        decide (Config.deferredSize ≤ q.dq.length) then s.putGang gid { q with lost := true }
    else s.putGang gid { q with dq := q.dq ++ [⟨cause, addr, path⟩] }

/-- HENTRY of a context becomes zero: what its gangs have queued is dropped, or kills where data was discarded (R190). -/
def State.flushFaults (s : State) (part ctx : Nat) : State :=
  (s.gangs.filter fun x => x.2.part == part && x.2.ctx == ctx).foldl (fun (s : State) x =>
    match FMap.get? s.gangs x.1 with
    | none => s
    | some q =>
      let s1 := s.putGang x.1 { q with dq := [] }
      if q.dq.any fun f => f.path.isSome && f.cause != cNOTPRESENT then s1.fatal x.1 else s1) s

/-! ### Release points (R113, R201, R206) -/

/-- Whether a request is an earlier write or atomic of a path. -/
def Req.by (q : Req) (k : Nat) : Bool := q.isOf k && q.kind != 0 && decide (q.kind < 6)

/-- A write of a lane is not performed before the read of its older ATGS that awaits a response, but for one on a UO page (R200). -/
def State.rmwWait (s : State) (r : Run) : Bool :=
  s.reqs.any fun q => q.kind == 2 && !q.uo && q.isOf r.key && r.path.mask.getLsbD q.lane

/-- Whether the Selvedge holds a store of a path, or of a lane that it now has (R63); a store performed from the side log counts as
every lane's. -/
def State.collHeld (s : State) (k : Nat) (mask : BitVec 32) : Bool :=
  s.selv.colls.any fun c => c.2.held.any fun h =>
    h.path == k || (h.path / 32 == k / 32 && (mask.getLsbD h.lane || decide (32 ≤ h.lane)))

/-- Whether a write of a path to memory on the CORE path is not performed yet: logged by its group (R113), a STGR that waits (R298), or
held at the Selvedge (R63). -/
def State.unperformed (s : State) (gk k : Nat) (mask : BitVec 32) : Bool :=
  (s.sidelog.any fun l => l.group == gk) || (s.reqs.any fun q => q.kind == 5 && q.by k) || s.collHeld k mask

/-- A release point, or a hand-off to an engine, is held while an earlier CORE write is not performed (R201, R204, R206). -/
def State.heldRelease (s : State) (r : Run) : Bool := s.unperformed r.gk r.key r.path.mask

/-- A release point that writes is held besides while an older atomic of its lanes has not read (R200). -/
def State.heldWrite (s : State) (r : Run) : Bool := s.heldRelease r || s.rmwWait r

/-! ### Waiting and completing -/

/-- Update the record of a path, if it is there. -/
def State.modPath (s : State) (k : Nat) (f : Path → Path) : State :=
  match FMap.get? s.paths k with
  | some p => s.putPath k (f p)
  | none => s

/-- A path that has executed an instruction waits until the instruction's accesses to SO pages have been performed (R295); an ordered flag
retires at once all the same (R36, log 96). -/
def State.untilPerformed (s : State) (r : Run) : State :=
  let ids := ((s.allReqs.filter fun q => q.so && q.kind != 4 && q.isOf r.key).map (·.id)) ++
    s.selv.colls.flatMap fun c => (c.2.held.filter fun h => h.so && h.req.isNone && h.path == r.key).map (·.id)
  if ids.isEmpty then s
  else s.modPath r.key fun p => if p.wait == .ready && p.inH == r.path.inH then { p with wait := .performed ids } else p

/-- The path waits and tests its instruction afresh when next chosen (R140). -/
def State.hold (s : State) (r : Run) : State := s.putPath r.key { r.path with wait := .retry }

/-- Past a switch point to PC + 4. -/
def State.doneSwitch (s : State) (r : Run) : State :=
  s.putPath r.key (r.path.pastSwitch (s.rctx r).aper (r.path.pc + 4))

/-- LSTAT (R297). -/
def lstatOf (code : BitVec 8) (lane : Nat) : BitVec 32 := BitVec.ofNat 32 (code.toNat + lane % 32 * 2 ^ 8)

/-- p7 written true in some ACTIVE lanes and false in others, LSTAT for the lowest failing lane (R297, R305). -/
def State.status (s : State) (r : Run) (act ok : BitVec 32) (code : BitVec 8) (lane : Nat) : State :=
  let s1 := match FMap.get? s.groups r.gk with
    | some g => s.putGroup r.gk (g.writeP 7 act ok)
    | none => s
  match FMap.get? s1.paths r.key with
  | some p => if act &&& ~~~ok = 0 then s1 else s1.putPath r.key { p with lstat := lstatOf code lane }
  | none => s1

/-- A fresh number for a request or a load (log 5). -/
def State.fresh (s : State) : Nat × State := (s.uid, { s with uid := s.uid + 1 })

/-! ### Results of the integer, float, convert and lane classes -/

/-- Types each class accepts (R237). -/
def accAny (t : Nat) : Bool := decide (t ≤ 14)
def accInt (t : Nat) : Bool := decide (t ≤ 7)
def accWord (t : Nat) : Bool := t == 2 || t == 3 || t == 6 || t == 7
def accFloat (t : Nat) : Bool := decide (8 ≤ t) && decide (t ≤ 11)
def accAtomic (t : Nat) : Bool := t == 2 || t == 3 || t == 6 || t == 7 || t == 10

/-- Legality under the gm the instruction finds (R237, R240): the fields, the type, and even registers where D, A or B
is a pair. -/
def Run.legal (r : Run) (i : Sys2Proof.Instr) (acc : Nat → Bool) (wd wa wb : Bool) : Bool :=
  let h := Instr.shape i
  h.ok && acc r.T && (!wd || h.d % 2 == 0) && (!wa || h.a.all (selOk true)) && (!wb || h.b.all (selOk true))

/-- The ACTIVE lanes that read a dead latch through A or B. -/
def Run.deadOf (r : Run) (i : Sys2Proof.Instr) (wa wb : Bool) : BitVec 32 :=
  let h := Instr.shape i
  (match h.a with | some a => r.dead wa a | none => 0) ||| (match h.b with | some b => r.dead wb b | none => 0)

/-- An instruction of kind V: checks, then the result in every ACTIVE lane. `wide` says whether D, A and B are pairs. -/
def vOpW (i : Sys2Proof.Instr) (s : State) (acc : Run → Bool) (wide : Run → Bool × Bool × Bool)
    (f : Run → Nat → BitVec 64 × Flags) : Out :=
  withRun s fun r =>
    checked s r (r.legal i (fun _ => acc r) (wide r).1 (wide r).2.1 (wide r).2.2)
      (r.deadOf i (wide r).2.1 (wide r).2.2) fun _ =>
      .next (s.finishV r (Instr.shape i).w (Instr.shape i).d (wide r).1 (f r))

/-- Kind V with every operand at the width of gm.T. -/
def vOp (i : Sys2Proof.Instr) (s : State) (acc : Nat → Bool) (f : Run → Nat → BitVec 64 × Flags) : Out :=
  vOpW i s (fun r => acc r.T) (fun r => (tyIs64 r.T, tyIs64 r.T, tyIs64 r.T)) f

/-- Kind S: one scalar result. -/
def sOpW (i : Sys2Proof.Instr) (s : State) (acc : Run → Bool) (wide : Run → Bool × Bool)
    (f : Run → BitVec 64 × Flags) : Out :=
  withRun s fun r =>
    checked s r (r.legal i (fun _ => acc r) (wide r).1 (wide r).2 (wide r).2) (r.deadOf i (wide r).2 (wide r).2) fun _ =>
      .next (s.finishS r (Instr.shape i).w (Instr.shape i).d (wide r).1 (f r).1 (f r).2)

/-- Kind P: the predicate's mask over ACTIVE. -/
def pOp (i : Sys2Proof.Instr) (s : State) (acc : Nat → Bool) (f : Run → BitVec 32) : Out :=
  withRun s fun r =>
    checked s r (r.legal i acc false (tyIs64 r.T) (tyIs64 r.T)) (r.deadOf i (tyIs64 r.T) (tyIs64 r.T)) fun _ =>
      .next (s.finishP r (Instr.shape i).d (f r))

end Sys2Proof.Machine
end

