-- ==== Sys2Proof/Machine/Compare.lean ====
section
/-! DEFINITION. Compare and predicate instructions (spec/14_integer_and_lane.md R254–R256). -/

namespace Sys2Proof.Machine

/-- The order of two elements of type t: none when a NaN is among them (R254). -/
def cmpElem (t : Nat) (ftz : Bool) (x y : Nat) : Option Ordering :=
  if tyIsInt t then some (compare (intVal t x) (intVal t y))
  else FV.cmp? ((fmtOf t).read ftz x) ((fmtOf t).read ftz y)

/-- The predicate of a relation: AND over the elements of a lane (R254). -/
def Run.cmpAll (r : Run) (a b : BitVec 8) (rel : Option Ordering → Bool) : BitVec 32 :=
  laneMask fun L => (List.range (tyElems r.T)).all fun k =>
    rel (cmpElem r.T (gmRnd r.path.gm).ftz (elemU r.T (r.src r.T a L) k) (elemU r.T (r.src r.T b L) k))

def accCmp (t : Nat) : Bool := decide (t ≤ 13)

/-- CEQ (R254). -/
def execCeq (d : BitVec 3) (a b : BitVec 8) (s : State) : Out :=
  pOp (.ceq d a b) s accCmp fun r => r.cmpAll a b fun o => o == some .eq
/-- CNE (R254): not equal, or unordered, in some element. -/
def execCne (d : BitVec 3) (a b : BitVec 8) (s : State) : Out :=
  pOp (.cne d a b) s accCmp fun r => ~~~(r.cmpAll a b fun o => o == some .eq)
/-- CLT (R254). -/
def execClt (d : BitVec 3) (a b : BitVec 8) (s : State) : Out :=
  pOp (.clt d a b) s accCmp fun r => r.cmpAll a b fun o => o == some .lt
/-- CLE (R254). -/
def execCle (d : BitVec 3) (a b : BitVec 8) (s : State) : Out :=
  pOp (.cle d a b) s accCmp fun r => r.cmpAll a b fun o => o == some .lt || o == some .eq
/-- CGT (R254). -/
def execCgt (d : BitVec 3) (a b : BitVec 8) (s : State) : Out :=
  pOp (.cgt d a b) s accCmp fun r => r.cmpAll a b fun o => o == some .gt
/-- CGE (R254). -/
def execCge (d : BitVec 3) (a b : BitVec 8) (s : State) : Out :=
  pOp (.cge d a b) s accCmp fun r => r.cmpAll a b fun o => o == some .gt || o == some .eq

/-- CUN (R255): some element of a or b is a NaN. -/
def execCun (d : BitVec 3) (a b : BitVec 8) (s : State) : Out :=
  pOp (.cun d a b) s (fun t => decide (8 ≤ t) && decide (t ≤ 13)) fun r =>
    laneMask fun L => (List.range (tyElems r.T)).any fun k =>
      ((fmtOf r.T).decode (elemU r.T (r.src r.T a L) k)).isNaN || ((fmtOf r.T).decode (elemU r.T (r.src r.T b L) k)).isNaN

/-- CTST (R255): some bit is common to a and b, over the whole register or pair. -/
def execCtst (d : BitVec 3) (a b : BitVec 8) (s : State) : Out :=
  pOp (.ctst d a b) s accInt fun r => laneMask fun L => r.src r.T a L &&& r.src r.T b L != 0

/-- The lanes of a predicate operand under its negate bit (R231). -/
def Run.predOp (r : Run) (n : BitVec 1) (a : BitVec 3) : BitVec 32 :=
  if n = 1 then ~~~(r.group.pred a.toNat) else r.group.pred a.toNat

/-- A predicate instruction: gm.T is not read (R256). -/
def predOp2 (i : Sys2Proof.Instr) (s : State) (f : Run → BitVec 32) : Out :=
  withRun s fun r => checked s r (r.legal i accAny false false false) 0 fun _ =>
    .next (s.finishP r (Instr.shape i).d (f r))

/-- PAND (R256). -/
def execPand (d : BitVec 3) (n : BitVec 1) (a : BitVec 3) (m : BitVec 1) (b : BitVec 3) (s : State) : Out :=
  predOp2 (.pand d n a m b) s fun r => r.predOp n a &&& r.predOp m b
/-- POR (R256). -/
def execPor (d : BitVec 3) (n : BitVec 1) (a : BitVec 3) (m : BitVec 1) (b : BitVec 3) (s : State) : Out :=
  predOp2 (.por d n a m b) s fun r => r.predOp n a ||| r.predOp m b
/-- PXOR (R256). -/
def execPxor (d : BitVec 3) (n : BitVec 1) (a : BitVec 3) (m : BitVec 1) (b : BitVec 3) (s : State) : Out :=
  predOp2 (.pxor d n a m b) s fun r => r.predOp n a ^^^ r.predOp m b
/-- PNOT (R256). -/
def execPnot (d : BitVec 3) (n : BitVec 1) (a : BitVec 3) (s : State) : Out :=
  predOp2 (.pnot d n a) s fun r => ~~~(r.predOp n a)
/-- PMOV (R256). -/
def execPmov (d : BitVec 3) (n : BitVec 1) (a : BitVec 3) (s : State) : Out :=
  predOp2 (.pmov d n a) s fun r => r.predOp n a

/-- PGET (R256): bit i holds p_i; one 32-bit register whatever T is. -/
def execPget (w : BitVec 1) (d : BitVec 7) (s : State) : Out :=
  vOpW (.pget w d) s (fun r => accAny r.T) (fun _ => (false, false, false)) fun r L =>
    (BitVec.ofNat 64 ((List.range 8).foldl (fun x i => x + if (r.group.pred i).getLsbD L then 2 ^ i else 0) 0), 0)

end Sys2Proof.Machine
end

