-- ==== Sys2Proof/Machine/Memory.lean ====
section
/-! DEFINITION. What memory instructions share (spec/17_memory_instructions.md R288–R300, spec/05 R90–R113, spec/02
R33–R41): the on-chip spaces, element decoding, requests through fabric windows, stores to local memory and the side
log, loads in flight. -/

namespace Sys2Proof.Machine

/-! ### On-chip spaces -/

/-- The location of a space for a run. -/
def Run.sloc (r : Run) : Space → SLoc
  | .L => .slice r.wk
  | .S => .scratch r.wk
  | .C => .cluster r.gid
  | .K => match r.gang.src with
    | .launch k => .chip k
    | .docket _ => .none

/-- Size of a space's allocation in bytes (R90). -/
def State.spLimit (s : State) (r : Run) : Space → Nat
  | .L => 64 * r.wg.slice
  | .S => 1024 * r.wg.spages
  | .C => 4096 * r.gang.clunits
  | .K => match s.launchOf r.gang with
    | some x => 1024 * x.2.record.chip
    | none => 0

/-- The key of offset 0 of a lane in a space. -/
def Run.spBase (r : Run) (sp : Space) (L : Nat) : Nat :=
  match sp with
  | .L => 1024 * (32 * (r.gk % 16) + L)
  | _ => 0

/-- The effective offset (R91), exact. -/
def effOff (a : BitVec 32) (off : BitVec 8) : Int := (a.toNat : Int) + off.toInt

/-- The bound fault of a space. -/
def Space.bound : Space → BitVec 8
  | .L => cSLICE
  | _ => cSCRATCH

/-- The causes of the lanes of an access to an on-chip space, in the order of R184: alignment, bound, straddle of a
1 KiB page by an atomic, a tagged word under a write. -/
def State.spFaults (s : State) (r : Run) (sp : Space) (lanes : List (Nat × Int)) (n align : Nat) (atomic write : Bool) :
    List LaneFault :=
  lanes.filterMap fun (L, o) =>
    let at_ (c : BitVec 8) : Option LaneFault := some ⟨L, c, BitVec.ofInt 64 o⟩
    if o % (align : Int) ≠ 0 then at_ cMISALIGN
    else if o < 0 || decide ((s.spLimit r sp : Int) < o + n) then at_ sp.bound
    else if atomic && sp == .S && decide (o.toNat / 1024 ≠ (o.toNat + n - 1) / 1024) then at_ cSTRADDLE
    else if write && tagged (s.slocTags (r.sloc sp)) o.toNat n then at_ cBARRIER
    else none

/-- Touch the pages of every lane's scratch access; false when the path must wait (R93). -/
def State.touchLanes (s : State) (r : Run) (sp : Space) (lanes : List (Nat × Int)) (n : Nat) : Bool × State :=
  if sp ≠ .S then (true, s)
  else lanes.foldl (fun a x =>
    let b := a.2.touch r.wk x.2.toNat n (r.gk + 1)
    (a.1 && b.1, b.2)) (true, s)

/-- Read bytes of a lane's space as a number. -/
def State.spGet (s : State) (r : Run) (sp : Space) (L o n : Nat) : Nat :=
  Memory.read (s.slocMem (r.sloc sp)) (r.spBase sp L + o) n

/-- The same as the lane's loads see it: stores of others may be seen late (R205). -/
def State.spSee (s : State) (r : Run) (sp : Space) (L o n : Nat) : Nat :=
  Memory.read (s.laneMem (r.sloc sp) r.gk L) (r.spBase sp L + o) n

/-- Write bytes of a lane's space. -/
def State.spPut (s : State) (r : Run) (sp : Space) (L o n x : Nat) : State :=
  (s.seen (r.sloc sp) (r.spBase sp L + o) n).putSloc (r.sloc sp)
    (Memory.write (s.slocMem (r.sloc sp)) (r.spBase sp L + o) n x) (s.slocTags (r.sloc sp))

/-- A store of a lane's: while `lag` holds, others see it late (R177, R205, log 1). -/
def State.spPost (s : State) (r : Run) (sp : Space) (L o n x : Nat) : State :=
  let t := s.spPut r sp L o n x
  if s.lag && sp != .L then
    { t with stale := t.stale ++
        [⟨r.gk, L, r.sloc sp, r.spBase sp L + o, Memory.bytes (s.slocMem (r.sloc sp)) (r.spBase sp L + o) n, false⟩] }
  else t

/-! ### Elements (R292, R294, R299) -/

/-- Element 0 of a register from an element's bytes: i8 and i16 sign-extended, others zero-extended. -/
def placeEl (t x : Nat) : Nat :=
  if t = 4 || t = 5 then wrapTo 32 (toSigned (tyBits t) x) else x

/-- Whether a load moves the stored bytes unchanged. -/
def rawLoad (t f : Nat) : Bool := tyIsB t || t == 14 || f == t || tyIsB f

/-- Bytes in memory of n elements of T on a page of format F. -/
def fmtSpan (t f n : Nat) : Nat :=
  if rawLoad t f then n * tyBytes t else if f = 14 then n / 2 else n * tyBytes f

/-- READELS on the span's bytes: n elements of T, placed as R292 places them, with flags. -/
def decodeEls (gm : BitVec 32) (f n raw scale : Nat) : Nat × Flags :=
  let t := gmT gm
  if rawLoad t f then (if n = 1 then placeEl t (raw % 2 ^ (8 * tyBytes t)) else raw % 2 ^ 128, 0)
  else
    let el (i : Nat) : Nat × Flags :=
      if f = 14 then
        let v := q4xVal (fun j => raw / 2 ^ (4 * j) % 16) scale i
        let y := convert (gmRnd gm) t (.flt v.1)
        (y.1, y.2 ||| (if v.2 then fFMT else 0))
      else convert (gmRnd gm) t (convSrc f (gmRnd gm).ftz (raw / 2 ^ (tyBits f * i) % 2 ^ tyBits f))
    let x := (List.range n).foldl (fun a i =>
      let e := el i
      (a.1 + e.1 % 2 ^ tyBits t * 2 ^ (tyBits t * i), a.2 ||| e.2)) ((0 : Nat), (0 : Flags))
    (if n = 1 then placeEl t x.1 else x.1, x.2)

/-- The bytes a store takes from its data register, pair or quad (R294). -/
def Run.storeVal (r : Run) (quad : Bool) (d L : Nat) : Nat :=
  if quad then
    (r.group.vreg (d + 3) L ++ r.group.vreg (d + 2) L ++ r.group.vreg (d + 1) L ++ r.group.vreg d L).toNat
  else (r.dval r.T d L).toNat % 2 ^ (8 * tyBytes r.T)

/-- The operations of R299. -/
inductive AOp where
  | add | min | max | and | or | xor | xch | cas
deriving DecidableEq, Repr

/-- OP(old, v, new) (R299): f32 sums RNE with subnormals kept. -/
def AOp.apply (op : AOp) (t old v new : Nat) : Nat :=
  let w := tyBits t
  match op with
  | .add => if tyIsInt t then (old + v) % 2 ^ w else ((fmtOf t).addOp rne false old v).1
  | .min => if tyIsInt t then (if intVal t v < intVal t old then v else old) else (fmtOf t).minMaxOp false false old v
  | .max => if tyIsInt t then (if intVal t old < intVal t v then v else old) else (fmtOf t).minMaxOp false true old v
  | .and => old &&& v
  | .or => old ||| v
  | .xor => old ^^^ v
  | .xch => v
  | .cas => if old = v then new else old

/-- The numbers of the operations in requests. -/
def AOp.code : AOp → Nat
  | .add => 0 | .min => 1 | .max => 2 | .and => 3 | .or => 4 | .xor => 5 | .xch => 6 | .cas => 7

/-- The operation of a number. -/
def AOp.ofCode : Nat → AOp
  | 0 => .add | 1 => .min | 2 => .max | 3 => .and | 4 => .or | 5 => .xor | 6 => .xch | _ => .cas

/-- The second operand of CAS: vD+1, or the pair vD+2:vD+3. -/
def Run.casNew (r : Run) (d L : Nat) : Nat :=
  if tyIs64 r.T then (r.group.vreg (d + 3) L ++ r.group.vreg (d + 2) L).toNat else (r.group.vreg (d + 1) L).toNat

/-! ### Loads in flight (R140, R288) -/

/-- Past the instruction, with a load in flight when it has a register to write. -/
def State.issueLoad (s : State) (r : Run) (w : BitVec 1) (lanes : List LoadLane) : State :=
  let p := r.path.pastSwitch (s.rctx r).aper (r.path.pc + 4)
  if lanes.isEmpty || w = 1 then s.putPath r.key p
  else
    let x := s.fresh
    x.2.putPath r.key { p with loads := p.loads ++ [{ id := x.1, wr := true, status := false, hold := false, lanes := lanes }] }

/-- The register writes of a load's lanes. -/
def Group.writeLoad (g : Group) (mask : BitVec 32) (lanes : List LoadLane) : Group :=
  { g with
    v := CMap.setMany g.v (lanes.flatMap fun x =>
      if mask.getLsbD x.lane && x.code = 0 then
        ((List.range x.nreg).filter fun j => !x.skip.contains (x.reg + j)).map fun j => (32 * (x.reg + j) + x.lane, x.data.extractLsb' (32 * j) 32)
      else []) }

/-- A lane's data once every byte has arrived, with flags: fabric bytes are decoded now (R292). A q4x scale byte
arrives at byte 8. -/
def LoadLane.decoded (x : LoadLane) : LoadLane × Flags :=
  if !x.raw then (x, if x.code = 0 then x.fl else 0)
  else
    let q4 := x.fmt == 14 && !rawLoad (gmT x.gm) x.fmt
    let y := decodeEls x.gm x.fmt x.n (if q4 then x.data.toNat % 2 ^ 64 else x.data.toNat) (if q4 then bf x.data 64 8 else 0)
    ({ x with data := BitVec.ofNat 1024 y.1, raw := false }, if x.code = 0 then y.2 else 0)

/-- A load whose every lane has arrived completes: a held one past its instruction, to its next unit, or with REMOTE
(R41), which a halted gang reports when it resumes (R89); a status variant with p7 and LSTAT (R297); any other writes its
registers (R140). After an event that needs a package reset every cluster has stopped (R360). -/
def State.completeLoad (s : State) (k id : Nat) : State :=
  match s.runAt k with
  | none => s
  | some r =>
    match r.path.loads.find? fun l => l.id == id with
    | none => s
    | some l =>
      if s.mgmt.needsReset || l.lanes.any fun x => x.miss != 0 then s
      else
        let dec := l.lanes.map LoadLane.decoded
        let lanes := dec.map (·.1)
        let fl := dec.foldl (fun (a : Flags) x => a ||| x.2) 0
        let g := (if l.wr then r.group.writeLoad r.path.mask lanes else r.group).raise fl
        let act := r.path.mask &&& laneMask fun L => lanes.any fun x => x.lane == L
        let ok := laneMask fun L => lanes.any fun x => x.lane == L && x.code == 0
        let bad := act &&& ~~~ok
        let p := { r.path with loads := r.path.loads.filter fun l => l.id != id }
        if l.status then
          let code := ((lanes.find? fun x => x.lane == lowLane bad).map (·.code)).getD 0
          let p1 := if bad = 0 || l.mute then p else { p with lstat := lstatOf code (lowLane bad) }
          (s.putGroup r.gk (if l.mute then g else g.writeP 7 act ok)).putPath k
            (if l.hold then p1.pastSwitch (s.rctx r).aper (p1.pc + 4) else p1)
        else if l.hold then
          if bad ≠ 0 && r.gang.halted then s
          else if bad ≠ 0 then
            s.raiseLanes { r with path := { p with wait := .ready } }
              ((lanes.filter fun x => x.code != 0).map fun x => ⟨x.lane, cREMOTE, x.va⟩)
          else if l.unit then (s.putGroup r.gk g).putPath k { p with pix := p.pix + 1, wait := .ready }
          else (s.putGroup r.gk g).putPath k (p.pastSwitch (s.rctx r).aper (p.pc + 4))
        else (s.putGroup r.gk g).putPath k p

/-- LOAD_RETURN (R140): a load that does not hold its path returns. -/
def State.returnLoad (s : State) (k id : Nat) : State :=
  match FMap.get? s.paths k with
  | none => s
  | some p => if (p.loads.find? fun l => l.id == id).any fun l => !l.hold then s.completeLoad k id else s

/-! ### Requests through fabric windows (R33–R41) -/

/-- Completion counter i of a split (R35); a request that is queued on its link counts already (log 89). -/
def State.counter (s : State) (k i : Nat) : Nat :=
  (s.reqs.filter fun q => q.sent && q.kind != 0 && q.isOf k && q.link % 4 == i).length

/-- The up paths of a link group (R32, R34). -/
def State.upLinks (s : State) (group : Nat) : List Nat :=
  ((List.range 4).map fun i => 4 * group + i).filter fun l => (s.link l).signal != 2

/-- The free credits of a link at the next choice; a link in retraining counts as without (R42). -/
def State.creditsOf (s : State) (l : Nat) : Nat := if (s.link l).retraining then 0 else Config.credits s.free l

/-- The first of a list of links with the most credits. -/
def State.mostCredits (s : State) : List Nat → Option Nat
  | [] => none
  | l :: t =>
    match s.mostCredits t with
    | none => some l
    | some m => if s.creditsOf l < s.creditsOf m then some m else some l

/-- The link of a request (R34): that of the split's unacknowledged request to the same block, else the up path with the most
free credits, the lowest on a tie; none when every path is down. Where the link of that request has gone down, another takes its place
(log 89). -/
def State.pickLink (s : State) (k group addr : Nat) : Option (Nat × State) :=
  let ups := s.upLinks group
  match s.reqs.find? fun q =>
      q.sent && q.isOf k && q.group == group && q.addr.toNat / 64 == addr / 64 && ups.contains q.link with
  | some q => some (q.link, s)
  | none => (s.mostCredits ups).map fun l => (l, { s with free := s.free + 1 })

/-- The lowest tag of a link with no request, if there is one (R40). -/
def State.freeTag? (s : State) (l : Nat) : Option Nat :=
  (List.range 4096).find? fun t => !(s.reqs.any fun q => q.sent && q.link == l && q.tag == t)

/-- One flit leaves under a slot (R44, R46): the slot's counter advances, modulo its 40 bits; where it reaches 2^WARNEXP the host is
notified, where it reaches 2^40 the link holds. Each request, resent flit and franking flit is one flit (log 28); a slot
without a key is used like any other (log 75). -/
def State.countFlit (s : State) (l : Nat) : State :=
  let k := s.link l
  let n := (CMap.get k.cnt k.txslot.toNat).toNat + 1
  let warn := n == 2 ^ (min k.warnexp.toNat 39)
  let full := decide (2 ^ 40 ≤ n)
  let s1 := s.putLink l { k with
    slot0 := if k.txslot = 0 then { k.slot0 with full := full } else k.slot0
    slot1 := if k.txslot = 0 then k.slot1 else { k.slot1 with full := full }
    cnt := CMap.set k.cnt k.txslot.toNat (BitVec.ofNat 40 n), keywarn := k.keywarn || warn, keyheld := full }
  if warn then s1.notify 0 3 0 0 (BitVec.ofNat 32 l) else s1

/-- Whether the port sends on a link now: not in retraining or down (R42), not at the invocation limit (R46). -/
def Link.open (k : Link) : Bool := !k.retraining && !k.keyheld && k.signal != 2

/-- Whether a flit can be sent for the first time: the retry buffer holds 256 unacknowledged flits (R44). -/
def Link.room (k : Link) : Bool := k.open && decide (k.retry.length < 256)

/-- A flit sent for the first time enters the retry buffer (R44). -/
def State.newFlit (s : State) (l : Nat) : State :=
  let k := s.link l
  (s.putLink l { k with txseq := k.txseq + 1, retry := k.retry ++ [{ seq := k.txseq.toNat }] }).countFlit l

/-- What a link sends next, while it can: the franking flit, which is the first under a new slot (R45), the flits that are to be
sent again, then the requests queued on it, oldest first. -/
def State.pump (s : State) (l : Nat) : Nat → State
  | 0 => s
  | fuel + 1 =>
    let k := s.link l
    if !k.open then s
    else if k.frank then
      if !k.room then s else State.pump ((s.putLink l { k with frank := false }).newFlit l) l fuel
    else
      match k.retry.find? (·.due) with
      | some x => State.pump ((s.putLink l { k with
          retry := k.retry.map fun y => if y.seq = x.seq then { y with due := false } else y }).countFlit l) l fuel
      | none =>
        match s.reqs.find? fun q => q.sent && !q.left && q.link == l with
        | none => s
        | some q =>
          if !k.room then s
          else State.pump ({ s with reqs := s.reqs.map fun (x : Req) => if x.id = q.id then { x with left := true } else x }.newFlit l) l fuel

/-- The port sends what it can on a link. -/
def State.flow (s : State) (l : Nat) : State := s.pump l (s.reqs.length + (s.link l).retry.length + 2)

/-- A request on a link with a tag; its flit leaves when the link can send (R42, R46). -/
def State.place (s : State) (q : Req) (l t : Nat) : State :=
  { s with reqs := s.reqs ++ [{ q with link := l, tag := t, gen := CMap.get (s.link l).gens t, sent := true }] }.flow l

/-- What becomes of a request that is made: it is on a link (or held at the Selvedge), no path is up, or its counter or its link's tags have no room (R35, R40). -/
inductive Sent where
  | sent (s : State)
  | noPath
  | full
deriving DecidableEq, Repr

/-- Make a request (R34, R35, R40). -/
def State.send (s : State) (q : Req) : Sent :=
  match s.pickLink q.path q.group q.addr.toNat with
  | none => .noPath
  | some (l, s1) =>
    match s1.freeTag? l with
    | none => .full
    | some t =>
      if q.kind != 0 && decide (q.kind < 6) && q.owners.any (fun k => decide (4095 ≤ s.counter k (l % 4))) then .full else .sent (s1.place q l t)

/-! ### Reduction pages (R61, R63) -/

/-- The entry of a collective of a context. -/
def State.collOf (s : State) (part ctx cid : Nat) : Option (Nat × Coll) :=
  s.selv.colls.find? fun x => x.2.part == part && x.2.ctx == ctx && x.2.cid == cid

def State.putColl (s : State) (k : Nat) (c : Coll) : State :=
  { s with selv := { s.selv with colls := FMap.set s.selv.colls k c } }

/-- Marks of the elements that a store of n bytes at a virtual address writes in full, of those whose last byte lies in
[lo, hi); the exchange starts once every element is marked. -/
def Coll.mark (c : Coll) (va n lo hi : Nat) : Coll :=
  let w := if c.bf16 then 2 else 4
  let b := c.base.toNat
  let m := (List.range (n + 1)).foldl (fun m i =>
    if b ≤ va + i && (va + i - b) % w == 0 && decide (i + w ≤ n) && decide ((va + i - b) / w < c.elems) &&
        decide (lo < va + i + w) && decide (va + i + w ≤ hi)
    then CMap.set m ((va + i - b) / w) 1 else m) c.marks
  { c with marks := m, busy := m.length == c.elems }

/-- The collective that a request through a window writes for, in the context of its path. -/
def State.reqColl (s : State) (q : Req) : Option (Nat × Coll) :=
  q.coll.bind fun c => (FMap.get? s.gangs (q.path / 4096)).bind fun g => s.collOf g.part g.ctx c.1

/-- A request goes out. A write to a reduction page is held during an exchange; else it marks its elements once it is on its way (R63). -/
def State.emit (s : State) (q : Req) : Sent :=
  match s.reqColl q, q.coll with
  | some (k, c), some (_, ext) =>
    if c.busy then
      .sent (s.putColl k { c with
        held := c.held ++ [⟨q.id, q.path, q.lane, q.va, q.addr.toNat, leBytes q.data.toNat q.len, ext, some q, q.so⟩] })
    else
      match s.send { q with coll := none } with
      | .sent s1 => .sent (s1.putColl k (c.mark ext.1 ext.2 q.va.toNat (q.va.toNat + q.len)))
      | x => x
  | _, _ => s.send q

/-! ### Making requests -/

/-- Whether all requests of an instruction find room, made one after another; one whose lane waits for another's finds it later. -/
def State.fabRoom (s : State) : List Req → Bool
  | [] => true
  | q :: t =>
    if q.here.isSome then s.fabRoom t
    else
      match s.send q with
      | .sent s1 => s1.fabRoom t
      | .noPath => s.fabRoom t
      | .full => false

/-- The parts of a piece in naturally aligned 64-byte blocks: offset, address, length. -/
def blockParts (addr len : Nat) : List (Nat × Nat × Nat) :=
  let a := min len (64 - addr % 64)
  (0, addr, a) :: (if a < len then [(a, addr + a, len - a)] else [])

/-- A failure of a path's write or atomic (R38): kept for the next fence of each path that it belongs to, or, when the path has ended,
counted with its exit. Held flags that cover the request are tainted. `posted` is false where the instruction itself reports it. -/
def State.postFail (s : State) (q : Req) (code : BitVec 8) (link : Option Nat) (posted : Bool := true) : State :=
  let f : PostFail := ⟨q.id, code, q.va, link, posted⟩
  let s1 := { s with reqs := s.reqs.map fun h => if h.covers.contains q.id then { h with tainted := true } else h }
  if q.orphan then
    { s1 with exits := s1.exits.map fun (x : Exit) => if x.id = q.exit then { x with fails := x.fails ++ [f] } else x }
  else q.owners.foldl (fun (s : State) k =>
    match FMap.get? s.paths k with
    | some p => s.putPath k { p with fails := p.fails ++ [f] }
    | none => s) s1

/-- Withhold the held flags that cover a failed request, oldest first: posted failures without a link (R38). A STGR to local memory
that covers one is never performed either (R207, R298, log 57). -/
def State.withhold (s : State) : Nat → State
  | 0 => s
  | fuel + 1 =>
    match s.reqs.find? fun q => (q.kind == 4 || q.kind == 5) && !q.sent && q.tainted with
    | none => s
    | some q => ({ s with reqs := s.reqs.filter fun x => x.id != q.id }.postFail q 4 none).withhold fuel

/-- A request of a run, not yet sent. -/
def Run.req (r : Run) (id kind group L : Nat) (va : BitVec 64) (addr len : Nat) (data : Nat) : Req :=
  { id := id, path := r.key, kind := kind, group := group, link := 0, tag := 0, gen := 0, va := va,
    addr := BitVec.ofNat 64 addr, len := len, data := BitVec.ofNat 512 data, op := 0, load := 0, lane := L, off := 0,
    sent := false, covers := [], tainted := false }

/-- The requests that one lane's bytes through a window make under a leaf, one per block (R33); numbers are given as they are made. `ext`
is the whole store's address and length. -/
def Run.writeReqs (r : Run) (group L : Nat) (va : BitVec 64) (addr : Nat) (bs : List Byte) (e : BitVec 128) (ext : Nat × Nat) : List Req :=
  (blockParts addr bs.length).map fun x =>
    { r.req 0 1 group L (va + BitVec.ofNat 64 x.1) x.2.1 x.2.2 (leNat ((bs.drop x.1).take x.2.2)) with
      so := entOrd e == 0, uo := entOrd e == 2, coll := if entRed e then some (entColl e, ext) else none }

/-- Make a numbered request of an instruction. One on an SO page waits, unsent, for the instruction's earlier ones on SO pages (R197):
`prev` are their numbers. The answer says whether it found no path. -/
def State.make (s : State) (q : Req) (prev : List Nat) : Bool × State :=
  let after := if q.so then prev.filter s.pends else []
  if q.here.isSome || !after.isEmpty then (false, { s with reqs := s.reqs ++ [{ q with covers := after }] })
  else
    match s.emit q with
    | .sent s1 => (false, s1)
    | _ => (true, s)

/-- The numbers of an instruction's requests on SO pages, with one more. -/
def Req.after (q : Req) (prev : List Nat) : List Nat := if q.so then prev ++ [q.id] else prev

/-- Post writes and atomics without return: one that finds no path fails at once (R34, R38). `prev` are the instruction's
earlier requests on SO pages; the numbers of these are added. -/
def State.postReqs (s : State) (prev : List Nat) : List Req → List Nat × State
  | [] => (prev, s)
  | q :: t =>
    let x := s.fresh
    let q1 := { q with id := x.1 }
    match x.2.make q1 prev with
    | (false, s1) => s1.postReqs (q1.after prev) t
    | (true, s1) => (s1.postFail q1 3 none).postReqs prev t

/-- Who stores, for what the Selvedge may hold: path and lane, and the extent of the whole store where it contributes (R296); the
Courier's stores and ADRN's contribute nothing. `id`: the number of a store that has one. -/
structure Storer where
  path : Nat := 0
  lane : Nat := 32
  ext  : Nat × Nat := (0, 0)
  id   : Nat := 0
deriving DecidableEq, Repr

/-- A store to local memory: on a reduction page it is also marked, or held during the exchange. -/
def State.storeLocal (s : State) (part ctx va pa : Nat) (e : BitVec 128) (bs : List Byte) (w : Storer := {}) : State :=
  let plain := { s with mem := Memory.writeBytes s.mem pa bs }
  if !entRed e then plain
  else
    match s.collOf part ctx (entColl e) with
    | none => plain
    | some (k, c) =>
      if c.busy then
        { s with uid := s.uid + 1 }.putColl k { c with held := c.held ++
          [(⟨if w.id = 0 then s.uid else w.id, w.path, w.lane, BitVec.ofNat 64 va, pa, bs, w.ext, none, entOrd e == 0⟩ : HeldStore)] }
      else plain.putColl k (c.mark w.ext.1 w.ext.2 va (va + bs.length))

/-! ### The side log (R111–R113) -/

/-- The bytes of an entry as runs of adjacent addresses. -/
def byteRuns : List (Nat × BitVec 9) → List (Nat × List Byte)
  | [] => []
  | (a, b) :: t =>
    match byteRuns t with
    | [] => [(a, [b.setWidth 8])]
    | (c, bs) :: u => if c = a + 1 then (a, b.setWidth 8 :: bs) :: u else (a, [b.setWidth 8]) :: (c, bs) :: u

/-- Perform a side-log entry at the physical address of its block: a store's elements are marked that a single store wrote in
full (R63). -/
def State.performEntry (s : State) (l : LogEntry) (pa : Nat) (e : BitVec 128) : State :=
  let at_ (ia : Nat) : Nat := pa + (ia - l.ia)
  if l.red then
    match l.bytes with
    | [] => s
    | (a, _) :: _ =>
      let v := leNat ((List.range l.width).map fun i => (CMap.get l.bytes (a + i)).setWidth 8)
      let old := Memory.read s.mem (at_ a) l.width
      { s with mem := Memory.write s.mem (at_ a) l.width (AOp.add.apply l.ty old v 0) }
  else
    let s1 := (byteRuns l.bytes).foldl (fun (s : State) x =>
      s.storeLocal l.part l.ctx (l.va.toNat + (x.1 - l.ia)) (at_ x.1) e x.2 { path := l.path }) s
    if !entRed e then s1
    else
      match s1.collOf l.part l.ctx (entColl e) with
      | none => s1
      | some (k, c) =>
        if c.busy then
          { s1 with uid := s1.uid + 1 }.putColl k { c with
            held := c.held ++ l.ext.map fun x => (⟨s1.uid, l.path, 32, l.va, at_ l.ia, [], x, none, false⟩ : HeldStore) }
        else s1.putColl k (l.ext.foldl (fun c x => if c.busy then c else c.mark x.1 x.2 l.va.toNat (l.va.toNat + 64)) c)

/-- Discard an entry with a deferred fault that names its first byte (R112). -/
def State.discardEntry (s : State) (l : LogEntry) (c : BitVec 8) : State :=
  let first := (l.bytes.head?.map (·.1)).getD l.ia
  s.defer (l.group / 128) c (l.va + BitVec.ofNat 64 (first - l.ia)) (some (l.path, l.born))

/-- Whether a page belongs to a collective that has no entry in the context, or whose table has stopped (R61, R360). -/
def State.collGone (s : State) (part ctx : Nat) (e : BitVec 128) : Bool :=
  entRed e && (s.mgmt.selvDown || (s.collOf part ctx (entColl e)).isNone)

/-- Retry one entry with a fresh walk (R112): performed, kept, or discarded with a deferred fault: a reduction on a reduction page with
PERMISSION (R296), a store whose page's collective is gone with COLLECTIVE_MISMATCH (R61, log 76). -/
def State.retryEntry (s : State) (l : LogEntry) : State :=
  match s.walkFresh l.part l.ia .wr false false with
  | (.ok pa e _, s1) => if l.red && entRed e then s1.discardEntry l cPERMISSION else if s1.collGone l.part l.ctx e then s1.discardEntry l cCOLLECTIVE else s1.performEntry l pa e
  | (.fault c _, s1) =>
    if c = cNOTPRESENT then { s1 with sidelog := s1.sidelog ++ [l] } else s1.discardEntry l c
  | (.soft, s1) => { s1 with sidelog := s1.sidelog ++ [l] }

/-- Retry the entries that a test selects, in the order they were created; exits that waited for them complete (R113, R193). Those of a
gang killed meanwhile are discarded (R193). -/
def State.retryLog (s : State) (sel : LogEntry → Bool) : State :=
  let t := s.sidelog.foldl (fun (st : State) l =>
    if (FMap.get? st.gangs (l.group / 128)).all fun q => q.status == 5 || q.status == 4 then st
    else if sel l then st.retryEntry l else { st with sidelog := st.sidelog ++ [l] }) { s with sidelog := [] }
  s.sidelog.foldl (fun (st : State) l => st.reapGang (l.group / 128)) t

/-- Whether an entry holds bytes of a 64-byte block: a reduction of 8 bytes may reach into the next. -/
def LogEntry.on (l : LogEntry) (gk part ia : Nat) : Bool :=
  l.group == gk && l.part == part && (l.ia / 64 == ia / 64 || l.bytes.any fun x => x.1 / 64 == ia / 64)

/-- Whether a group has an entry on a 64-byte block. -/
def State.logsBlock (s : State) (gk part ia : Nat) : Bool := s.sidelog.any fun l => l.on gk part ia

/-- A new store entry; none when the core's 64 entries are in use. -/
def State.logNew (s : State) (r : Run) (blk : Nat) (va : BitVec 64) (ia : Nat) (new : List (Nat × BitVec 9)) (ext : Nat × Nat) :
    Option State :=
  if Config.sideLogSize ≤ (s.sidelog.filter fun l => l.core == r.wg.core).length then none
  else some { s with sidelog := s.sidelog ++ [{
    core := r.wg.core, group := r.gk, path := r.key, part := r.gang.part, ctx := r.gang.ctx, ia := blk,
    va := va - BitVec.ofNat 64 (ia - blk), bytes := CMap.setMany [] new, red := false, width := 0, ty := 0
    born := r.path.born, ext := [ext] }] }

/-- Change the last element of a list that a test finds. -/
def modLast {α : Type} (sel : α → Bool) (f : α → α) : List α → List α
  | [] => []
  | x :: t => if t.any sel then x :: modLast sel f t else if sel x then f x :: t else x :: t

/-- Log a store's bytes inside one block (R111): merged into the group's youngest entry for the block when that is a
store, else in a new entry; none when the core's 64 entries are in use. `ext` is the whole store's address and length. -/
def State.logStore (s : State) (r : Run) (ia : Nat) (va : BitVec 64) (bs : List Byte) (ext : Nat × Nat) : Option State :=
  let blk := ia / 64 * 64
  let new := (List.range bs.length).map fun i => (ia + i, 0x100#9 ||| (bs.getD i 0).setWidth 9)
  let mine (l : LogEntry) : Bool := l.on r.gk r.gang.part ia
  match (s.sidelog.filter mine).getLast? with
  | some y =>
    if y.red then s.logNew r blk va ia new ext
    else some { s with sidelog := modLast mine (fun l => { l with bytes := CMap.setMany l.bytes new, ext := l.ext ++ [ext] }) s.sidelog }
  | none => s.logNew r blk va ia new ext

/-- Log a reduction in its own entry (R111). -/
def State.logRed (s : State) (r : Run) (ia : Nat) (va : BitVec 64) (bs : List Byte) : Option State :=
  if Config.sideLogSize ≤ (s.sidelog.filter fun l => l.core == r.wg.core).length then none
  else some { s with sidelog := s.sidelog ++ [{
    core := r.wg.core, group := r.gk, path := r.key, part := r.gang.part, ctx := r.gang.ctx, ia := ia / 64 * 64,
    va := va - BitVec.ofNat 64 (ia % 64),
    bytes := CMap.setMany [] ((List.range bs.length).map fun i => (ia + i, 0x100#9 ||| (bs.getD i 0).setWidth 9)),
    red := true, width := bs.length, ty := r.T, born := r.path.born }] }

/-- Log a store's bytes, block by block. -/
def State.logBytes (s : State) (r : Run) (ia : Nat) (va : BitVec 64) (bs : List Byte) (ext : Nat × Nat) : Option State :=
  (blockParts ia bs.length).foldl (fun (s : Option State) (o, a, n) =>
    s.bind fun s => s.logStore r a (va + BitVec.ofNat 64 o) ((bs.drop o).take n) ext) (some s)

/-- The path that now holds a lane of a load. -/
def State.loadPath (s : State) (gk id L : Nat) : Option Nat :=
  (s.paths.find? fun x => x.1 / 32 == gk && x.2.loads.any fun l => l.id == id && l.lanes.any fun y => y.lane == L).map
    (·.1)

/-- One request of a load's lane is answered: its bytes, or its failure. -/
def State.laneArrived (s : State) (gk id L off : Nat) (code : BitVec 8) (data : Nat) : State :=
  match s.loadPath gk id L with
  | none => s
  | some k =>
    match FMap.get? s.paths k with
    | none => s
    | some p =>
      let upd (x : LoadLane) : LoadLane :=
        if x.lane = L then
          { x with miss := x.miss - 1
                   data := x.data ||| BitVec.ofNat 1024 (data * 2 ^ (8 * off))
                   code := if x.code = 0 then code else x.code }
        else x
      let s1 := s.putPath k { p with loads := p.loads.map fun l =>
        if l.id = id then { l with lanes := l.lanes.map upd } else l }
      if p.loads.any fun l => l.id == id && l.hold then s1.completeLoad k id else s1

end Sys2Proof.Machine
end

