-- ==== Sys2Proof/Machine/LoadStore.lean ====
section
/-! DEFINITION. Loads, stores, atomics and reductions (spec/17_memory_instructions.md R287–R300). -/

namespace Sys2Proof.Machine

/-! ### Lane slice, scratch, cluster memory, chip scratchpad -/

/-- The lanes of an access to an on-chip space with their effective offsets (R289). -/
def Run.spLanes (r : Run) (a off : BitVec 8) : List (Nat × Int) :=
  (lanesOf r.active).map fun L => (L, effOff (r.src32 a L) off)

/-- The registers a load writes: one, a pair or a quad. -/
def nregOf (quad : Bool) (t : Nat) : Nat := if quad then 4 else if tyIs64 t then 2 else 1

/-- The checks of a write to an on-chip space, in the order of R184; a scratch page that is not resident is filled before its tags are
tested (R96, R169). -/
def spWrite (s : State) (r : Run) (sp : Space) (lanes : List (Nat × Int)) (n align : Nat) (atomic : Bool) (k : State → Out) : Out :=
  if !(s.spFaults r sp lanes n align atomic false).isEmpty then .next (s.raiseLanes r (s.spFaults r sp lanes n align atomic true))
  else if s.rmwWait r then .next (s.hold r)
  else
    let t := s.touchLanes r sp lanes n
    if !t.1 then .next (t.2.hold r)
    else
      let fs := t.2.spFaults r sp lanes n align atomic true
      if !fs.isEmpty then .next (t.2.raiseLanes r fs) else k t.2

/-- A load from an on-chip space (R292). -/
def spLoad (i : Sys2Proof.Instr) (sp : Space) (quad : Bool) (a off : BitVec 8) (s : State) : Out :=
  withRun s fun r =>
    checked s r (r.legal i accAny (tyIs64 r.T) false false) (r.deadOf i false false) fun _ =>
      let n := if quad then 16 else tyBytes r.T
      let lanes := r.spLanes a off
      let fs := s.spFaults r sp lanes n (if quad then 16 else 1) false false
      if !fs.isEmpty then .next (s.raiseLanes r fs)
      else
        let t := s.touchLanes r sp lanes n
        if !t.1 then .next (t.2.hold r)
        else .next (t.2.issueLoad r (Instr.shape i).w (lanes.map fun x =>
          { lane := x.1, reg := (Instr.shape i).d, nreg := nregOf quad r.T
            data := BitVec.ofNat 1024 (if quad then s.spSee r sp x.1 x.2.toNat n else placeEl r.T (s.spSee r sp x.1 x.2.toNat n)) }))

/-- A store to an on-chip space (R294), lanes ascending. -/
def spStore (i : Sys2Proof.Instr) (sp : Space) (quad : Bool) (a off : BitVec 8) (s : State) : Out :=
  withRun s fun r =>
    checked s r (r.legal i accAny (tyIs64 r.T) false false) (r.deadOf i false false) fun _ =>
      let n := if quad then 16 else tyBytes r.T
      let lanes := r.spLanes a off
      spWrite s r sp lanes n (if quad then 16 else 1) false fun t =>
        .next ((lanes.foldl (fun (s : State) x =>
          s.spPost r sp x.1 x.2.toNat n (r.storeVal quad (Instr.shape i).d x.1)) t).doneSwitch r)

/-- D's alignment for CAS (R291): the pair or quad of registers it names. -/
def casOk (op : AOp) (t d : Nat) : Bool := op != .cas || d % (if tyIs64 t then 4 else 2) == 0

/-- Types of an operation (R291). -/
def AOp.acc (op : AOp) (t : Nat) : Bool :=
  match op with
  | .and | .or | .xor => accWord t
  | _ => accAtomic t

/-- An atomic or reduction on an on-chip space (R299): lanes ascending, each on what the lanes before it left. -/
def spAtomic (i : Sys2Proof.Instr) (sp : Space) (op : AOp) (ret : Bool) (align : Nat → Nat) (a off : BitVec 8)
    (s : State) : Out :=
  withRun s fun r =>
    checked s r (r.legal i op.acc (tyIs64 r.T) false false && casOk op r.T (Instr.shape i).d) (r.deadOf i false false) fun _ =>
      let n := tyBytes r.T
      let d := (Instr.shape i).d
      let lanes := r.spLanes a off
      spWrite s r sp lanes n (align r.T) true fun t =>
        let x := lanes.foldl (fun (acc : List LoadLane × State) y =>
          let old := acc.2.spGet r sp y.1 y.2.toNat n
          (acc.1 ++ [{ lane := y.1, reg := d, nreg := nregOf false r.T, data := BitVec.ofNat 1024 old }],
            acc.2.spPut r sp y.1 y.2.toNat n (op.apply r.T old (r.dval r.T d y.1).toNat (r.casNew d y.1)))) ([], t)
        .next (if ret then x.2.issueLoad r (Instr.shape i).w x.1 else x.2.doneSwitch r)

/-! ### Global memory: the parts of a lane's access -/

/-- The effective address of a lane in G (R289). -/
def Run.ea (r : Run) (a off : BitVec 8) (L : Nat) : BitVec 64 := addOff (r.srcPair a L) off

/-- Whether an address lies on a 2 MiB page. -/
def State.largeAt (s : State) (part ia : Nat) : Bool :=
  match freshWalk s.mem (s.part part).ptroot ia with
  | .leaf _ _ large => large
  | _ => false

/-- The leaf a part reached, if any. -/
def Piece.entry : Piece → Option (BitVec 128)
  | .loc _ _ _ e => some e
  | .fab _ _ _ _ e => some e
  | .bad _ _ _ _ e => e
  | .borrow .. => none

/-- The cause of the lowest level among parts (R184). -/
def worst : List (BitVec 8) → Option (BitVec 8)
  | [] => none
  | c :: t =>
    match worst t with
    | none => some c
    | some d => some (if causeLevel c ≤ causeLevel d then c else d)

/-- The bytes a load takes from a part (R113): `error` its cause; `ok none` it waits for a logged reduction; bytes
through a window are zero until they arrive. -/
def State.pieceLoad (s : State) (gk part : Nat) (p : Piece) : Except (BitVec 8) (Option (List Byte)) :=
  let fwd (ia k : Nat) := logByte s.sidelog gk part (ia + k)
  match p with
  | .loc ia pa len _ =>
    if (List.range len).any fun k => fwd ia k == some none then .ok none
    else .ok (some ((List.range len).map fun k =>
      match fwd ia k with
      | some (some b) => b
      | _ => CMap.get s.mem (pa + k)))
  | .fab _ _ _ len _ => .ok (some (List.replicate len 0))
  | .borrow _ _ => .error cPERMISSION
  | .bad c ia len fabric _ =>
    if c = cNOTPRESENT && !fabric && (List.range len).all fun k => (fwd ia k).any (·.isSome) then
      .ok (some ((List.range len).map fun k => ((fwd ia k).getD none).getD 0))
    else .error c

/-- Bytes of a lane that a request brings: link group, node address, length, the offset in the lane's span, and the ordering kind of the
page (R197). `here`: bytes of an SO page of local memory, which wait for the accesses before them. -/
structure FReq where
  group : Nat
  addr  : Nat
  len   : Nat
  off   : Nat
  so    : Bool := false
  uo    : Bool := false
  here  : Bool := false
deriving DecidableEq, Repr

/-- What a lane's load meets: a cause (and whether a walk found it), a wait, or a value with the requests that bring its
missing bytes. -/
inductive LaneRes where
  | bad (c : BitVec 8) (walk : Bool)
  | wait
  | ok (x : LoadLane) (fl : Flags) (reqs : List FReq)
deriving DecidableEq, Repr

/-- An access to an SO page waits for the lane's earlier ones through windows, and for a store that the Selvedge holds (R197, R200). -/
def State.soBusy (s : State) (r : Run) : Bool :=
  (s.reqs.any fun q => q.so && q.isOf r.key && r.path.mask.getLsbD q.lane) || s.collHeld r.key r.path.mask

/-- Whether a part lies on an SO page. -/
def Piece.so : Piece → Bool
  | .loc _ _ _ e => entOrd e == 0
  | .fab _ _ _ _ e => entOrd e == 0
  | _ => false

/-- The window that a request goes through; none for an access to local memory that waits. -/
def Req.win (q : Req) : Option Nat := if q.kind == 5 || q.here.isSome then none else some q.group

/-- Whether an access of a lane to a place has not gone out yet: a STGR that waits (R36, R298), or an access to an SO page (R197). The
lane's younger accesses to these bytes wait for it (R199, R207). -/
def State.heldAt (s : State) (gk L : Nat) (win : Option Nat) (addr len : Nat) : Bool :=
  s.reqs.any fun q => !q.sent && decide (q.kind < 6) && q.path / 32 == gk && q.lane == L && q.win == win &&
    decide (q.addr.toNat < addr + len) && decide (addr < q.addr.toNat + q.len)

/-- The same for a part of an access. -/
def State.heldPart (s : State) (gk L : Nat) : Piece → Bool
  | .loc _ pa len _ => s.heldAt gk L none pa len
  | .fab g _ addr len _ => s.heldAt gk L (some g) addr len
  | _ => false

/-- The parts of a load, each with whether it waits for an earlier access of its instruction: bytes of an SO page of local memory that no
side-log entry gives, after an access to an SO page through a window (R197, R198). -/
def State.lateParts (s : State) (gk part : Nat) (late : Bool) : List Piece → List (Piece × Bool)
  | [] => []
  | p :: t =>
    let own := match p with
      | .loc ia _ len e => late && entOrd e == 0 && !((List.range len).any fun k => (logByte s.sidelog gk part (ia + k)).isSome)
      | _ => false
    let sent := match p with
      | .fab _ _ _ _ e => entOrd e == 0
      | _ => false
    (p, own) :: s.lateParts gk part (late || sent) t

/-- The requests of a part at an offset of the span. -/
def Piece.reqs (off : Nat) (p : Piece × Bool) : List FReq :=
  match p.1 with
  | .fab g _ addr len e => (blockParts addr len).map fun x => ⟨g, x.2.1, x.2.2, off + x.1, entOrd e == 0, entOrd e == 2, false⟩
  | .loc _ pa len _ => if p.2 then (blockParts pa len).map fun x => ⟨0, x.2.1, x.2.2, off + x.1, true, false, true⟩ else []
  | _ => []

def Piece.len : Piece → Nat
  | .loc _ _ n _ => n
  | .fab _ _ _ n _ => n
  | .borrow _ n => n
  | .bad _ _ n _ _ => n

/-- The q4x scale byte of an element (R106, R118): a byte with the requests that bring it, none while a logged reduction holds it, or
a cause. A byte of local memory is the group's logged one where there is one (R113). -/
def State.scaleByte (s : State) (gk : Option Nat) (part ia : Nat) (e : BitVec 128) (window : Option Nat) :
    Except (BitVec 8) (Option (Nat × List FReq)) × State :=
  let page := if s.largeAt part ia then 2 ^ 21 else 2 ^ 16
  let sa := entScale e + ia % page / (16 * 2 ^ entBlk e)
  match (if window.isSome then none else gk.bind fun g => logByte s.sidelog g part sa) with
  | some (some b) => (.ok (some (b.toNat, [])), s)
  | some none => (.ok none, s)
  | none =>
    match s.walk part sa .rd false window.isSome with
    | (.ok pa x _, s1) =>
      match window with
      | none => (.ok (some ((CMap.get s1.mem pa).toNat, [])), s1)
      | some g => (.ok (some (0, [⟨g, pa, 1, 8, entOrd x == 0, entOrd x == 2, false⟩])), s1)
    | (.fault c _, s1) => (.error c, s1)
    | (.soft, s1) => (.error cNOTPRESENT, s1)

/-- One lane's load of n elements from G (R292, R293). `acq`: LDGA; `late`: a lane before it reads an SO page through a window. -/
def State.gLoadLane (s : State) (r : Run) (d L : Nat) (ea : BitVec 64) (n : Nat) (quad acq late : Bool) : LaneRes × State :=
  let part := r.gang.part
  let x := s.piece r.path.aper part ea.toNat 1 .rd
  let f := (x.1.entry.map entFmt).getD r.T
  let walked := match x.1 with
    | .loc .. => true
    | .fab .. => true
    | _ => false
  let span := fmtSpan r.T f n
  if walked && quad && ea.toNat % span ≠ 0 then (.bad cMISALIGN false, x.2)
  else if walked && !rawLoad r.T f && f == 14 && (n % 4 ≠ 0 || ea.toNat % 2 ≠ 0) then (.bad cFORMAT true, x.2)
  else
    let y := x.2.pieces r.path.aper part .rd 3 ea.toNat (max span 1)
    let res := y.1.map fun p => y.2.pieceLoad r.gk part p
    match worst (res.filterMap fun e => match e with | .error c => some c | .ok _ => none) with
    | some c => (.bad c (y.1.any fun p => match p with | .bad c' _ _ _ _ => c' == c && c != cAPERTURE | _ => false), y.2)
    | none =>
      if acq && y.1.any fun p => p.entry.any entRed then (.bad cPERMISSION false, y.2)
      else if (res.any fun e => match e with | .ok none => true | _ => false) || (y.1.any (y.2.heldPart r.gk L)) ||
          ((y.1.any Piece.so) && y.2.soBusy r) then (.wait, y.2)
      else
        let ps := y.2.lateParts r.gk part late y.1
        let bytes := (res.zip ps).flatMap fun e => match e.1 with
          | .ok (some b) => if e.2.2 then List.replicate b.length 0 else b
          | _ => []
        let reqs := (ps.foldl (fun (a : List FReq × Nat) p => (a.1 ++ Piece.reqs a.2 p, a.2 + p.1.len)) ([], 0)).1
        let window := match x.1 with
          | .fab g _ _ _ _ => some g
          | _ => none
        let sc : Except (BitVec 8) (Option (Nat × List FReq)) × State :=
          if rawLoad r.T f || f != 14 then (.ok (some (0, [])), y.2)
          else match x.1 with
            | .loc ia _ _ e => y.2.scaleByte (some r.gk) part ia e window
            | .fab _ ia _ _ e => y.2.scaleByte (some r.gk) part ia e window
            | .bad _ ia _ _ (some e) => y.2.scaleByte (some r.gk) part ia e none
            | _ => (.ok (some (0, [])), y.2)
        match sc.1 with
        | .error c => (.bad c true, sc.2)
        | .ok none => (.wait, sc.2)
        | .ok (some (scale, more)) =>
          let raw := leNat bytes
          let base : LoadLane := { lane := L, reg := d, nreg := nregOf quad r.T, data := 0, va := ea }
          if reqs.isEmpty && more.isEmpty then
            let v := decodeEls r.path.gm f n raw scale
            (.ok { base with data := BitVec.ofNat 1024 v.1, fl := v.2 } v.2 [], sc.2)
          else
            (.ok { base with data := BitVec.ofNat 1024 (raw + scale * 2 ^ 64), miss := reqs.length + more.length, raw := true
                             fmt := f, n := n, gm := r.path.gm } 0 (reqs ++ more), sc.2)

/-- The requests of a load's lanes, not yet numbered. -/
def Run.loadReqs (r : Run) (kind : Nat) (mk : Req → Req) (lanes : List (LoadLane × List FReq)) : List Req :=
  lanes.flatMap fun x => x.2.map fun q => mk { r.req 0 kind q.group x.1.lane x.1.va q.addr q.len 0 with
    off := q.off, so := q.so, uo := q.uo, here := if q.here then some (0, 0, 0) else none }

/-- Send the requests of a load's lanes; a lane whose request finds no path fails with NO_PATH, which fails later flags when the
request would have written (R36). -/
def State.sendLoad (s : State) (r : Run) (id kind : Nat) (mk : Req → Req) (lanes : List (LoadLane × List FReq)) : List LoadLane × State :=
  let z := lanes.foldl (fun (acc : List LoadLane × List Nat × State) x =>
    let y := (r.loadReqs kind mk [x]).foldl (fun (a : LoadLane × List Nat × State) q =>
      let f := a.2.2.fresh
      let q1 := { q with id := f.1, load := id }
      match f.2.make q1 a.2.1 with
      | (false, s') => (a.1, q1.after a.2.1, s')
      | (true, s') => ({ a.1 with miss := a.1.miss - 1, code := 3 }, a.2.1, if kind = 0 then s' else s'.postFail q1 3 none false))
      (x.1, acc.2)
    (acc.1 ++ [y.1], y.2)) ([], [], s)
  (z.1, z.2.2)

/-- Issue a load whose lanes may wait for a window: held at its pc, or a status variant that goes on. `unit` for one
unit of a long instruction. -/
def State.issueFab (s : State) (r : Run) (wr status unit : Bool) (kind : Nat) (mk : Req → Req) (lanes : List (LoadLane × List FReq)) :
    State :=
  let f := s.fresh
  let l : Load := { id := f.1, wr := wr, status := status, hold := !status, unit := unit, lanes := lanes.map (·.1) }
  let p := if status then r.path.pastSwitch (s.rctx r).aper (r.path.pc + 4) else { r.path with wait := .load f.1 }
  let s1 := f.2.putPath r.key { p with loads := p.loads ++ [l] }
  let y := s1.sendLoad r f.1 kind mk lanes
  let s2 := match FMap.get? y.2.paths r.key with
    | some p => y.2.putPath r.key { p with loads := p.loads.map fun x => if x.id = f.1 then { x with lanes := y.1 } else x }
    | none => y.2
  if status then s2 else s2.completeLoad r.key f.1

/-- Whether an address lies in a local-memory aperture or a fabric window, so that its LDGQ is tested after the walk (R290). -/
def walked (aper : CMap 64) (ea : BitVec 64) : Bool :=
  decide (ea.toNat < 2 ^ 57) && (aperFind aper ea.toNat).any fun x => x.1 != 2

/-- A load from G: LDG, LDGQ, LDGA, and the status variant LDGS (R292, R293, R297). -/
def gLoad (i : Sys2Proof.Instr) (quad acq status : Bool) (a off : BitVec 8) (s : State) : Out :=
  withRun s fun r =>
    checked s r (r.legal i accAny (tyIs64 r.T) false false) 0 fun _ =>
      let d := (Instr.shape i).d
      let w := (Instr.shape i).w
      let n := if quad then 16 / tyBytes r.T else 1
      let x := (lanesOf r.active).foldl (fun (acc : List (Nat × BitVec 64 × LaneRes) × State) L =>
        let ea := r.ea a off L
        let late := acc.1.any fun z => match z.2.2 with | .ok _ _ rq => rq.any (·.so) | _ => false
        let y := if (acq && decide (ea.toNat % tyBytes r.T ≠ 0)) || (quad && decide (ea.toNat % 16 ≠ 0) && !walked r.path.aper ea) then
                   (LaneRes.bad cMISALIGN false, acc.2)
                 else acc.2.gLoadLane r d L ea n quad acq late
        (acc.1 ++ [(L, ea, y.1)], y.2)) ([], s)
      let fs := x.1.filterMap fun y => match y.2.2 with
        | .bad c walk => if status && walk then none else some ⟨y.1, c, y.2.1⟩
        | _ => none
      let lanes := x.1.filterMap fun y => match y.2.2 with
        | .ok l _ rq => some (l, rq)
        | .bad c _ => some ({ lane := y.1, reg := d, nreg := 0, data := 0, va := y.2.1, code := 0x40 + c }, [])
        | .wait => none
      let fl := x.1.foldl (fun (f : Flags) y => match y.2.2 with | .ok _ g _ => f ||| g | _ => f) 0
      let nreq := lanes.foldl (fun m y => m + y.2.length) 0
      if !fs.isEmpty then .next (x.2.raiseLanes r fs)
      else if (x.1.any fun y => y.2.2 == .wait) || !x.2.fabRoom (r.loadReqs 0 id lanes) then .next (x.2.hold r)
      else if lanes.isEmpty || (nreq = 0 && !status) then
        .next ((x.2.putGroup r.gk (r.group.raise fl)).issueLoad r w (lanes.map fun y => { y.1 with fl := 0 }))
      else .next ((x.2.issueFab r (w = 0) status false 0 id lanes).untilPerformed r)

/-! ### Stores to global memory (R294–R298) -/

/-- The forms of a store; `unit` is one unit of SCAT or STGC. -/
inductive SForm where
  | plain | quad | release | status | unit
deriving DecidableEq, Repr

/-- What a store's lane does with one part of its bytes. -/
inductive SPart where
  | write (pa : Nat) (e : BitVec 128)
  | log (ia : Nat)
  | discard (c : BitVec 8)
  | send (group addr : Nat) (e : BitVec 128)
  | fail (c : BitVec 8)
  | code (c : BitVec 8) (fabric : Bool)
  | fault (c : BitVec 8)
deriving DecidableEq, Repr

/-- R295 for one part: precise, logged, discarded, status, or a posted failure. -/
def storePart (f : SForm) (p : Piece) : SPart :=
  match p with
  | .loc _ pa _ e => if f == .release && entRed e then .fault cPERMISSION else .write pa e
  | .fab g _ addr _ e => if f == .release && entRed e then .fault cPERMISSION else .send g addr e
  | .borrow _ _ => .fault cPERMISSION
  | .bad c ia _ fabric e =>
    if c = cAPERTURE then .fault c
    else if fabric then (if f == .status then .code c true else .fail c)
    else
      match f with
      | .status => .code c false
      | .quad => .fault c
      | .plain =>
        if e.any fun x => entOrd x == 0 then .fault c else if c = cNOTPRESENT then .log ia else .discard c
      | .unit => if c = cNOTPRESENT && !(e.any fun x => entOrd x == 0) then .log ia else .fault c
      | .release => if e.any fun x => entOrd x == 0 then .fault c else .discard c

/-- The leaf that a part is performed under. -/
def SPart.entry : SPart → Option (BitVec 128)
  | .write _ e => some e
  | .send _ _ e => some e
  | _ => none

/-- The lane's parts with the offset, length and outcome of each. -/
abbrev StoreLane := Nat × BitVec 64 × List (Nat × Nat × SPart)

/-- Walk a lane's store. -/
def State.storeLane (s : State) (r : Run) (f : SForm) (nd : Need) (L : Nat) (ea : BitVec 64) (n : Nat) : StoreLane × State :=
  let y := s.pieces r.path.aper r.gang.part nd 3 ea.toNat n
  ((L, ea, (y.1.foldl (fun (a : List (Nat × Nat × SPart) × Nat) p =>
    (a.1 ++ [(a.2, p.len, storePart f p)], a.2 + p.len)) ([], 0)).1), y.2)

/-- The precise causes of a lane. -/
def StoreLane.faults (x : StoreLane) : List LaneFault :=
  match worst (x.2.2.filterMap fun p => match p.2.2 with | .fault c => some c | _ => none) with
  | some c => [⟨x.1, c, x.2.1⟩]
  | none => []

/-- Whether logging every part of every lane finds room; the lanes that do not (R111). -/
def State.logTrial (s : State) (r : Run) (lanes : List StoreLane) (val : Nat → Nat) (n : Nat) : List LaneFault :=
  (lanes.foldl (fun (acc : List LaneFault × State) x =>
    let bs := leBytes (val x.1) n
    let y := x.2.2.foldl (fun (o : Option State) p => match p.2.2 with
      | .log ia => o.bind fun s => s.logBytes r ia (x.2.1 + BitVec.ofNat 64 p.1) ((bs.drop p.1).take p.2.1) (x.2.1.toNat, n)
      | _ => o) (some acc.2)
    match y with
    | some s' => (acc.1, s')
    | none => (acc.1 ++ [⟨x.1, cNOTPRESENT, x.2.1⟩], acc.2)) ([], s)).1

/-- The numbers of what a STGR of a run follows: the writes and atomics (R36, R298), stores that the Selvedge holds (R63), reads through
windows that await their response, but for those of UO pages (R197, R203). -/
def State.priorWrites (s : State) (r : Run) : List Nat :=
  (s.allReqs.filter fun q => q.by r.key || (q.kind == 0 && !q.uo && q.isOf r.key)).map (·.id)

/-- The intermediate address of a virtual one (for the side log's blocks). -/
def Run.iaOf (r : Run) (va : Nat) : Nat := ((aperFind r.path.aper va).map (·.2.2)).getD 0

/-- What a store's parts share: form, effective address and length of the lane's store, what a release waits for, whether an earlier
write has failed, the status record's number. -/
structure StoreArgs where
  f     : SForm
  ea    : BitVec 64 := 0
  n     : Nat := 0
  prior : List Nat := []
  bad   : Bool := false
  load  : Nat := 0

/-- A STGR that waits (R36, R298), or is withheld because a write before it has failed (R38, R207). -/
def State.holdFlag (s : State) (q : Req) (bad : Bool) : State := if bad then s.postFail q 4 none else { s with reqs := s.reqs ++ [q] }

/-- Perform one part of a lane's store. `prev` are the numbers of the instruction's requests on SO pages so far. -/
def State.storeOne (s : State) (r : Run) (a : StoreArgs) (L : Nat) (va : BitVec 64) (bs : List Byte) (p : SPart) (prev : List Nat) :
    List Nat × State :=
  let w : Storer := ⟨r.key, L, (a.ea.toNat, a.n), 0⟩
  match p with
  | .write pa e =>
    let so := entOrd e == 0
    let late := so && prev.any s.pends
    if a.f == .release && (a.bad || !a.prior.isEmpty || late || s.unperformed r.gk r.key r.path.mask) then
      let x := s.fresh
      let q := { r.req x.1 5 0 L va pa bs.length (leNat bs) with covers := a.prior, so := so }
      (q.after prev, x.2.holdFlag q a.bad)
    else if late then
      let x := s.fresh
      let q := { r.req x.1 1 0 L va pa bs.length (leNat bs) with so := true, here := some (e, w.ext) }
      (q.after prev, (x.2.make q prev).2)
    else
      let s1 := s.storeLocal r.gang.part r.gang.ctx va.toNat pa e bs w
      (if so && s.uid < s1.uid then prev ++ [s.uid] else prev, s1)
  | .log ia => (prev, ((s.logBytes r ia va bs (a.ea.toNat, a.n)).getD s).defer r.gid cNOTPRESENT a.ea (some (r.key, r.path.born)))
  | .discard c => (prev, s.defer r.gid c a.ea (some (r.key, r.path.born)))
  | .send g addr e =>
    match a.f with
    | .release =>
      let x := s.fresh
      let q := { r.req x.1 4 g L va addr bs.length (leNat bs) with covers := a.prior, so := entOrd e == 0, uo := entOrd e == 2 }
      (q.after prev, x.2.holdFlag q a.bad)
    | _ =>
      let qs := r.writeReqs g L va addr bs e w.ext
      if a.f == .status then
        qs.foldl (fun (acc : List Nat × State) q =>
          let x := acc.2.fresh
          let q1 := { q with id := x.1, load := a.load }
          match x.2.make q1 acc.1 with
          | (false, s') => (q1.after acc.1, s')
          | (true, s') => (acc.1, (s'.postFail q1 3 none false).laneArrived r.gk a.load L 0 3 0)) (prev, s)
      else s.postReqs prev qs
  | .fail c =>
    let x := s.fresh
    (prev, x.2.postFail (r.req x.1 1 0 L va 0 bs.length 0) (0x40 + c) none)
  | .code c true =>
    let x := s.fresh
    (prev, x.2.postFail (r.req x.1 1 0 L va 0 bs.length 0) (0x40 + c) none false)
  | .code _ false => (prev, s)
  | .fault _ => (prev, s)

/-- The requests a lane's store makes at once. -/
def StoreLane.reqs (x : StoreLane) (r : Run) (bs : List Byte) : List Req :=
  x.2.2.flatMap fun p => match p.2.2 with
    | .send g addr e =>
      r.writeReqs g x.1 (x.2.1 + BitVec.ofNat 64 p.1) addr ((bs.drop p.1).take p.2.1) e (x.2.1.toNat, bs.length)
    | _ => []

/-- Perform every lane's store, lanes ascending. -/
def State.storeLanes (s : State) (r : Run) (a : StoreArgs) (lanes : List StoreLane) (val : Nat → Nat) (n : Nat) : State :=
  (lanes.foldl (fun (acc : List Nat × State) x =>
    let bs := leBytes (val x.1) n
    x.2.2.foldl (fun (acc : List Nat × State) p =>
      acc.2.storeOne r { a with ea := x.2.1, n := n } x.1 (x.2.1 + BitVec.ofNat 64 p.1) ((bs.drop p.1).take p.2.1) p.2.2 acc.1) acc)
    ([], s)).2

/-- A reduction page whose collective has no entry in the storing context (R61), or whose table has stopped (R360). -/
def State.noColl (s : State) (r : Run) (lanes : List StoreLane) : Bool :=
  lanes.any fun x => x.2.2.any fun p => p.2.2.entry.any fun e => s.collGone r.gang.part r.gang.ctx e

/-- Whether a lane's store waits: for an access of the lane to its bytes that has not gone out (R298); a block that the group has logged
bytes of (R113, log 77); an SO page with an earlier SO access on its way (R197). -/
def State.storeWaits (s : State) (r : Run) (x : StoreLane) : Bool :=
  x.2.2.any fun p => match p.2.2 with
    | .write pa e =>
      let va := (x.2.1 + BitVec.ofNat 64 p.1).toNat
      s.heldAt r.gk x.1 none pa p.2.1 || s.logsBlock r.gk r.gang.part (r.iaOf va) ||
        s.logsBlock r.gk r.gang.part (r.iaOf (va + p.2.1 - 1)) || (entOrd e == 0 && s.soBusy r)
    | .send g addr e => s.heldAt r.gk x.1 (some g) addr p.2.1 || (entOrd e == 0 && s.soBusy r)
    | _ => false

/-- A store to G: STG, STGQ, STGR, and the status variant STGS. A misaligned lane is not walked (R290). STGR never waits itself: what it
follows holds its flag (R36, R298). -/
def gStore (i : Sys2Proof.Instr) (f : SForm) (a off : BitVec 8) (s : State) : Out :=
  withRun s fun r =>
    checked s r (r.legal i accAny (tyIs64 r.T) false false) 0 fun _ =>
      let d := (Instr.shape i).d
      let n := if f == .quad then 16 else tyBytes r.T
      let align := match f with
        | .quad => 16
        | .release => tyBytes r.T
        | _ => 1
      let act := lanesOf r.active
      let mis := (act.filter fun L => (r.ea a off L).toNat % align != 0).map fun L => (⟨L, cMISALIGN, r.ea a off L⟩ : LaneFault)
      let x := act.foldl (fun (acc : List StoreLane × State) L =>
        let y := if mis.any fun z => z.lane == L then ((L, r.ea a off L, []), acc.2) else acc.2.storeLane r f .wr L (r.ea a off L) n
        (acc.1 ++ [y.1], y.2)) ([], s)
      let val := r.storeVal (f == .quad) d
      let sure := mis ++ x.1.flatMap StoreLane.faults
      let fs := sure ++ x.2.logTrial r (x.1.filter fun y => !(sure.any fun z => z.lane == y.1)) val n
      let prior := if f == .release then x.2.priorWrites r else []
      let reqs := x.1.flatMap fun y => y.reqs r (leBytes (val y.1) n)
      if !fs.isEmpty then .next (x.2.raiseLanes r fs)
      else if x.2.noColl r x.1 then .next (x.2.raiseWhole r cCOLLECTIVE)
      else if f != .release && ((x.1.any (x.2.storeWaits r)) || x.2.rmwWait r || !x.2.fabRoom reqs) then
        .next (x.2.hold r)
      else if f == .status && r.active ≠ 0 then
        let id := x.2.fresh
        let lanes := x.1.map fun y =>
          let c := worst (y.2.2.filterMap fun p => match p.2.2 with | .code c _ => some c | _ => none)
          ({ lane := y.1, reg := d, nreg := 0, data := 0, va := y.2.1
             miss := if c.isSome then 0 else (y.reqs r (leBytes (val y.1) n)).length
             code := (c.map fun c => 0x40 + c).getD 0 } : LoadLane)
        let l : Load := { id := id.1, wr := false, status := true, hold := false, lanes := lanes }
        let s1 := id.2.putPath r.key { r.path.pastSwitch (s.rctx r).aper (r.path.pc + 4) with loads := r.path.loads ++ [l] }
        let good := x.1.map fun y =>
          if y.2.2.any fun p => match p.2.2 with | .code _ _ => true | _ => false then
            (y.1, y.2.1, y.2.2.filter fun p => match p.2.2 with | .code _ _ => true | _ => false)
          else y
        .next ((s1.storeLanes r { f := f, load := id.1 } good val n).untilPerformed r)
      else
        .next (((x.2.putPath r.key (r.path.pastSwitch (s.rctx r).aper (r.path.pc + 4))).storeLanes r
          { f := f, prior := prior, bad := !r.path.fails.isEmpty } x.1 val n).untilPerformed r)

/-! ### Atomics and reductions on global memory (R299, R300) -/

/-- Walk a lane's atomic: alignment, aperture, straddle (R198, R290), then the parts. -/
def State.atomLane (s : State) (r : Run) (nd : Need) (ea : BitVec 64) (n : Nat) : List Piece × Option (BitVec 8) × State :=
  let va := ea.toNat
  let kind := (aperFind r.path.aper va).map (·.1)
  let cross := decide (va / 65536 ≠ (va + n - 1) / 65536)
  if va % (if kind = some 1 then n else 4) ≠ 0 then ([], some cMISALIGN, s)
  else if cross && (decide (2 ^ 57 ≤ va + n - 1) || kind.isNone || (aperFind r.path.aper (va + n - 1)).isNone) then
    ([], some cAPERTURE, s)
  else if cross && (decide (va / 2 ^ 21 ≠ (va + n - 1) / 2 ^ 21) || !s.largeAt r.gang.part (r.iaOf va)) then
    ([], some cSTRADDLE, s)
  else
    let y := s.pieces r.path.aper r.gang.part nd 3 va n
    (y.1, none, y.2)

/-- What an atomic's lane does: local at a physical address, through a window, or a cause (and whether a walk found
it, and whether the page is SO). -/
inductive ARes where
  | loc (pa ia : Nat) (so : Bool)
  | fab (group addr : Nat) (so uo : Bool)
  | bad (c : BitVec 8) (walk fabric so : Bool) (ia : Nat)
deriving DecidableEq, Repr

/-- The outcome of an atomic's parts. -/
def atomRes (ps : List Piece) (pre : Option (BitVec 8)) : ARes :=
  match pre with
  | some c => .bad c false false false 0
  | none =>
    match ps.find? fun p => match p with | .bad .. => true | _ => false with
    | some (.bad c ia _ fabric e) => .bad c (c != cAPERTURE) fabric (e.any fun x => entOrd x == 0) ia
    | _ =>
      if ps.any fun p => p.entry.any entRed then .bad cPERMISSION false false false 0
      else
        match ps with
        | .loc ia pa _ e :: _ => .loc pa ia (entOrd e == 0)
        | .fab g _ addr _ e :: _ => .fab g addr (entOrd e == 0) (entOrd e == 2)
        | _ => .bad cPERMISSION false false false 0

/-- Whether a lane's atomic or reduction of n bytes waits: for logged entries on its block (R113), an access of the lane to its bytes that
has not gone out, the lane's earlier SO accesses (R197). -/
def State.atomWaits (s : State) (r : Run) (n L : Nat) : ARes → Bool
  | .loc pa ia so => s.logsBlock r.gk r.gang.part ia || s.logsBlock r.gk r.gang.part (ia + n - 1) || s.heldAt r.gk L none pa n ||
      (so && s.soBusy r)
  | .fab g addr so _ => s.heldAt r.gk L (some g) addr n || (so && s.soBusy r)
  | .bad .. => false

/-- The lanes of an atomic, each with whether it waits for a lane before it: on an SO page of local memory, after a lane on an SO page
through a window (R197). -/
def lateLanes (late : Bool) : List (Nat × BitVec 64 × ARes) → List ((Nat × BitVec 64 × ARes) × Bool)
  | [] => []
  | z :: t =>
    let own := match z.2.2 with
      | .loc _ _ so => late && so
      | _ => false
    let sent := match z.2.2 with
      | .fab _ _ so _ => so
      | _ => false
    (z, own) :: lateLanes (late || sent) t

/-- ATG.* and ATGS.* (R297, R299). -/
def gAtomic (i : Sys2Proof.Instr) (op : AOp) (status : Bool) (a off : BitVec 8) (s : State) : Out :=
  withRun s fun r =>
    checked s r (r.legal i op.acc (tyIs64 r.T) false false && casOk op r.T (Instr.shape i).d) 0 fun _ =>
      let n := tyBytes r.T
      let d := (Instr.shape i).d
      let w := (Instr.shape i).w
      let x := (lanesOf r.active).foldl (fun (acc : List (Nat × BitVec 64 × ARes) × State) L =>
        let y := acc.2.atomLane r .rmw (r.ea a off L) n
        (acc.1 ++ [(L, r.ea a off L, atomRes y.1 y.2.1)], y.2.2)) ([], s)
      let fs := x.1.filterMap fun y => match y.2.2 with
        | .bad c walk _ _ _ => if status && walk then none else some (⟨y.1, c, y.2.1⟩ : LaneFault)
        | _ => none
      let waits := x.2.rmwWait r || x.1.any fun y => x.2.atomWaits r n y.1 y.2.2
      let nreq := (x.1.filter fun y => match y.2.2 with | .fab .. => true | _ => false).length
      let mk (q : Req) : Req :=
        { q with op := op.code + 8 * r.T, data := BitVec.ofNat 512 ((r.dval r.T d q.lane).toNat + r.casNew d q.lane * 2 ^ 64) }
      let reqs := x.1.filterMap fun y => match y.2.2 with
        | .fab g addr _ _ => some (r.req 0 2 g y.1 y.2.1 addr n 0)
        | _ => none
      if !fs.isEmpty then .next (x.2.raiseLanes r fs)
      else if waits || !x.2.fabRoom reqs then .next (x.2.hold r)
      else
        let y := (lateLanes false x.1).foldl (fun (acc : List (LoadLane × List FReq) × State) zl =>
          let z := zl.1
          let base : LoadLane := { lane := z.1, reg := d, nreg := nregOf false r.T, data := 0, va := z.2.1 }
          let later (q : FReq) := (acc.1 ++ [({ base with miss := 1, raw := true, fmt := r.T, gm := r.path.gm }, [q])], acc.2)
          match z.2.2 with
          | .loc pa _ _ => if zl.2 then later ⟨0, pa, n, 0, true, false, true⟩ else
            let old := Memory.read acc.2.mem pa n
            (acc.1 ++ [({ base with data := BitVec.ofNat 1024 old }, [])],
              { acc.2 with mem := Memory.write acc.2.mem pa n (op.apply r.T old (r.dval r.T d z.1).toNat (r.casNew d z.1)) })
          | .fab g addr so uo => later ⟨g, addr, n, 0, so, uo, false⟩
          | .bad c _ fabric _ _ =>
            let f := acc.2.fresh
            (acc.1 ++ [({ base with nreg := 0, code := 0x40 + c }, [])],
              if fabric then f.2.postFail (r.req f.1 2 0 z.1 z.2.1 0 n 0) (0x40 + c) none false else acc.2)) ([], x.2)
        let r1 := (y.2.runAt r.key).getD r
        if y.1.isEmpty || (nreq = 0 && !status) then .next (y.2.issueLoad r1 w (y.1.map (·.1)))
        else .next ((y.2.issueFab r1 (w = 0) status false 2 mk y.1).untilPerformed r)

/-- REDG (R300): ADD without return, needing WR alone, loggable. -/
def gReduce (i : Sys2Proof.Instr) (a off : BitVec 8) (s : State) : Out :=
  withRun s fun r =>
    checked s r (r.legal i accAtomic (tyIs64 r.T) false false) 0 fun _ =>
      let n := tyBytes r.T
      let d := (Instr.shape i).d
      let x := (lanesOf r.active).foldl (fun (acc : List (Nat × BitVec 64 × ARes) × State) L =>
        let y := acc.2.atomLane r .wr (r.ea a off L) n
        (acc.1 ++ [(L, r.ea a off L, atomRes y.1 y.2.1)], y.2.2)) ([], s)
      let v (L : Nat) : Nat := (r.dval r.T d L).toNat
      let logs (c : BitVec 8) (walk fabric so : Bool) : Bool := walk && !fabric && !so && c == cNOTPRESENT
      let fs := x.1.filterMap fun y => match y.2.2 with
        | .bad c walk fabric so _ => if walk && (fabric || !so) then none else some (⟨y.1, c, y.2.1⟩ : LaneFault)
        | _ => none
      let need := (x.1.filter fun y => match y.2.2 with | .bad c w f so _ => logs c w f so | _ => false)
      let room := Config.sideLogSize - (x.2.sidelog.filter fun l => l.core == r.wg.core).length
      let waits := x.2.rmwWait r || x.1.any fun y => x.2.atomWaits r n y.1 y.2.2
      let req (z : Nat × BitVec 64 × ARes) : List Req := match z.2.2 with
        | .fab g addr so uo => [{ r.req 0 3 g z.1 z.2.1 addr n (v z.1) with op := 8 * r.T, so := so, uo := uo }]
        | _ => []
      let all := fs ++ (need.drop room).map fun y => ⟨y.1, cNOTPRESENT, y.2.1⟩
      if !all.isEmpty then .next (x.2.raiseLanes r all)
      else if waits || !x.2.fabRoom (x.1.flatMap req) then .next (x.2.hold r)
      else
        .next (((lateLanes false x.1).foldl (fun (acc : List Nat × State) zl =>
          let z := zl.1
          match z.2.2 with
          | .loc pa _ _ =>
            if zl.2 then acc.2.postReqs acc.1 [{ r.req 0 3 0 z.1 z.2.1 pa n (v z.1) with op := 8 * r.T, so := true, here := some (0, 0, 0) }]
            else (acc.1, { acc.2 with mem := Memory.write acc.2.mem pa n (AOp.add.apply r.T (Memory.read acc.2.mem pa n) (v z.1) 0) })
          | .fab .. => acc.2.postReqs acc.1 (req z)
          | .bad c walk fabric so ia =>
            (acc.1, if logs c walk fabric so then
              let s1 := (acc.2.logRed r ia z.2.1 (leBytes (v z.1) n)).getD acc.2
              s1.defer r.gid c z.2.1 (some (r.key, r.path.born))
            else if fabric then
              let f := acc.2.fresh
              f.2.postFail (r.req f.1 3 0 z.1 z.2.1 0 n 0) (0x40 + c) none
            else acc.2.defer r.gid c z.2.1 (some (r.key, r.path.born))))
          ([], x.2.putPath r.key (r.path.pastSwitch (s.rctx r).aper (r.path.pc + 4)))).2.untilPerformed r)

end Sys2Proof.Machine
end

