-- ==== Sys2Proof/Machine/MemForms.lean ====
section
/-! DEFINITION. The memory instructions one by one (spec/17_memory_instructions.md R287–R304): each applies the
operations of LoadStore to its space and form; the long instructions, FENCE and PFG are here whole. -/

namespace Sys2Proof.Machine

/-! ### On-chip spaces (R292, R294, R299) -/

/-- LDL (R292): lane slice. -/
def execLdl (w : BitVec 1) (d : BitVec 7) (a b : BitVec 8) (s : State) : Out :=
  spLoad (.ldl w d a b) .L false a b s

/-- STL (R294): lane slice. -/
def execStl (d : BitVec 7) (a b : BitVec 8) (s : State) : Out :=
  spStore (.stl d a b) .L false a b s

/-- LDS (R292): scratch. -/
def execLds (w : BitVec 1) (d : BitVec 7) (a b : BitVec 8) (s : State) : Out :=
  spLoad (.lds w d a b) .S false a b s

/-- STS (R294): scratch. -/
def execSts (d : BitVec 7) (a b : BitVec 8) (s : State) : Out :=
  spStore (.sts d a b) .S false a b s

/-- LDC (R292): cluster memory. -/
def execLdc (w : BitVec 1) (d : BitVec 7) (a b : BitVec 8) (s : State) : Out :=
  spLoad (.ldc w d a b) .C false a b s

/-- STC (R294): cluster memory. -/
def execStc (d : BitVec 7) (a b : BitVec 8) (s : State) : Out :=
  spStore (.stc d a b) .C false a b s

/-- LDK (R292): chip scratchpad. -/
def execLdk (w : BitVec 1) (d : BitVec 7) (a b : BitVec 8) (s : State) : Out :=
  spLoad (.ldk w d a b) .K false a b s

/-- STK (R294): chip scratchpad. -/
def execStk (d : BitVec 7) (a b : BitVec 8) (s : State) : Out :=
  spStore (.stk d a b) .K false a b s

/-- LDSQ (R292): 16 bytes of scratch. -/
def execLdsq (w : BitVec 1) (d : BitVec 7) (a b : BitVec 8) (s : State) : Out :=
  spLoad (.ldsq w d a b) .S true a b s

/-- STSQ (R294): 16 bytes of scratch. -/
def execStsq (d : BitVec 7) (a b : BitVec 8) (s : State) : Out :=
  spStore (.stsq d a b) .S true a b s

/-- ATS.ADD (R299): scratch atomic, 4-aligned. -/
def execAtsAdd (w : BitVec 1) (d : BitVec 7) (a b : BitVec 8) (s : State) : Out :=
  spAtomic (.atsAdd w d a b) .S .add true (fun _ => 4) a b s

/-- ATS.MIN (R299): scratch atomic, 4-aligned. -/
def execAtsMin (w : BitVec 1) (d : BitVec 7) (a b : BitVec 8) (s : State) : Out :=
  spAtomic (.atsMin w d a b) .S .min true (fun _ => 4) a b s

/-- ATS.MAX (R299): scratch atomic, 4-aligned. -/
def execAtsMax (w : BitVec 1) (d : BitVec 7) (a b : BitVec 8) (s : State) : Out :=
  spAtomic (.atsMax w d a b) .S .max true (fun _ => 4) a b s

/-- ATS.AND (R299): scratch atomic, 4-aligned. -/
def execAtsAnd (w : BitVec 1) (d : BitVec 7) (a b : BitVec 8) (s : State) : Out :=
  spAtomic (.atsAnd w d a b) .S .and true (fun _ => 4) a b s

/-- ATS.OR (R299): scratch atomic, 4-aligned. -/
def execAtsOr (w : BitVec 1) (d : BitVec 7) (a b : BitVec 8) (s : State) : Out :=
  spAtomic (.atsOr w d a b) .S .or true (fun _ => 4) a b s

/-- ATS.XOR (R299): scratch atomic, 4-aligned. -/
def execAtsXor (w : BitVec 1) (d : BitVec 7) (a b : BitVec 8) (s : State) : Out :=
  spAtomic (.atsXor w d a b) .S .xor true (fun _ => 4) a b s

/-- ATS.XCH (R299): scratch atomic, 4-aligned. -/
def execAtsXch (w : BitVec 1) (d : BitVec 7) (a b : BitVec 8) (s : State) : Out :=
  spAtomic (.atsXch w d a b) .S .xch true (fun _ => 4) a b s

/-- ATS.CAS (R299): scratch atomic, 4-aligned. -/
def execAtsCas (w : BitVec 1) (d : BitVec 7) (a b : BitVec 8) (s : State) : Out :=
  spAtomic (.atsCas w d a b) .S .cas true (fun _ => 4) a b s

/-- ATC.ADD (R299): cluster-memory atomic, naturally aligned. -/
def execAtcAdd (w : BitVec 1) (d : BitVec 7) (a b : BitVec 8) (s : State) : Out :=
  spAtomic (.atcAdd w d a b) .C .add true tyBytes a b s

/-- ATC.CAS (R299): cluster-memory atomic, naturally aligned. -/
def execAtcCas (w : BitVec 1) (d : BitVec 7) (a b : BitVec 8) (s : State) : Out :=
  spAtomic (.atcCas w d a b) .C .cas true tyBytes a b s

/-- REDS (R300): scratch add without return. -/
def execReds (d : BitVec 7) (a b : BitVec 8) (s : State) : Out :=
  spAtomic (.reds d a b) .S .add false (fun _ => 4) a b s

/-! ### Global memory (R292–R300) -/

/-- LDG (R292): plain load. -/
def execLdg (w : BitVec 1) (d : BitVec 7) (a b : BitVec 8) (s : State) : Out :=
  gLoad (.ldg w d a b) false false false a b s

/-- LDGS (R292): status-variant load. -/
def execLdgs (w : BitVec 1) (d : BitVec 7) (a b : BitVec 8) (s : State) : Out :=
  gLoad (.ldgs w d a b) false false true a b s

/-- LDGQ (R292): 16 register bytes. -/
def execLdgq (w : BitVec 1) (d : BitVec 7) (a b : BitVec 8) (s : State) : Out :=
  gLoad (.ldgq w d a b) true false false a b s

/-- LDGA (R292): acquire load. -/
def execLdga (w : BitVec 1) (d : BitVec 7) (a b : BitVec 8) (s : State) : Out :=
  gLoad (.ldga w d a b) false true false a b s

/-- STG (R294): plain store. -/
def execStg (d : BitVec 7) (a b : BitVec 8) (s : State) : Out :=
  gStore (.stg d a b) .plain a b s

/-- STGS (R294): status-variant store. -/
def execStgs (d : BitVec 7) (a b : BitVec 8) (s : State) : Out :=
  gStore (.stgs d a b) .status a b s

/-- STGQ (R294): 16 bytes. -/
def execStgq (d : BitVec 7) (a b : BitVec 8) (s : State) : Out :=
  gStore (.stgq d a b) .quad a b s

/-- STGR (R294): release store. -/
def execStgr (d : BitVec 7) (a b : BitVec 8) (s : State) : Out :=
  gStore (.stgr d a b) .release a b s

/-- ATG.ADD (R299). -/
def execAtgAdd (w : BitVec 1) (d : BitVec 7) (a b : BitVec 8) (s : State) : Out :=
  gAtomic (.atgAdd w d a b) .add false a b s

/-- ATG.MIN (R299). -/
def execAtgMin (w : BitVec 1) (d : BitVec 7) (a b : BitVec 8) (s : State) : Out :=
  gAtomic (.atgMin w d a b) .min false a b s

/-- ATG.MAX (R299). -/
def execAtgMax (w : BitVec 1) (d : BitVec 7) (a b : BitVec 8) (s : State) : Out :=
  gAtomic (.atgMax w d a b) .max false a b s

/-- ATG.AND (R299). -/
def execAtgAnd (w : BitVec 1) (d : BitVec 7) (a b : BitVec 8) (s : State) : Out :=
  gAtomic (.atgAnd w d a b) .and false a b s

/-- ATG.OR (R299). -/
def execAtgOr (w : BitVec 1) (d : BitVec 7) (a b : BitVec 8) (s : State) : Out :=
  gAtomic (.atgOr w d a b) .or false a b s

/-- ATG.XOR (R299). -/
def execAtgXor (w : BitVec 1) (d : BitVec 7) (a b : BitVec 8) (s : State) : Out :=
  gAtomic (.atgXor w d a b) .xor false a b s

/-- ATG.XCH (R299). -/
def execAtgXch (w : BitVec 1) (d : BitVec 7) (a b : BitVec 8) (s : State) : Out :=
  gAtomic (.atgXch w d a b) .xch false a b s

/-- ATG.CAS (R299). -/
def execAtgCas (w : BitVec 1) (d : BitVec 7) (a b : BitVec 8) (s : State) : Out :=
  gAtomic (.atgCas w d a b) .cas false a b s

/-- ATGS.ADD (R297). -/
def execAtgsAdd (w : BitVec 1) (d : BitVec 7) (a b : BitVec 8) (s : State) : Out :=
  gAtomic (.atgsAdd w d a b) .add true a b s

/-- ATGS.CAS (R297). -/
def execAtgsCas (w : BitVec 1) (d : BitVec 7) (a b : BitVec 8) (s : State) : Out :=
  gAtomic (.atgsCas w d a b) .cas true a b s

/-- REDG (R300). -/
def execRedg (d : BitVec 7) (a b : BitVec 8) (s : State) : Out :=
  gReduce (.redg d a b) a b s

/-! ### Long instructions (R191, R301) -/

/-- PIX after u units (R191). -/
def pixAt (u : Nat) : BitVec 32 := BitVec.ofNat 32 (u % 2 ^ 16 + 2 ^ 16)

/-- The first unit to perform (R191). -/
def Path.unit0 (p : Path) : Nat := if p.pix.getLsbD 16 then bf p.pix 0 16 else 0

/-- What a unit does: the instruction goes on, or stops here. -/
inductive UnitRes where
  | go (s : State)
  | stop (s : State)
deriving DecidableEq, Repr

/-- The units in ascending order; when all are done `fin`, then past the instruction with PIX 0. -/
def longUnits (r : Run) (f : State → Nat → Nat → UnitRes) (fin : State → State) : List (Nat × Nat) → State → State
  | [], s => (fin s).modPath r.key fun p => { p.pastSwitch (s.rctx r).aper (p.pc + 4) with pix := 0, xbase := none }
  | (u, L) :: t, s =>
    match f s u L with
    | .go s' => longUnits r f fin t s'
    | .stop s' => s'

/-- The units of an instruction with one unit an ACTIVE lane, from PIX on. -/
def Run.laneUnits (r : Run) : List (Nat × Nat) :=
  ((List.range 32).zip (lanesOf r.active)).drop r.path.unit0

/-- A run after u units, on the path and group as they now are. -/
def Run.atUnit (r : Run) (s : State) (u : Nat) : Run :=
  let q := (s.runAt r.key).getD r
  { q with path := { q.path with pix := pixAt u } }

/-- The path stops at a unit with a fault: the base of an expand-load is found afresh when it resumes. -/
def State.unitFault (s : State) (q : Run) (fs : List LaneFault) : UnitRes :=
  .stop (s.raiseLanes { q with path := { q.path with xbase := none } } fs)

/-- One unit of a gather: an element of G into vD of a lane. `xb` is the base and step that an expand-load keeps while it waits. -/
def gathUnit (r : Run) (w : BitVec 1) (d : Nat) (ea : Nat → Nat → BitVec 64) (xb : Option (BitVec 64 × Nat)) (s : State) (u L : Nat) :
    UnitRes :=
  let q0 := r.atUnit s u
  let q := { q0 with path := { q0.path with xbase := xb } }
  let y := s.gLoadLane q d L (ea u L) 1 false false false
  match y.1 with
  | .bad c _ => y.2.unitFault q [⟨L, c, ea u L⟩]
  | .wait => .stop (y.2.hold q)
  | .ok x fl reqs =>
    if reqs.isEmpty then
      .go (y.2.putGroup r.gk ((if w = 0 then q.group.writeLoad q.path.mask [x] else q.group).raise fl))
    else if !y.2.fabRoom (q.loadReqs 0 id [(x, reqs)]) then .stop (y.2.hold q)
    else .stop (y.2.issueFab q (w = 0) false true 0 id [(x, reqs)])

/-- One unit of a scatter: width(T) bytes of vD of a lane to G. -/
def scatUnit (r : Run) (d : Nat) (ea : Nat → Nat → BitVec 64) (s : State) (u L : Nat) : UnitRes :=
  let q := r.atUnit s u
  let n := tyBytes r.T
  let y := s.storeLane q .unit .wr L (ea u L) n
  let val := r.storeVal false d
  let fs := if y.1.faults.isEmpty then y.2.logTrial q [y.1] val n else y.1.faults
  if !fs.isEmpty then y.2.unitFault q fs
  else if y.2.noColl q [y.1] then .stop (y.2.raiseWhole q cCOLLECTIVE)
  else if y.2.storeWaits q y.1 || y.2.rmwWait q || !y.2.fabRoom (y.1.reqs q (leBytes (val L) n)) then .stop (y.2.hold q)
  else .go (y.2.storeLanes q { f := .unit } [y.1] val n)

/-- GATH (R301). -/
def execGath (w : BitVec 1) (d : BitVec 7) (a b : BitVec 8) (s : State) : Out :=
  withRun s fun r =>
    checked s r (r.legal (.gath w d a b) accAny (tyIs64 r.T) false false) 0 fun _ =>
      .next (longUnits r (gathUnit r w d.toNat (fun _ L => r.ea a b L) none) id r.laneUnits s)

/-- SCAT (R301). -/
def execScat (d : BitVec 7) (a b : BitVec 8) (s : State) : Out :=
  withRun s fun r =>
    checked s r (r.legal (.scat d a b) accAny (tyIs64 r.T) false false) 0 fun _ =>
      .next ((longUnits r (scatUnit r d.toNat fun _ L => r.ea a b L) id r.laneUnits s).untilPerformed r)

/-- STGC (R301): consecutive elements from the lowest ACTIVE lane's address. -/
def execStgc (d : BitVec 7) (a b : BitVec 8) (s : State) : Out :=
  withRun s fun r =>
    checked s r (r.legal (.stgc d a b) accAny (tyIs64 r.T) false false) 0 fun _ =>
      let base := r.ea a b (lowLane r.active)
      .next ((longUnits r (scatUnit r d.toNat fun u _ => base + BitVec.ofNat 64 (u * tyBytes r.T)) id r.laneUnits s).untilPerformed r)

/-! ### LDGE (R302) -/

/-- The borrow cache is on (R23: islands 170 and 171). -/
def State.borrowOn (s : State) : Bool := s.mgmt.isl 170 == 0 && s.mgmt.isl 171 == 0

/-- Tags of a line (R69). -/
def BLine.is (l : BLine) (ia : Nat) : Bool :=
  l.ia == ia / 256 && l.pkg == Config.borrowPkg ia && l.header == Config.borrowHeader ia

/-- Key of a header in the table of postmarks known to be newer. -/
def newerKey (pkg : Nat) (h : BitVec 64) : Nat := pkg * 2 ^ 64 + h.toNat

/-- Whether a newer postmark than P of the header of an address is known (R69). -/
def State.newerKnown (s : State) (ia : Nat) (p : BitVec 32) : Bool :=
  decide (p.toNat < (CMap.get s.selv.newer (newerKey (Config.borrowPkg ia) (Config.borrowHeader ia))).toNat)

/-- The bytes of a line from an address on, as a number. -/
def lineBytes (data : BitVec 2048) (ia n : Nat) : Nat := bf data (8 * (ia % 256)) (8 * n)

/-- A part of a borrow read inside one line: it is found (a code or bytes), or must be gathered (log 21). -/
def State.borrowPart (s : State) (ia n : Nat) (p : BitVec 32) : Option (BitVec 8 × Nat) :=
  if !s.borrowOn then none
  else
    (s.selv.lines.find? fun l => l.is ia && l.post == p && !l.unwatched).map fun l =>
      if s.newerKnown ia p then (8, 0) else (0, lineBytes l.data ia n)

/-- The lines of a borrow read: offset, address, length. -/
def lineParts (ia n : Nat) : List (Nat × Nat × Nat) :=
  let a := min n (256 - ia % 256)
  (0, ia, a) :: (if a < n then [(a, ia + a, n - a)] else [])

/-- STALE counts a failing read (R69). -/
def State.countStale (s : State) : State := { s with selv := { s.selv with stale := satInc s.selv.stale } }

/-- A line that was read becomes the most recently used of its set (R69). -/
def State.touchLine (s : State) (ia : Nat) (p : BitVec 32) : State :=
  match s.selv.lines.find? fun l => l.is ia && l.post == p with
  | none => s
  | some l => { s with selv := { s.selv with lines := s.selv.lines.erase l ++ [l] } }

/-- One lane's borrow read of a part inside one window: its record, with the gathers it starts; TIMEOUT_UNKNOWN once the Selvedge has
stopped (R360). `at_` is the part's place in the value. -/
def State.borrowBytes (s : State) (r : Run) (load L ia n at_ : Nat) (p : BitVec 32) (base : LoadLane) : LoadLane × State :=
  if s.mgmt.selvDown then ({ base with code := 1 }, s)
  else (lineParts ia n).foldl (fun (acc : LoadLane × State) (o, a, k) =>
    match acc.2.borrowPart a k p with
    | some (0, bytes) =>
      ({ acc.1 with data := acc.1.data ||| BitVec.ofNat 1024 (bytes * 2 ^ (8 * (at_ + o))) }, acc.2.touchLine a p)
    | some (c, _) => ({ acc.1 with code := c }, acc.2)
    | none =>
      let f := acc.2.fresh
      ({ acc.1 with miss := acc.1.miss + 1 },
        { f.2 with
          selv := { f.2.selv with reads := f.2.selv.reads ++ [⟨f.1, r.key, load, L, at_ + o, a, k, p⟩] }
          netOut := f.2.netOut ++ [⟨Config.borrowPkg a, 6, [a, (Config.borrowHeader a).toNat], []⟩] })) (base, s)

/-- The windows that a lane's borrow read meets (R103, R198): offset, intermediate address and length of each part, or a cause. -/
def Run.borrowParts (r : Run) : Nat → Nat → Nat → Nat → Except (BitVec 8) (List (Nat × Nat × Nat))
  | 0, _, _, _ => .ok []
  | fuel + 1, va, o, n =>
    if n = 0 then .ok []
    else
      let k := min n (65536 - va % 65536)
      match (if 2 ^ 57 ≤ va then none else aperFind r.path.aper va), r.borrowParts fuel (va + k) (o + k) (n - k) with
      | none, _ => .error cAPERTURE
      | some (2, _, ia), .ok t => .ok ((o, ia, k) :: t)
      | some (2, _, _), .error c => .error c
      | some _, .error c => .error (if c = cAPERTURE then c else cPERMISSION)
      | some _, .ok _ => .error cPERMISSION

/-- The borrow form of LDGE: every ACTIVE lane's read, held until the gathers are answered. A read that fails counts once in STALE
(R69). -/
def borrowRead (r : Run) (w : BitVec 1) (d : Nat) (a b : BitVec 8) (s : State) : State :=
  let n := tyBytes r.T
  let parts := (lanesOf r.active).map fun L => (L, r.ea a b L, r.borrowParts 3 (r.ea a b L).toNat 0 n)
  let fs := parts.filterMap fun x => match x.2.2 with
    | .error c => some (⟨x.1, c, x.2.1⟩ : LaneFault)
    | .ok _ => none
  if !fs.isEmpty then s.raiseLanes r fs
  else
    let f := s.fresh
    let y := parts.foldl (fun (acc : List LoadLane × State) x =>
      let base : LoadLane := { lane := x.1, reg := d, nreg := nregOf false r.T, data := 0 }
      let ps : List (Nat × Nat × Nat) := match x.2.2 with
        | .ok l => l
        | .error _ => []
      let z := ps.foldl (fun (t : LoadLane × State) (q : Nat × Nat × Nat) =>
          t.2.borrowBytes r f.1 x.1 q.2.1 q.2.2 q.1 (r.group.vreg d x.1) t.1) (base, acc.2)
      (acc.1 ++ [z.1], if z.1.code = 8 then z.2.countStale else z.2)) ([], f.2)
    let l : Load := { id := f.1, wr := decide (w = 0), status := true, hold := true, lanes := y.1 }
    (y.2.putPath r.key { r.path with wait := .borrow f.1, loads := r.path.loads ++ [l] }).completeLoad r.key f.1

/-- The step of an expand-load: the width of the FMT of the page at base where it is decoded, else width(T) (R301). -/
def State.expandStep (s : State) (r : Run) (base : BitVec 64) : Nat × State :=
  if r.active = 0 then (tyBytes r.T, s)
  else
    let y := s.piece r.path.aper r.gang.part base.toNat 1 .rd
    (match y.1.entry with
    | some e => if rawLoad r.T (entFmt e) || entFmt e = 14 then tyBytes r.T else tyBytes (entFmt e)
    | none => tyBytes r.T, y.2)

/-- LDGE (R302): a borrow read, or the long expand-load, by the lowest ACTIVE lane's address; one that goes on keeps its base and step. -/
def execLdge (w : BitVec 1) (d : BitVec 7) (a b : BitVec 8) (s : State) : Out :=
  withRun s fun r =>
    checked s r (r.legal (.ldge w d a b) accAny (tyIs64 r.T) false false) 0 fun _ =>
      let base := r.ea a b (lowLane r.active)
      if r.active ≠ 0 && !(r.path.pix.getLsbD 16 && r.path.xbase.isSome) && (aperFind r.path.aper base.toNat).any (fun x => x.1 == 2) then
        .next (borrowRead r w d.toNat a b s)
      else
        let x : (BitVec 64 × Nat) × State := match (if r.path.pix.getLsbD 16 then r.path.xbase else none) with
          | some x => (x, s)
          | none => let e := s.expandStep r base; ((base, e.1), e.2)
        .next (longUnits r (gathUnit r w d.toNat (fun u _ => x.1.1 + BitVec.ofNat 64 (u * x.1.2)) (some x.1)) id r.laneUnits x.2)

/-! ### FENCE and PFG (R303, R304) -/

/-- Whether a request is a read of a path, or an atomic's read. -/
def Req.readBy (q : Req) (k : Nat) : Bool := q.isOf k && (q.kind == 0 || q.kind == 2)

/-- The requests a fence waits for (R37, R202, R303): for release and full, the path's writes and atomics when FABRIC is named (held flags
do not hold it), those that the Selvedge holds among them (R63), and stores to local memory that wait; for every kind with FABRIC, the path's reads through windows: an older LDGS
is ordered before a write after a release fence too (R202, log 78). -/
def State.fenceIds (s : State) (r : Run) (kind : BitVec 2) (mask : BitVec 8) : List Nat :=
  let fabric := mask.getLsbD 7
  (s.allReqs.filter fun q =>
    (kind ≠ 0 && q.by r.key && (q.kind == 5 || (fabric && (q.sent || q.kind != 4)))) ||
    (fabric && q.readBy r.key)).map (·.id)

/-- Whether a fence may complete: no awaited request is left and, for release and full, no side-log entry of the
group (R113) and no store of the path that the Selvedge holds (R63). -/
def State.fenceDone (s : State) (r : Run) (kind : BitVec 2) (ids : List Nat) : Bool :=
  (kind == 0 || (!(s.sidelog.any fun l => l.group == r.gk) && !s.collHeld r.key r.path.mask)) && !(ids.any s.pends)

/-- The first failure in issue order. -/
def firstFail : List PostFail → Option PostFail
  | [] => none
  | f :: t =>
    match firstFail t with
    | some g => if g.id < f.id then some g else some f
    | none => some f

/-- The end of a fence: REMOTE at its own pc for posted failures (R38), else past it; failures before it fail no later flag (log 69). -/
def State.finishFence (s : State) (r : Run) (kind : BitVec 2) (mask : BitVec 8) : State :=
  match (if kind ≠ 0 && mask.getLsbD 7 then firstFail (r.path.fails.filter (·.posted)) else none) with
  | some f =>
    s.raise { r with path := { r.path with fails := [], lstat := lstatOf f.code 0, wait := .ready } } cREMOTE
      (lowLane r.path.mask) f.va r.path.mask
  | none => s.doneSwitch (if kind ≠ 0 && mask.getLsbD 7 then { r with path := { r.path with fails := [] } } else r)

/-- FENCE (R303): waits, or completes at once. -/
def execFence (k : BitVec 2) (m : BitVec 8) (sc : BitVec 4) (s : State) : Out :=
  withRun s fun r =>
    checked s r (r.legal (.fence k m sc) accAny false false false) 0 fun _ =>
      let ids := s.fenceIds r k m
      if s.fenceDone r k ids then .next (s.finishFence r k m)
      else .next (s.putPath r.key { r.path with wait := .fence k m ids })

/-- PFG (R304): a hint without effect on the state. -/
def execPfg (a b : BitVec 8) (s : State) : Out :=
  withRun s fun r =>
    checked s r (r.legal (.pfg a b) accAny false false false) 0 fun _ => .next (s.doneSwitch r)

/-- FENCE_COMPLETE (R303): a waiting fence whose conditions hold. -/
def execFenceComplete (p : Nat) (s : State) : Out :=
  .next (match s.runAt p with
    | none => s
    | some r =>
      match r.path.wait with
      | .fence k m ids => if s.fenceDone r k ids then s.finishFence r k m else s
      | _ => s)

/-- LOAD_RETURN (R140): load k of path p returns. -/
def execLoadReturn (p k : Nat) (s : State) : Out := .next (s.returnLoad p k)

end Sys2Proof.Machine
end

