-- ==== Sys2Proof/Machine/Control.lean ====
section
/-! DEFINITION. Divergence, joining and control flow (spec/07_execution_model.md R134–R142, spec/16_control_flow.md
R273–R286). -/

namespace Sys2Proof.Machine

/-! ### Divergence (R134) -/

/-- Lanes of a mask, counted. -/
def popCount (m : BitVec 32) : Nat := (lanesOf m).length

/-- A part of a divergence: its lanes, and what becomes of the path in it (the pc and the return stack). -/
abbrev PathPart := BitVec 32 × (Path → Path)

/-- Insertion in rank order: more lanes first, on a tie the lower lowest lane. -/
def rankIns (x : PathPart) : List PathPart → List PathPart
  | [] => [x]
  | y :: t =>
    if popCount y.1 < popCount x.1 || (popCount y.1 = popCount x.1 && decide (lowLane x.1 < lowLane y.1)) then x :: y :: t
    else y :: rankIns x t

def rankParts (l : List PathPart) : List PathPart := l.foldl (fun acc x => rankIns x acc) []

/-- Path numbers of a group with no path: splits, then fragments, ascending. -/
def State.freeNums (s : State) (gk : Nat) : List Nat :=
  (List.range 32).filter fun n => (FMap.get? s.paths (32 * gk + n)).isNone

/-- The loads of the lanes of a mask. -/
def Load.keep (m : BitVec 32) (l : Load) : Option Load :=
  let ls := l.lanes.filter fun x => m.getLsbD x.lane
  if ls.isEmpty then none else some { l with lanes := ls }

/-- A path cut down to some of its lanes. -/
def Path.part (p : Path) (m : BitVec 32) : Path :=
  { p with mask := m, loads := p.loads.filterMap (Load.keep m), live := [] }

/-- The path goes on as its parts; empty ones do not count, and with none it is past the instruction. Each is past a switch point. The first in rank keeps the
number; every part has the requests and the posted failures of the path (log 22). -/
def State.diverge (s : State) (r : Run) (parts : List PathPart) : State :=
  let ap := (s.rctx r).aper
  match rankParts (parts.filter fun x => x.1 != 0) with
  | [] => s.putPath r.key (r.path.pastSwitch ap (r.path.pc + 4))
  | [x] => s.putPath r.key (x.2 (r.path.pastSwitch ap r.path.pc))
  | x :: rest =>
    let births := r.group.births
    let new := rest.zip (s.freeNums r.gk)
    let s1 := (s.putPath r.key (x.2 ((r.path.part x.1).pastSwitch ap r.path.pc))).putGroup r.gk
      { r.group with births := births + rest.length }
    let keys := new.map fun y => 32 * r.gk + y.2
    let share (q : Req) : Req := if q.isOf r.key then { q with more := q.more ++ keys } else q
    let s2 := s1.mapReqs share
    (new.zip (List.range rest.length)).foldl (fun (s : State) y =>
      s.putPath (32 * r.gk + y.1.2)
        { y.1.1.2 ((r.path.part y.1.1.1).pastSwitch ap r.path.pc) with born := births + y.2 }) s2

/-! ### Return stacks (R273) -/

/-- The return stack in use. -/
def Path.rstack (p : Path) : List (BitVec 64) := if p.inH then p.hstack else p.stack
def Path.setStack (p : Path) (l : List (BitVec 64)) : Path := if p.inH then { p with hstack := l } else { p with stack := l }
def Path.stackMax (p : Path) : Nat := if p.inH then 8 else 32
def Path.push (p : Path) (a : BitVec 64) : Path := p.setStack (a :: p.rstack)

/-- The address after an instruction, as a return stack entry of 57 bits. -/
def retAddr (pc : BitVec 64) : BitVec 64 := ((pc + 4).setWidth 57).setWidth 64

/-- The target of a form B instruction (R214). -/
def relTarget (pc : BitVec 64) (o : BitVec 20) : BitVec 64 := pc + o.signExtend 64 * 4

/-- The first address of the region that a JOIN names, exact (R7, R282): where J + 4·off is negative the region starts at 0. -/
def joinStart (pc : BitVec 64) (o : BitVec 20) : BitVec 64 :=
  BitVec.ofNat 64 (min ((pc.toNat : Int) + 4 * o.toInt).toNat (2 ^ 64 - 1))

/-! ### Merging (R136) -/

/-- The least of some numbers. -/
def minOf : List Nat → Option Nat
  | [] => none
  | x :: t => match minOf t with
    | some y => some (min x y)
    | none => some x

/-- Join two lists of failures; one that both have comes once. -/
def joinFails (a b : List PostFail) : List PostFail := a ++ b.filter fun f => !a.any fun x => x.id == f.id

/-- Join two lists of loads; the lanes of one number come together. -/
def joinLoads (a b : List Load) : List Load :=
  b.foldl (fun acc l =>
    if acc.any fun x => x.id == l.id then acc.map fun x => if x.id = l.id then { x with lanes := x.lanes ++ l.lanes } else x
    else acc ++ [l]) a

/-- The path whose gm, stack and other state a merge keeps: the lowest split, else the oldest fragment. -/
def mergeBase (ps : List (Nat × Path)) : Option (Nat × Path) :=
  match minOf ((ps.map (·.1)).filter fun k => k % 32 < 4) with
  | some k => ps.find? fun x => x.1 == k
  | none =>
    match minOf (ps.map fun x => x.2.born) with
    | some b => ps.find? fun x => x.2.born == b
    | none => none

/-- The key of a merged path. -/
def State.mergeKey (s : State) (gk : Nat) (ps : List (Nat × Path)) : Nat :=
  match minOf ((ps.map (·.1)).filter fun k => k % 32 < 4) with
  | some k => k
  | none =>
    match (s.freeNums gk).find? fun n => n < 4 with
    | some n => 32 * gk + n
    | none => (minOf (ps.map (·.1))).getD 0

/-- Merge paths of a group (ascending keys) into one that goes on at an address. What named one of them names the
merged one. -/
def State.mergePaths (s : State) (gk : Nat) (ps : List (Nat × Path)) (ap : CMap 64) (pc : BitVec 64) : State :=
  match mergeBase ps with
  | none => s
  | some (_, b) =>
    let k := s.mergeKey gk ps
    let mine (x : Nat) : Bool := ps.any fun y => y.1 == x
    let p : Path := { b.pastSwitch ap pc with
      mask := ps.foldl (fun m x => m ||| x.2.mask) 0
      smask := ps.foldl (fun m x => m ||| x.2.smask) 0
      loads := ps.foldl (fun l x => joinLoads l x.2.loads) []
      fails := ps.foldl (fun l x => joinFails l x.2.fails) [] }
    let moved (x : Nat × Nat) : Nat × Nat := if ps.any fun y => y.1 == x.1 && y.2.born == x.2 then (k, p.born) else x
    let s1 := { s with
      paths := s.paths.filter fun x => !mine x.1
      sidelog := s.sidelog.map fun (e : LogEntry) => { e with path := (moved (e.path, e.born)).1, born := (moved (e.path, e.born)).2 }
      gangs := s.gangs.map fun (g : Nat × Gang) => (g.1, { g.2 with
        dq := g.2.dq.map fun (f : DFault) => { f with path := f.path.map moved } })
      selv := { s.selv with colls := s.selv.colls.map fun (c : Nat × Coll) => (c.1, { c.2 with
        held := c.2.held.map fun (h : HeldStore) => if mine h.path then { h with path := k } else h }) } }
    (s1.mapReqs fun q => if q.orphan then q else q.withOwners (q.owners.map fun x => if mine x then k else x)).putPath k p

/-! ### The tests of JOIN and collectives (R136–R138) -/

/-- The paths of a group, ascending. -/
def State.pathsOf (s : State) (gk : Nat) : List (Nat × Path) := s.paths.filter fun x => x.1 / 32 == gk

/-- Whether an address lies in [B, J]. -/
def inRegion (b j x : BitVec 64) : Bool := decide (b.toNat ≤ x.toNat ∧ x.toNat ≤ j.toNat)

/-- Whether a path lies inside a region (R136, R282). -/
def Path.inside (p : Path) (b j : BitVec 64) : Bool :=
  inRegion b j (if p.inH then p.hpc else p.pc) || p.stack.any (inRegion b j)

/-- Whether a path waits at the JOIN at J. -/
def Path.atJoin (p : Path) (j : BitVec 64) : Bool := p.pc == j && (match p.wait with | .join _ => true | _ => false)

/-- The JOINs waited at with their regions. -/
def joinsOf (ps : List (Nat × Path)) : List (BitVec 64 × BitVec 64) :=
  ps.filterMap fun x => match x.2.wait with
    | .join b => some (x.2.pc, b)
    | _ => none

/-- The pcs of the collectives waited at. -/
def collsOf (ps : List (Nat × Path)) : List (BitVec 64) :=
  ps.filterMap fun x => match x.2.wait with
    | .coll _ => some x.2.pc
    | _ => none

/-- Least address of a list. -/
def leastPc (l : List (BitVec 64)) : Option (BitVec 64) := (minOf (l.map (·.toNat))).map (BitVec.ofNat 64)

/-- Release the paths at a JOIN. -/
def State.release (s : State) (gk : Nat) (ps : List (Nat × Path)) (j : BitVec 64) : State :=
  match FMap.get? s.gangs (gk / 128) with
  | none => s
  | some q => s.mergePaths gk (ps.filter fun x => x.2.atJoin j) (s.ctx q.part q.ctx).aper (j + 4)

/-- COLLECTIVE_MISMATCH at the lowest-addressed collective (R138), in its lowest-numbered path. -/
def State.mismatch (s : State) (ps : List (Nat × Path)) : State :=
  match leastPc (collsOf ps) with
  | none => s
  | some c =>
    match ps.find? fun x => x.2.pc == c && (match x.2.wait with | .coll _ => true | _ => false) with
    | none => s
    | some (k, _) =>
      match s.runAt k with
      | none => s
      | some r => s.raiseWhole r cCOLLECTIVE

/-- The JOIN that R136 releases, the lowest address first. -/
def releasable (ps : List (Nat × Path)) : Option (BitVec 64) :=
  leastPc (((joinsOf ps).filter fun x => ps.all fun y => y.2.atJoin x.1 || !y.2.inside x.2 x.1).map (·.1))

/-- Release what may be released in a group, then fault what cannot go on (R136, R138, R137). A halted or stopped gang
does not move. -/
def State.joinTest (s : State) (gk : Nat) : Nat → State
  | 0 => s
  | fuel + 1 =>
    let ps := s.pathsOf gk
    match releasable ps with
    | some j => State.joinTest (s.release gk ps j) gk fuel
    | none =>
      let js := joinsOf ps
      let cs := collsOf ps
      if cs.any fun c => c != cs.headD 0 then s.mismatch ps
      else if !cs.isEmpty && !js.isEmpty && js.length + cs.length = ps.length then s.mismatch ps
      else if cs.isEmpty && !js.isEmpty && js.length = ps.length then
        match leastPc (js.map (·.1)) with
        | some j => s.release gk ps j
        | none => s
      else s

/-! ### Ends of lanes (R139, R283) -/

/-- A path of a workgroup has ended: a rotation of which no path is left has no page in use (R95). After the last one its logged stores are
performed if they can be (R113), and what is done is released. -/
def State.afterExit (s : State) (wk : Nat) : State :=
  if s.paths.any fun x => x.1 / 512 == wk then
    match FMap.get? s.wgs wk with
    | none => s
    | some w => if w.rot.isEmpty then s else s.putWg wk { w with rot := w.rot.filter fun x => s.paths.any fun p => p.1 / 32 == 16 * wk + x.1 }
  else (s.retryLog fun l => l.group / 16 == wk).reapGang (wk / 8)

/-! ### The instructions (R277–R286) -/

/-- The lanes that take a BRA or CALL (R278). -/
def Run.take (r : Run) (c : BitVec 4) : BitVec 32 :=
  let p := r.group.pred (c.toNat % 8)
  r.active &&& (if c.getLsbD 3 then ~~~p else p)

/-- BRA and CALL (R278); lanes that take a BRA to the next instruction are of the part that falls through (R134). -/
def branch (r : Run) (c : BitVec 4) (o : BitVec 20) (call : Bool) (s : State) : State :=
  let t := if !call && relTarget r.path.pc o == r.path.pc + 4 then 0 else r.take c
  s.diverge r
    [(t, fun p => if call then { p with pc := relTarget r.path.pc o }.push (retAddr r.path.pc) else { p with pc := relTarget r.path.pc o }),
     (r.path.mask &&& ~~~t, fun p => { p with pc := r.path.pc + 4 })]

/-- BRA (R278). -/
def execBra (c : BitVec 4) (o : BitVec 20) (s : State) : Out :=
  withRun s fun r =>
    checked s r (r.legal (.bra c o) accAny false false false) 0 fun _ => .next (branch r c o false s)

/-- CALL (R278): at a full return stack ILLEGAL (R273). -/
def execCall (c : BitVec 4) (o : BitVec 20) (s : State) : Out :=
  withRun s fun r =>
    checked s r (r.legal (.call c o) accAny false false false && decide (r.path.rstack.length < r.path.stackMax)) 0 fun _ =>
      .next (branch r c o true s)

/-- Distinct values in order of first occurrence. -/
def distinct (l : List (BitVec 64)) : List (BitVec 64) :=
  l.foldl (fun acc x => if acc.contains x then acc else acc ++ [x]) []

/-- CALLI and JMPI (R275, R279). -/
def indirect (i : Sys2Proof.Instr) (a : BitVec 8) (call : Bool) (s : State) : Out :=
  withRun s fun r =>
    checked s r (r.legal i accAny false false false && (!call || decide (r.path.rstack.length < r.path.stackMax))) 0 fun _ =>
      let tgt (L : Nat) : BitVec 64 := r.srcPair a L
      let act := lanesOf r.active
      let fs := act.filterMap fun L =>
        if (tgt L).toNat % 4 ≠ 0 then some (⟨L, cMISALIGN, tgt L⟩ : LaneFault)
        else if 2 ^ 57 ≤ (tgt L).toNat then some ⟨L, cAPERTURE, tgt L⟩
        else none
      if !fs.isEmpty then .next (s.raiseLanes r fs)
      else
        let next := r.path.pc + 4
        let parts := (distinct (act.map tgt)).map fun t =>
          let m := laneMask fun L => act.contains L && tgt L == t
          if call then (m, fun (p : Path) => { p with pc := t }.push (retAddr r.path.pc))
          else (if t = next then m ||| (r.path.mask &&& ~~~r.active) else m, fun (p : Path) => { p with pc := t })
        let fell := r.path.mask &&& ~~~r.active
        let joined := !call && act.any fun L => tgt L == next
        .next (s.diverge r (parts ++ (if joined then [] else [(fell, fun (p : Path) => { p with pc := next })])))

/-- CALLI (R279). -/
def execCalli (a : BitVec 8) (s : State) : Out := indirect (.calli a) a true s
/-- JMPI (R279). -/
def execJmpi (a : BitVec 8) (s : State) : Out := indirect (.jmpi a) a false s

/-- RET (R280): on an empty stack ILLEGAL (R273). -/
def execRet (s : State) : Out :=
  withRun s fun r =>
    checked s r (r.legal .ret accAny false false false && !r.path.rstack.isEmpty) 0 fun _ =>
      .next (s.diverge r
        [(r.active, fun p => { p with pc := p.rstack.headD 0 }.setStack (p.rstack.drop 1)),
         (r.path.mask &&& ~~~r.active, fun p => { p with pc := r.path.pc + 4 })])

/-- JOIN (R282): the path waits, and what R136 to R138 say of its group happens. -/
def execJoin (o : BitVec 20) (s : State) : Out :=
  withRun s fun r =>
    checked s r (r.legal (.join o) accAny false false false) 0 fun _ =>
      .next ((s.putPath r.key { r.path with wait := .join (joinStart r.path.pc o) }).joinTest r.gk 33)

/-- EXIT (R283): the ACTIVE lanes end. -/
def execExit (s : State) : Out :=
  withRun s fun r =>
    checked s r (r.legal .exit accAny false false false) 0 fun _ =>
      let rest := r.path.mask &&& ~~~r.active
      let s1 := s.putGroup r.gk { r.group with exited := r.group.exited ||| r.active }
      if rest = 0 then .next ((s1.endPath r.key).afterExit r.wk)
      else .next (s1.putPath r.key { r.path.pastSwitch (s.rctx r).aper (r.path.pc + 4) with mask := rest })

/-- YIELD (R284): a switch point; the slot moves on. -/
def execYield (s : State) : Out :=
  withRun s fun r =>
    checked s r (r.legal .yield accAny false false false) 0 fun _ => .next (s.doneSwitch r)

/-- Whether every event counter has reached its target (R285). -/
def Gang.reached (q : Gang) (conds : List (Nat × BitVec 32)) : Bool :=
  conds.all fun c => decide ((CMap.get q.evc c.1 - c.2).toNat < 2 ^ 31)

/-- WAITC (R285). -/
def execWaitc (a b : BitVec 8) (s : State) : Out :=
  withRun s fun r =>
    checked s r (r.legal (.waitc a b) accAny false false false) (r.deadOf (.waitc a b) false false) fun _ =>
      let conds := (lanesOf r.active).map fun L => (bf (r.src32 a L) 0 8, r.src32 b L)
      if r.gang.reached conds then .next (s.doneSwitch r)
      else .next (s.putPath r.key { r.path with wait := .waitc conds })

/-- The stop of a gang by a debugger (R192): every path reads STOP 0x23; the one at its BRK, and one that stopped at one before, reads
0x21. -/
def State.haltGang (s : State) (gid : Nat) (brk : Option Nat) : State :=
  match FMap.get? s.gangs gid with
  | none => s
  | some q =>
    { s.putGang gid { q with halted := true } with
      paths := s.paths.map fun x =>
        if x.1 / 4096 = gid then
          (x.1, { x.2.unpaused (s.ctx q.part q.ctx).aper with stop := if (brk == some x.1) = true || x.2.stop = 0x21 then 0x21 else 0x23 })
        else x }

/-- BRK (R286); in handler mode it halts the gang, for a debugger once the completion counters are zero (R35, R89). -/
def execBrk (b : BitVec 8) (s : State) : Out :=
  withRun s fun r =>
    checked s r (r.legal (.brk b) accAny false false false) 0 fun _ =>
      if r.active = 0 then .next (s.doneSwitch r)
      else if r.path.inH then .next (s.haltGang r.gid (some r.key))
      else .next (s.raise r cBREAK (lowLane r.active) (b.setWidth 64) r.active)

/-- LOOP (R281). -/
def execLoop (c : BitVec 4) (o : BitVec 20) (s : State) : Out :=
  withRun s fun r =>
    checked s r (r.legal (.loop c o) accAny false false false) 0 fun _ =>
      let x := r.group.sreg c.toNat - 1
      .next ((s.putGroup r.gk (r.group.writeS c.toNat false (x.setWidth 64))).putPath r.key
        (r.path.pastSwitch (s.rctx r).aper (if x ≠ 0 then relTarget r.path.pc o else r.path.pc + 4)))

end Sys2Proof.Machine
end

