-- ==== Sys2Proof/Machine/Barrier.lean ====
section
/-! DEFINITION. Copy stepping, transaction barriers and scratch pins (spec/18_engine_and_task_instructions.md
R305–R312, R315), and the release of Courier instances (spec/09_engines.md R164). -/

namespace Sys2Proof.Machine

/-! ### Operands (R305) -/

/-- The lane a uniform operand is read from. -/
def Run.ulane (r : Run) : Nat := lowLane r.active

/-- A uniform 32-bit operand. -/
def Run.uni (r : Run) (a : BitVec 8) : BitVec 32 := r.src32 a r.ulane

/-- The space and exact offset of a barrier operand. -/
def barSpace (a : BitVec 32) (off : BitVec 8) : Space × Int :=
  if a.getLsbD 31 then (if a.getLsbD 30 then .K else .C, effOff (a.extractLsb' 0 30 |>.setWidth 32) off)
  else (.S, effOff (a.extractLsb' 0 31 |>.setWidth 32) off)

/-- The barrier words of the ACTIVE lanes. -/
def Run.bars (r : Run) (a off : BitVec 8) : List (Nat × Space × Int) :=
  (lanesOf r.active).map fun L => (L, barSpace (r.src32 a L) off)

/-- The causes of the lanes: alignment, bounds, and for BINIT a tag (R310). -/
def State.barFaults (s : State) (r : Run) (bars : List (Nat × Space × Int)) (init : Bool) : List LaneFault :=
  bars.flatMap fun x => s.spFaults r x.2.1 [(x.1, x.2.2)] 8 8 false init

/-- Touch the scratch pages of barrier words. -/
def State.touchBars (s : State) (r : Run) (bars : List (Nat × Space × Int)) : Bool × State :=
  s.touchLanes r .S (bars.filterMap fun x => if x.2.1 = .S then some (x.1, x.2.2) else none) 8

/-! ### Waiting on barriers (R311) -/

/-- One lane of a BWAIT: gone (its word untagged, marked by target 128), reached, or neither. -/
def State.bwTest (s : State) (r : Run) (c : Nat × BitVec 32 × Nat) : Option Bool :=
  if c.2.2 = 128 then some false
  else
    let x := barSpace c.2.1 0
    let l := r.sloc x.1
    if !s.barTag l x.2.toNat then some false
    else if bReached (s.barWord l x.2.toNat) c.2.2 then some true
    else none

/-- Test a BWAIT: released when every lane has reached its target or lost its word, p7 in each; a lane whose word went
untagged stays marked. -/
def State.bwaitTest (s : State) (r : Run) (conds : List (Nat × BitVec 32 × Nat)) : State :=
  let res := conds.map fun c => (c, s.bwTest r c)
  if res.all fun x => x.2.isSome then
    let act := laneMask fun L => conds.any fun c => c.1 == L
    let ok := laneMask fun L => res.any fun x => x.1.1 == L && x.2 == some true
    (s.status r act ok 0x24 (lowLane (act &&& ~~~ok))).modPath r.key fun p =>
      p.pastSwitch (s.rctx r).aper (p.pc + 4)
  else s.modPath r.key fun p => { p with
    wait := .bwait (res.map fun x => if x.2 = some false then (x.1.1, x.1.2.1, 128) else x.1) }

/-- Every path that waits in BWAIT is tested afresh. -/
def State.bwaitAll (s : State) : State :=
  s.paths.foldl (fun (s : State) x => match x.2.wait with
    | .bwait conds => match s.runAt x.1 with
      | some r => s.bwaitTest r conds
      | none => s
    | _ => s) s

/-! ### Copy instances (R164) -/

/-- The values of k whose release value lies in (old, new], as (value, entry, k). -/
def CopyEntry.due (e : CopyEntry) (i old new : Nat) (first : Bool) : List (Nat × Nat × Nat) :=
  let every := if e.reps = 1 then 1 else max e.every 1
  let lo := if first then 0 else if old < e.release then 0 else (old - e.release) / every + 1
  let hi := if new < e.release then 0 else min e.reps ((new - e.release) / every + 1)
  (List.range (hi - lo)).map fun j => (e.release + (lo + j) * every, i, lo + j)

/-- Insertion by release value; equal values keep their order. -/
def dueIns (x : Nat × Nat × Nat) : List (Nat × Nat × Nat) → List (Nat × Nat × Nat)
  | [] => [x]
  | y :: t => if x.1 < y.1 then x :: y :: t else y :: dueIns x t

/-- The instances that a rise of the stage counter releases, in the order of R164. -/
def dueInsts (sched : List CopyEntry) (old new : Nat) (first : Bool) : List (Nat × Nat × Nat) :=
  (((sched.zip (List.range sched.length)).flatMap fun x => x.1.due x.2 old new first)).foldl (fun acc x => dueIns x acc) []

/-- Start the instances of a gang. -/
def State.startInsts (s : State) (gid : Nat) (due : List (Nat × Nat × Nat)) : State :=
  due.foldl (fun (s : State) x =>
    match FMap.get? s.gangs gid with
    | none => s
    | some q =>
      let f := s.fresh
      f.2.putGang gid { q with insts := q.insts ++ [⟨f.1, x.2.1, x.2.2, false, false, 0, 0, 0, [], [], none⟩] }) s

/-! ### The instructions -/

/-- CSTEP (R308): saturating; the releases follow. -/
def execCstep (a : BitVec 8) (s : State) : Out :=
  withRun s fun r =>
    checked s r (r.legal (.cstep a) accAny false false false) (r.deadOf (.cstep a) false false) fun _ =>
      if r.active = 0 then .next (s.doneSwitch r)
      else if s.heldWrite r then .next (s.hold r)
      else
        let old := r.gang.stageCtr.toNat
        let new := min (old + (r.uni a).toNat) 0xFFFFFFFF
        .next (((s.putGang r.gid { r.gang with stageCtr := BitVec.ofNat 32 new }).startInsts r.gid
          (dueInsts r.gang.sched old new false)).doneSwitch r)

/-- CSTAT (R309): copy status and stage counter, also with ACTIVE empty. -/
def execCstat (w : BitVec 1) (d : BitVec 7) (s : State) : Out :=
  withRun s fun r =>
    checked s r (r.legal (.cstat w d) accAny false false false) 0 fun _ =>
      let g := if w = 1 then r.group else r.group.writeS d.toNat true (r.gang.stageCtr ++ r.gang.cstat)
      .next ((s.putGroup r.gk g).doneSwitch r)

/-- The two steps of R310: every lane's checks, then the updates in ascending lane order; `upd` answers whether the word
was there. `report`: BARV and BEXP, which report in p7 and are release points (R201). A word is written after the older atomics of the
lanes have read (R200). -/
def barrierOp (i : Sys2Proof.Instr) (a off : BitVec 8) (init report : Bool)
    (upd : Run → State → Nat → SLoc → Nat → Bool × State) (s : State) : Out :=
  withRun s fun r =>
    checked s r (r.legal i accAny false false false) (r.deadOf i false false) fun _ =>
      let bars := r.bars a off
      let fs := s.barFaults r bars init
      if !fs.isEmpty then .next (s.raiseLanes r fs)
      else if !bars.isEmpty && ((report && s.heldRelease r) || ((report || init) && s.rmwWait r)) then .next (s.hold r)
      else
        let t := s.touchBars r bars
        if !t.1 then .next (t.2.hold r)
        else
          let x := bars.foldl (fun (acc : BitVec 32 × State) b =>
            let y := upd r acc.2 b.1 (r.sloc b.2.1) b.2.2.toNat
            (if y.1 then acc.1 ||| (1#32 <<< b.1) else acc.1, y.2)) (0, t.2)
          let s1 := if report then x.2.status r r.active x.1 0x24 (lowLane (r.active &&& ~~~x.1)) else x.2
          .next ((s1.modPath r.key fun p => p.pastSwitch (s.rctx r).aper (p.pc + 4)).bwaitAll)

/-- BINIT (R310). -/
def execBinit (a b : BitVec 8) (s : State) : Out :=
  barrierOp (.binit a b) a 0 true false (fun r s L l o =>
    let e := max (bf (r.src32 b L) 0 14) 1
    (true, (s.putBar l o (bWord 0 e e 0)).putTag l o 1)) s

/-- BARV (R310). -/
def execBarv (a b : BitVec 8) (s : State) : Out :=
  barrierOp (.barv a b) a b false true (fun _ s _ l o =>
    if s.barTag l o then (true, s.putBar l o (bArrive (s.barWord l o))) else (false, s)) s

/-- BEXP (R310). -/
def execBexp (a b : BitVec 8) (s : State) : Out :=
  barrierOp (.bexp a b) a 0 false true (fun r s L l o =>
    if s.barTag l o then (true, s.putBar l o (bBytes (s.barWord l o) (bf (r.src32 b L) 0 28))) else (false, s)) s

/-- BINV (R312). -/
def execBinv (a b : BitVec 8) (s : State) : Out :=
  barrierOp (.binv a b) a b false false (fun _ s _ l o => (true, s.putTag l o 0)) s

/-- BWAIT (R311). -/
def execBwait (a b : BitVec 8) (s : State) : Out :=
  withRun s fun r =>
    checked s r (r.legal (.bwait a b) accAny false false false) (r.deadOf (.bwait a b) false false) fun _ =>
      let bars := r.bars a 0
      let fs := s.barFaults r bars false
      if !fs.isEmpty then .next (s.raiseLanes r fs)
      else if r.active = 0 then .next (s.doneSwitch r)
      else
        let t := s.touchBars r bars
        if !t.1 then .next (t.2.hold r)
        else .next (t.2.bwaitTest r ((lanesOf r.active).map fun L => (L, r.src32 a L, bf (r.src32 b L) 0 7)))

/-- BTEST (R311). -/
def execBtest (d : BitVec 3) (a b : BitVec 8) (s : State) : Out :=
  withRun s fun r =>
    checked s r (r.legal (.btest d a b) accAny false false false) (r.deadOf (.btest d a b) false false) fun _ =>
      let bars := r.bars a 0
      let fs := s.barFaults r bars false
      if !fs.isEmpty then .next (s.raiseLanes r fs)
      else
        let t := s.touchBars r bars
        if !t.1 then .next (t.2.hold r)
        else
          let ok := laneMask fun L => r.active.getLsbD L && t.2.bwTest r (L, r.src32 a L, bf (r.src32 b L) 0 7) == some true
          .next ((t.2.putGroup r.gk (r.group.writeP d.toNat r.active ok)).doneSwitch r)

/-! ### Pins (R315) -/

/-- The pages of [a, a + n). -/
def pagesOf (a n : Nat) : List Nat := if n = 0 then [] else (List.range ((a + n - 1) / 1024 - a / 1024 + 1)).map (· + a / 1024)

/-- SPPIN (R315). -/
def execSppin (a b : BitVec 8) (s : State) : Out :=
  withRun s fun r =>
    checked s r (r.legal (.sppin a b) accAny false false false) (r.deadOf (.sppin a b) false false) fun _ =>
      let o := (r.uni a).toNat
      let n := (r.uni b).toNat
      if r.active = 0 || n = 0 then .next (s.doneSwitch r)
      else if 1024 * r.wg.spages < o + n then
        .next (s.raiseLanes r [⟨r.ulane, cSCRATCH, (r.uni a).setWidth 64⟩])
      else
        let pgs := pagesOf o n
        let new := pgs.filter fun p => !(s.pagePinned r.wk r.wg p && (FMap.get? r.wg.frames p).isSome)
        let u := s.unpinned r.wg.core
        let full := pgs.any fun p => CMap.get r.wg.pins p == 255
        let scarce := decide (u.1 < 64 + new.length) ||
          [0, 1, 2].any fun ph => decide (u.2 ph < 16 + (new.filter fun p => p % 3 == ph).length)
        let fin (s : State) (ok : BitVec 32) : State :=
          (s.status r r.active ok 0x20 (lowLane r.active)).modPath r.key fun p => p.pastSwitch (s.rctx r).aper (p.pc + 4)
        if full || scarce then .next (fin s 0)
        else
          let t := s.touch r.wk o n (r.gk + 1)
          if !t.1 then .next (t.2.hold r)
          else
            match FMap.get? t.2.wgs r.wk with
            | none => .next t.2
            | some w =>
              .next (fin (t.2.putWg r.wk { w with
                pins := pgs.foldl (fun m p => CMap.set m p (CMap.get m p + 1)) w.pins }) r.active)

/-- SPREL (R315). -/
def execSprel (a b : BitVec 8) (s : State) : Out :=
  withRun s fun r =>
    checked s r (r.legal (.sprel a b) accAny false false false) (r.deadOf (.sprel a b) false false) fun _ =>
      let o := (r.uni a).toNat
      let n := (r.uni b).toNat
      if r.active = 0 || n = 0 then .next (s.doneSwitch r)
      else if 1024 * r.wg.spages < o + n then
        .next (s.raiseLanes r [⟨r.ulane, cSCRATCH, (r.uni a).setWidth 64⟩])
      else
        .next ((s.putWg r.wk { r.wg with
          pins := (pagesOf o n).foldl (fun m p => if CMap.get m p = 0 then m else CMap.set m p (CMap.get m p - 1)) r.wg.pins }).doneSwitch r)

end Sys2Proof.Machine
end

