-- ==== Sys2Proof/Machine/Collective.lean ====
section
/-! DEFINITION. The collective instructions LMMA and RROT (spec/18_engine_and_task_instructions.md R313, R314, R325,
spec/07_execution_model.md R138, spec/05_memory_hierarchy.md R101). -/

namespace Sys2Proof.Machine

/-- Whether a path waits at a collective. -/
def Path.atColl (p : Path) : Bool := match p.wait with | .coll _ => true | _ => false

/-- Whether all paths of a group wait at collectives of one address. -/
def collReady (ps : List (Nat × Path)) : Bool :=
  !ps.isEmpty && ps.all fun x => x.2.atColl && x.2.pc == (ps.headD (0, x.2)).2.pc

/-! ### LMMA (R325) -/

/-- K of a type. -/
def lmmaK (t : Nat) : Nat := if t = 8 || t = 9 then 32 else 64

/-- Legality under gm (R325). -/
def lmmaOk (d a b : Nat) (gm : BitVec 32) : Bool :=
  let t := gmT gm
  let n := gmN gm
  (t == 8 || t == 9 || t == 12 || t == 13) && gmM gm == 0 && decide (1 ≤ n) && decide (n ≤ 4) &&
    d % 8 == 0 && a % 8 == 0 && b % 8 == 0 && decide (a + 8 ≤ 128) && decide (b + 8 * n ≤ 128) && decide (d + 8 * n ≤ 128) &&
    (decide (a + 8 ≤ d) || decide (d + 8 * n ≤ a)) && (decide (b + 8 * n ≤ d) || decide (d + 8 * n ≤ b))

/-- A byte of a register group; lanes outside `m` read as zero. -/
def Group.tileByte (g : Group) (m : BitVec 32) (base x : Nat) : Nat :=
  let L := x % 128 / 4
  if m.getLsbD L then (g.vreg (base + x / 128) L).toNat / 2 ^ (8 * (x % 4)) % 256 else 0

/-- Element (row, k) of A, or (k, row) of B. -/
def Group.tileEl (g : Group) (m : BitVec 32) (t base row k : Nat) : FV :=
  let w := tyBytes t
  (fmtOf t).decode ((List.range w).foldl (fun a j => a + g.tileByte m base (64 * row + k * w + j) * 2 ^ (8 * j)) 0)

/-- One unit: every accumulator of D by one ADD16 group; the lanes of `m` contribute, those of `keep` receive, and `cm` are
the lanes whose C is read. -/
def Group.lmmaUnit (g : Group) (t n d a b : Nat) (m cm keep : BitVec 32) (u : Nat) : Group × Flags :=
  let ks := (List.range 16).map (· + 16 * u)
  let rowA := (List.range 16).map fun i => ks.map (g.tileEl m t a i)
  let rowB := (List.range (16 * n)).map fun j => ks.map (g.tileEl m t b j)
  let res := (List.range (256 * n)).map fun e =>
    let L := e % 32
    let c := if cm.getLsbD L then (g.vreg (d + e / 32) L).toNat else 0
    (e, add16 fmtF32 c ((rowA.getD (e % 16) []).zip (rowB.getD (e / 16) [])))
  ({ g with v := CMap.setMany g.v (res.filterMap fun x =>
      if keep.getLsbD (x.1 % 32) then some (32 * (d + x.1 / 32) + x.1 % 32, BitVec.ofNat 32 x.2.1) else none) },
    res.foldl (fun f x => if m.getLsbD (x.1 % 32) then f ||| x.2.2 else f) 0)

/-- The union of the lanes that contribute. -/
def contribOf (s : State) (ps : List (Nat × Path)) : BitVec 32 :=
  ps.foldl (fun m x => match s.runAt x.1 with
    | some r => m ||| r.active
    | none => m) 0

/-- LMMA once every lane of the group waits at it. -/
def State.runLmma (s : State) (gk : Nat) (ps : List (Nat × Path)) (d a b : Nat) : State :=
  match mergeBase ps, FMap.get? s.groups gk, FMap.get? s.gangs (gk / 128) with
  | some (_, p), some g, some q =>
    if ps.any fun x => gmT x.2.gm != gmT p.gm || gmN x.2.gm != gmN p.gm then s.mismatch ps
    else
      let m := contribOf s ps
      let all := ps.foldl (fun m x => m ||| x.2.mask) 0
      let u0 := p.unit0
      let units := ((List.range (lmmaK (gmT p.gm) / 16)).drop u0)
      let y := units.foldl (fun (acc : Group × Flags) u =>
        let z := acc.1.lmmaUnit (gmT p.gm) (gmN p.gm) d a b m
          (if u = 0 && !p.pix.getLsbD 16 then m else 0xFFFFFFFF) all u
        (z.1, acc.2 ||| z.2)) (g, 0)
      let s1 := (s.putGroup gk (y.1.raise y.2)).mergePaths gk ps (s.ctx q.part q.ctx).aper (p.pc + 4)
      s1.modPath (s.mergeKey gk ps) fun p => { p with pix := 0 }
  | _, _, _ => s

/-! ### RROT (R313) -/

/-- Merge the paths that wait at a collective, which they still wait at: each lane keeps its latches (log 23). -/
def State.gatherColl (s : State) (gk : Nat) (ps : List (Nat × Path)) (i : Sys2Proof.Instr) : State :=
  match ps, FMap.get? s.gangs (gk / 128) with
  | (_, p0) :: _ :: _, some q =>
    let fw := CMap.setMany [] (ps.flatMap fun x => (lanesOf x.2.mask).flatMap fun L =>
      (List.range 4).map fun n => (32 * n + L, x.2.latch n L))
    let live := CMap.setMany [] ((List.range 4).map fun n =>
      (n, ps.foldl (fun m x => m ||| (CMap.get x.2.live n &&& x.2.mask)) 0))
    (s.mergePaths gk ps (s.ctx q.part q.ctx).aper p0.pc).modPath (s.mergeKey gk ps) fun p =>
      { p with aper := p0.aper, held := p0.held, wait := .coll i, fw := fw, live := live }
  | _, _ => s

/-- A member of a rotation that has arrived: its run, source and destination offsets, size. -/
structure Rot where
  r   : Run
  src : Nat
  dst : Nat
  n   : Nat
deriving DecidableEq, Repr

/-- The member of a group whose one path waits at a RROT. -/
def State.rotOf (s : State) (gk : Nat) : Option Rot :=
  match s.pathsOf gk with
  | [(k, p)] =>
    match p.wait, s.runAt k with
    | .coll (.rrot a b), some r =>
      let n := a.toNat - 0x80
      let L := if r.active = 0 then lowLane r.path.mask else lowLane r.active
      some ⟨r, (r.group.sreg n).toNat, (r.group.sreg (n + 1)).toNat, (r.src32 b L).toNat⟩
    | _, _ => none
  | _ => none

/-- The cause of a member's line u (R313). -/
def State.rotFault (s : State) (x : Rot) (w u : Nat) : Option (BitVec 8 × Nat) :=
  let gid := x.r.gid
  let next := 8 * gid + (x.r.wk % 8 + 1) % w
  let lim (k : Nat) : Nat := ((FMap.get? s.wgs k).map fun v => 1024 * v.spages).getD 0
  let o := x.src + 64 * u
  let d := x.dst + 64 * u
  if lim x.r.wk < o + 64 then some (cSCRATCH, o)
  else if lim next < d + 64 then some (cSCRATCH, d)
  else if tagged (s.slocTags (.scratch next)) d 64 then some (cBARRIER, d)
  else none

/-- Every member stops at line u with PIX set (R313). -/
def State.rotStop (s : State) (ms : List Rot) (u : Nat) : State :=
  ms.foldl (fun (s : State) x => s.modPath x.r.key fun p => { p with pix := pixAt u }) s

/-- The pages that rotations of a gang's groups of one index have pinned are pinned no more. -/
def State.rotFree (s : State) (gid j : Nat) : State :=
  (List.range 8).foldl (fun (s : State) i => match FMap.get? s.wgs (8 * gid + i) with
    | some w => if w.rot.isEmpty then s else s.putWg (8 * gid + i) { w with rot := w.rot.filter fun x => x.1 != j }
    | none => s) s

/-- The source and destination pages of the members are pinned while the rotation is in progress (R95). -/
def State.rotPin (s : State) (ms : List Rot) (w : Nat) : State :=
  ms.foldl (fun (s : State) x =>
    let pin (s : State) (wk o : Nat) : State := match FMap.get? s.wgs wk with
      | some v => s.putWg wk { v with rot := v.rot ++ (pagesOf o x.n).map fun p => (x.r.gk % 16, p) }
      | none => s
    pin (pin s x.r.wk x.src) (8 * x.r.gid + (x.r.wk % 8 + 1) % w) x.dst) s

/-- The lines from u on: each is read in every member before it is written in any. -/
def State.rotLines (s : State) (ms : List Rot) (w : Nat) : Nat → Nat → State
  | 0, _ => ms.foldl (fun (s0 : State) x =>
      let s := s0.rotFree x.r.gid (x.r.gk % 16)
      match s.runAt x.r.key with
      | none => s
      | some r =>
        (s.putGroup r.gk { r.group with rrots := r.group.rrots + 1 }).putPath r.key
          { r.path.pastSwitch (s.rctx r).aper (r.path.pc + 4) with pix := 0 }) s
  | fuel + 1, u =>
    let bad := ms.filterMap fun x => (s.rotFault x w u).map fun f => (x, f)
    if !bad.isEmpty then
      bad.foldl (fun (s : State) x => match s.runAt x.1.r.key with
        | some r => s.raise r x.2.1 (lowLane r.path.mask) (BitVec.ofNat 64 x.2.2) r.path.mask
        | none => s) (s.rotStop ms u)
    else
      let t := ms.foldl (fun (acc : Bool × State) x =>
        let a := acc.2.touch x.r.wk (x.src + 64 * u) 64 (x.r.gk + 1)
        let b := a.2.touch (8 * x.r.gid + (x.r.wk % 8 + 1) % w) (x.dst + 64 * u) 64 (x.r.gk + 1)
        (acc.1 && a.1 && b.1, b.2)) (true, s)
      if !t.1 then t.2.rotStop ms u
      else
        let data := ms.map fun x => (x, Memory.read (t.2.slocMem (.scratch x.r.wk)) (x.src + 64 * u) 64)
        let s1 := data.foldl (fun (s : State) y =>
          let l := SLoc.scratch (8 * y.1.r.gid + (y.1.r.wk % 8 + 1) % w)
          s.putSloc l (Memory.write (s.slocMem l) (y.1.dst + 64 * u) 64 y.2) (s.slocTags l)) t.2
        s1.rotLines ms w fuel (u + 1)

/-- COLLECTIVE_MISMATCH in every waiting member. -/
def State.rotMismatch (s0 : State) (ms : List Rot) : State :=
  ms.foldl (fun (s0 : State) x =>
    let s := s0.rotFree x.r.gid (x.r.gk % 16)
    match s.runAt x.r.key with
    | some r => s.raiseWhole r cCOLLECTIVE
    | none => s) s0

/-- RROT of a group whose lanes all wait at it: alignment, then the rotation once every workgroup's group of that index has arrived and
their older atomics have read (R200). -/
def State.runRrot (s : State) (gk : Nat) : State :=
  match s.rotOf gk with
  | none => s
  | some x =>
    let bad := [x.src, x.dst, x.n].find? fun v => v % 64 != 0
    match bad with
    | some v => s.raise x.r cMISALIGN (lowLane x.r.path.mask) (BitVec.ofNat 64 v) x.r.path.mask
    | none =>
      let w := x.r.gang.nwg
      let keys := (List.range w).map fun i => 16 * (8 * x.r.gid + i) + gk % 16
      let here := keys.filterMap s.rotOf
      if keys.any fun k => (s.pathsOf k).isEmpty then s.rotMismatch here
      else if here.length < w || (here.any fun y => [y.src, y.dst, y.n].any fun v => v % 64 != 0) then s
      else if here.any fun y => y.n != x.n then s.rotMismatch here
      else if here.any fun y => s.rmwWait y.r then s
      else
        let u0 := (here.headD x).r.path.unit0
        ((s.rotFree x.r.gid (gk % 16)).rotPin here w).rotLines here w (x.n / 64 - u0) u0

/-- Execute the collective that every non-exited lane of a group waits at (R138). -/
def State.collTest (s : State) (gk : Nat) : State :=
  let ps := s.pathsOf gk
  if !collReady ps then s
  else
    match ps with
    | (_, p) :: _ =>
      match p.wait with
      | .coll (.lmma d a b) => s.runLmma gk ps d.toNat a.toNat b.toNat
      | .coll (.rrot a b) => (s.gatherColl gk ps (.rrot a b)).runRrot gk
      | _ => s
    | [] => s

/-- Arrive at a collective. -/
def arrive (i : Sys2Proof.Instr) (legal : Run → Bool) (s : State) : Out :=
  withRun s fun r =>
    checked s r (r.legal i accAny false false false && legal r) (r.deadOf i false false) fun _ =>
      .next (((s.putPath r.key { r.path with wait := .coll i }).joinTest r.gk 33).collTest r.gk)

/-- LMMA (R325). -/
def execLmma (d : BitVec 7) (a b : BitVec 8) (s : State) : Out :=
  arrive (.lmma d a b) (fun r => lmmaOk d.toNat a.toNat b.toNat r.path.gm) s

/-- RROT (R313). -/
def execRrot (a b : BitVec 8) (s : State) : Out := arrive (.rrot a b) (fun _ => true) s

end Sys2Proof.Machine
end

