-- ==== Sys2Proof/Machine/Courier.lean ====
section
/-! DEFINITION. The Courier: copy instances between G, K, C and S, with decoding, completion targets and faults
(spec/09_engines.md R163–R167). An instance reads all its source bytes, then writes; each attempt goes as far as
requests, pages and links let it. -/

namespace Sys2Proof.Machine

/-- The rows of instance k: source and destination addresses, exact (R164). -/
def CopyEntry.rows (e : CopyEntry) (k : Nat) : List (Int × Int) :=
  (List.range e.z).flatMap fun (z : Nat) => (List.range e.y).map fun (y : Nat) =>
    ((e.src.toNat : Int) + k * e.srcadv + z * e.srcsz + y * e.srcsy,
     (e.dst.toNat : Int) + k * e.dstadv + z * e.dstsz + y * e.dstsy)

/-- A part of an instance's reads or writes: the row, its offset in the row's bytes, address, length, and for a q4x
scale byte the intermediate address with the window it is read through. -/
structure CPart where
  row   : Nat
  off   : Nat
  addr  : Int
  len   : Nat
  scale : Option (Nat × Option Nat) := none
deriving DecidableEq, Repr

/-- Offset of scale byte 0 of a row in its buffer. -/
def scaleOff : Nat := 2 ^ 31

/-- [a, a + n) in parts that cross no 64-byte boundary. -/
def blocks64 (row : Nat) (a : Int) : Nat → Nat → Nat → List CPart
  | 0, _, _ => []
  | fuel + 1, off, n =>
    if n = 0 then []
    else
      let k := min n (64 - (a + off).toNat % 64)
      ⟨row, off, a + off, k, none⟩ :: blocks64 row a fuel (off + k) (n - k)

/-- Reduction of an address in G modulo 2^64 (R91). -/
def gAddr (a : Int) : Int := a % (2 ^ 64 : Nat)

/-- The parts of a row's bytes in a space. -/
def rowParts (sp row : Nat) (a : Int) (n : Nat) : List CPart :=
  if sp = 0 then blocks64 row (gAddr a) (n / 64 + 2) 0 n else [⟨row, 0, a, n, none⟩]

/-- Bytes of a row in the source. -/
def CopyEntry.srcLen (e : CopyEntry) (f : Nat) : Nat :=
  if !e.decode || rawLoad e.dtype f then e.x
  else if f = 14 then e.x / tyBytes e.dtype / 2
  else e.x / tyBytes e.dtype * tyBytes f

/-- What a part comes to. -/
inductive CRes where
  | ok (s : State) (i : Inst)
  | wait (s : State) (i : Inst)
  | absent (s : State) (i : Inst) (addr : Int)
  | fail (s : State) (c : BitVec 8) (addr : Int)
deriving DecidableEq, Repr

/-- A Courier request for the address `va`: kind 6 read, 7 write; NO_PATH fails the instance as REMOTE. -/
def State.courierReq (s : State) (gid : Nat) (i : Inst) (kind g : Nat) (va : Int) (addr len off data : Nat) : CRes :=
  let f := s.fresh
  let rq : Req := {
    id := f.1, path := 4096 * gid, kind := kind, group := g, link := 0, tag := 0, gen := 0, va := BitVec.ofInt 64 va,
    addr := BitVec.ofNat 64 addr, len := len, data := BitVec.ofNat 512 data, op := 0, load := i.id, lane := 0, off := off,
    sent := false, covers := [], tainted := false, orphan := true }
  match f.2.send rq with
  | .sent s' => .ok s' { i with pend := i.pend + 1 }
  | .noPath => .fail f.2 cREMOTE va
  | .full => .wait s i

/-- Bytes of a part in an instance's buffer. -/
def bufOff (p : CPart) : Nat := 2 ^ 32 * p.row + p.off

/-- Read one part of the source. -/
def State.copyRead (s : State) (gid : Nat) (q : Gang) (e : CopyEntry) (i : Inst) (p : CPart) : CRes :=
  let put (bs : List Byte) : Inst := { i with buf := Memory.writeBytes i.buf (bufOff p) bs }
  match p.scale with
  | some (ia, win) =>
    match s.walk q.part ia .rd false win.isSome with
    | (.ok pa _ _, s1) => match win with
      | none => .ok s1 (put [CMap.get s1.mem pa])
      | some g => s1.courierReq gid i 6 g p.addr pa 1 (bufOff p) 0
    | (.fault c _, s1) => if c = cNOTPRESENT then .absent s1 i p.addr else .fail s1 c p.addr
    | (.soft, s1) => .absent s1 i p.addr
  | none =>
    if e.srcsp = 0 then
      match s.piece (s.ctx q.part q.ctx).aper q.part p.addr.toNat p.len .rd with
      | (.loc _ pa _ _, s1) => .ok s1 (put (Memory.bytes s1.mem pa p.len))
      | (.fab g _ addr _ _, s1) => s1.courierReq gid i 6 g p.addr addr p.len (bufOff p) 0
      | (.borrow _ _, s1) => .fail s1 cPERMISSION p.addr
      | (.bad c _ _ _ _, s1) => if c = cNOTPRESENT then .absent s1 i p.addr else .fail s1 c p.addr
    else
      let l := s.copyLoc gid q e.srcsp e.rank
      if p.addr < 0 || decide ((l.2 : Int) < p.addr + p.len) then .fail s cSCRATCH p.addr
      else
        let t := if e.srcsp = 3 then s.touch (8 * gid + e.rank) p.addr.toNat p.len else (true, s)
        if !t.1 then .wait t.2 i else .ok t.2 (put (Memory.bytes (t.2.slocMem l.1) p.addr.toNat p.len))

/-- Byte j of a row of the destination (R164). -/
def Inst.rowByte (i : Inst) (e : CopyEntry) (row j : Nat) : Byte :=
  let f := i.fmts.getD row 0
  let b := 2 ^ 32 * row
  if !e.decode || rawLoad e.dtype f then CMap.get i.buf (b + j)
  else
    let w := tyBytes e.dtype
    let n := j / w
    let v :=
      if f = 14 then
        let m := n / 4 * 4
        let raw := Memory.read i.buf (b + m / 2) 2
        (convert rne e.dtype (.flt (q4xVal (fun t => raw / 2 ^ (4 * t) % 16) (CMap.get i.buf (b + scaleOff + n / 4)).toNat (n % 4)).1)).1
      else (convert rne e.dtype (convSrc f false (Memory.read i.buf (b + n * tyBytes f) (tyBytes f)))).1
    BitVec.ofNat 8 (v / 2 ^ (8 * (j % w)))

/-- Write one part of the destination. -/
def State.copyWrite (s : State) (gid : Nat) (q : Gang) (e : CopyEntry) (i : Inst) (p : CPart) : CRes :=
  let bs := (List.range p.len).map fun j => i.rowByte e p.row (p.off + j)
  if e.dstsp = 0 then
    match s.piece (s.ctx q.part q.ctx).aper q.part p.addr.toNat p.len .wr with
    | (.loc _ pa _ en, s1) =>
      if entRed en && (s1.mgmt.selvDown || (s1.collOf q.part q.ctx (entColl en)).isNone) then .fail s1 cCOLLECTIVE p.addr
      else .ok (s1.storeLocal q.part q.ctx p.addr.toNat pa en bs) i
    | (.fab g _ addr _ _, s1) => s1.courierReq gid i 7 g p.addr addr p.len 0 (leNat bs)
    | (.borrow _ _, s1) => .fail s1 cPERMISSION p.addr
    | (.bad c _ _ _ _, s1) => if c = cNOTPRESENT then .absent s1 i p.addr else .fail s1 c p.addr
  else
    let l := s.copyLoc gid q e.dstsp e.rank
    if p.addr < 0 || decide ((l.2 : Int) < p.addr + p.len) then .fail s cSCRATCH p.addr
    else
      let t := if e.dstsp = 3 then s.touch (8 * gid + e.rank) p.addr.toNat p.len else (true, s)
      if !t.1 then .wait t.2 i
      else if tagged (t.2.slocTags l.1) p.addr.toNat p.len then .fail t.2 cBARRIER p.addr
      else .ok (t.2.putSloc l.1 (Memory.writeBytes (t.2.slocMem l.1) p.addr.toNat bs) (t.2.slocTags l.1)) i

/-- The parts from the instance's position on, as far as they go. -/
def copyParts (step : State → Inst → CPart → CRes) : List CPart → State → Inst → CRes
  | [], s, i => .ok s i
  | p :: t, s, i =>
    match step s i p with
    | .ok s' i' => copyParts step t s' { i' with pos := i'.pos + 1 }
    | r => r

/-- The FMT of each row's source page, before any byte is read; the first failure. -/
def State.rowFmts (s : State) (q : Gang) : List (Int × Int) → List Nat → Except (BitVec 8 × Int) (List Nat) × State
  | [], acc => (.ok acc, s)
  | r :: t, acc =>
    match s.piece (s.ctx q.part q.ctx).aper q.part (gAddr r.1).toNat 1 .rd with
    | (.bad c _ _ _ _, s1) => (.error (c, gAddr r.1), s1)
    | (.borrow _ _, s1) => (.error (cPERMISSION, gAddr r.1), s1)
    | (p, s1) => s1.rowFmts q t (acc ++ [(p.entry.map entFmt).getD 0])

/-- The scale bytes of a q4x row: one a quad, each with the address of its quad. -/
def State.scaleParts (s : State) (q : Gang) (e : CopyEntry) (row : Nat) (a : Int) : List CPart :=
  (List.range (e.x / tyBytes e.dtype / 4)).filterMap fun (j : Nat) =>
    let va := (gAddr (a + 2 * j)).toNat
    match (s.piece (s.ctx q.part q.ctx).aper q.part va 1 .rd).1 with
    | .loc ia _ _ en => some ⟨row, scaleOff + j, va, 1, some (entScale en +
        ia % (if s.largeAt q.part ia then 2 ^ 21 else 2 ^ 16) / (16 * 2 ^ entBlk en), none)⟩
    | .fab g ia _ _ en => some ⟨row, scaleOff + j, va, 1, some (entScale en +
        ia % (if s.largeAt q.part ia then 2 ^ 21 else 2 ^ 16) / (16 * 2 ^ entBlk en), some g)⟩
    | _ => none

/-- All source parts. -/
def State.srcParts (s : State) (q : Gang) (e : CopyEntry) (i : Inst) : List CPart :=
  let rows := e.rows i.k
  (rows.zip (List.range rows.length)).flatMap fun x =>
    let f := i.fmts.getD x.2 0
    rowParts e.srcsp x.2 x.1.1 (e.srcLen f) ++
      (if e.decode && f = 14 && !rawLoad e.dtype f then s.scaleParts q e x.2 x.1.1 else [])

/-- All destination parts. -/
def Inst.dstParts (i : Inst) (e : CopyEntry) : List CPart :=
  let rows := e.rows i.k
  (rows.zip (List.range rows.length)).flatMap fun x => rowParts e.dstsp x.2 x.1.2 e.x

/-- Update an instance's record. -/
def State.putInst (s : State) (gid : Nat) (i : Inst) : State :=
  match FMap.get? s.gangs gid with
  | none => s
  | some q => s.putGang gid { q with insts := q.insts.map fun x => if x.id = i.id then i else x }

/-- Record the first failure (R166). -/
def Gang.copyFail (q : Gang) (slot : Nat) (c : BitVec 8) : Gang :=
  if q.cstat.getLsbD 13 then q
  else { q with cstat := BitVec.ofNat 32 (slot % 2 ^ 13 + 2 ^ 13 + c.toNat * 2 ^ 14) }

/-- The completion target of an entry (R165). -/
def State.copyTarget (s : State) (gid : Nat) (q : Gang) (i : Inst) (e : CopyEntry) : State :=
  match e.tgt with
  | 1 =>
    let sp := match bf e.taddr 62 2 with | 2 => 2 | 3 => 1 | _ => 3
    let l := (s.copyLoc gid q sp e.rank).1
    let o := bf e.taddr 0 32
    if s.barTag l o then s.putBar l o (bBytes (s.barWord l o) (2 ^ 28 - e.x * e.y * e.z % 2 ^ 28))
    else (s.putGang gid (q.copyFail (2 * i.entry) cBARRIER)).defer gid cBARRIER (BitVec.ofNat 64 o) none
  | 2 => s.decDep q.part q.ctx e.taddr
  | 3 => s.eventAdd gid e.event
  | _ => s

/-- The end of an instance: its failure recorded and deferred (R188), its target updated, waiters tested. -/
def State.finishInst (s : State) (gid : Nat) (i : Inst) (e : CopyEntry) (c : BitVec 8) (addr : Int) : State :=
  match FMap.get? s.gangs gid with
  | none => s
  | some q =>
    let q1 := { (if c = 0 then q else q.copyFail (2 * i.entry) c) with insts := q.insts.filter fun x => x.id != i.id }
    let s1 := (s.putGang gid q1).copyTarget gid q1 i e
    let s2 := if c = 0 then s1 else s1.defer gid c (BitVec.ofInt 64 addr) none
    s2.bwaitAll.reapGang gid

/-- One attempt at an instance (R164–R166). `retry`: at a point of R112. -/
def State.instStep (s : State) (gid id : Nat) (retry : Bool) : State :=
  match FMap.get? s.gangs gid with
  | none => s
  | some q =>
    match q.insts.find? fun i => i.id == id with
    | none => s
    | some i =>
      match q.sched[i.entry]? with
      | none => s
      | some e =>
        if i.pend ≠ 0 || (i.held && !retry) then s
        else if i.code ≠ 0 then s.finishInst gid i e i.code (i.miss.getD 0)
        else
          let absent (s : State) (j : Inst) (a : Int) : State :=
            let s1 := s.putInst gid { j with held := true, miss := some a }
            if i.held && i.miss == some a then s1 else s1.defer gid cNOTPRESENT (BitVec.ofInt 64 a) none
          let fm := if e.decode && i.fmts.isEmpty then s.rowFmts q (e.rows i.k) [] else (.ok i.fmts, s)
          match fm.1 with
          | .error (c, a) => if c = cNOTPRESENT then absent fm.2 i a else fm.2.finishInst gid i e c a
          | .ok fs =>
            let i1 := { i with fmts := fs }
            let badQ := e.decode && (((e.rows i.k).zip fs).any fun x =>
              x.2 == 14 && !rawLoad e.dtype x.2 && (e.x / tyBytes e.dtype % 4 != 0 || (gAddr x.1.1).toNat % 2 != 0))
            if badQ then fm.2.finishInst gid i1 e cFORMAT 0
            else
              let rd := if i1.wr then CRes.ok fm.2 i1
                else copyParts (fun s i p => s.copyRead gid q e i p) ((fm.2.srcParts q e i1).drop i1.pos) fm.2 i1
              match rd with
              | .wait s1 i2 => s1.putInst gid i2
              | .absent s1 i2 a => absent s1 i2 a
              | .fail s1 c a => s1.finishInst gid i1 e c a
              | .ok s1 i2 =>
                if i2.pend ≠ 0 then s1.putInst gid { i2 with held := false }
                else
                  let i3 := if i2.wr then i2 else { i2 with wr := true, pos := 0 }
                  match copyParts (fun s i p => s.copyWrite gid q e i p) ((i3.dstParts e).drop i3.pos) s1 i3 with
                  | .wait s2 i4 => s2.putInst gid i4
                  | .absent s2 i4 a => absent s2 i4 a
                  | .fail s2 c a => s2.finishInst gid i3 e c a
                  | .ok s2 i4 =>
                    if i4.pend ≠ 0 then s2.putInst gid { i4 with held := false } else s2.finishInst gid i4 e 0 0

/-- A Courier request for the address `va` is answered. -/
def State.instArrived (s : State) (gid id off len : Nat) (va : BitVec 64) (code : BitVec 8) (read : Bool) (data : Nat) : State :=
  match FMap.get? s.gangs gid with
  | none => s
  | some q =>
    s.putGang gid { q with insts := q.insts.map fun i =>
      if i.id = id then
        { i with
          pend := i.pend - 1
          code := if code ≠ 0 then cREMOTE else i.code
          miss := if code ≠ 0 && i.code = 0 then some va.toNat else i.miss
          buf := if read && code = 0 then Memory.write i.buf off len data else i.buf }
      else i }

/-! ### The end of a request (R36, R38, R41, R42) -/

/-- A request fails, with the link it travelled on if any: a load's lane or a Courier instance receives the failure, a write's or
an atomic's is kept for the flags and the fence after it. The request is in the table no more. -/
def State.failReq (s : State) (q : Req) (code : BitVec 8) (link : Option Nat) : State :=
  if q.kind = 6 || q.kind = 7 then s.instArrived (q.path / 4096) q.load q.off q.len q.va code (q.kind == 6) 0
  else if q.kind = 0 then s.laneArrived (q.path / 32) q.load q.lane q.off code 0
  else if q.kind = 2 || q.load ≠ 0 then (s.postFail q code link false).laneArrived (q.path / 32) q.load q.lane q.off code 0
  else s.postFail q code link

/-- An access to local memory that waited for the accesses before it is performed (R197, R198). -/
def State.performHere (s : State) (q : Req) (e : BitVec 128) (ext : Nat × Nat) : State :=
  let old := Memory.read s.mem q.addr.toNat q.len
  if q.kind = 0 then s.laneArrived (q.path / 32) q.load q.lane q.off 0 old
  else if q.kind = 1 then
    match FMap.get? s.gangs (q.path / 4096) with
    | some g => s.storeLocal g.part g.ctx q.va.toNat q.addr.toNat e (leBytes q.data.toNat q.len) ⟨q.path, q.lane, ext, q.id⟩
    | none => s
  else
    let new := (AOp.ofCode (q.op % 8)).apply (q.op / 8) old (bf q.data 0 64) (bf q.data 64 64)
    let s1 := { s with mem := Memory.write s.mem q.addr.toNat q.len new }
    if q.kind = 2 then s1.laneArrived (q.path / 32) q.load q.lane q.off 0 old else s1

/-- Accesses to SO pages that waited for the lane before them are made, oldest first (R197). -/
def State.chain (s : State) : Nat → State
  | 0 => s
  | fuel + 1 =>
    match s.reqs.find? fun q => !q.sent && q.kind != 4 && q.kind != 5 && !q.covers.any s.pends with
    | none => s
    | some q =>
      let s1 := { s with reqs := s.reqs.filter fun x => x.id != q.id }
      match q.here with
      | some (e, ext) => (s1.performHere q e ext).chain fuel
      | none =>
        match s1.emit { q with covers := [] } with
        | .sent s2 => s2.chain fuel
        | .noPath => (s1.failReq q 3 none).chain fuel
        | .full => s

/-- What follows when requests have left the table: those that waited are made, flags that cover a failure are withheld, exits report. -/
def State.drainReqs (s : State) : State := ((s.chain s.reqs.length).withhold s.reqs.length).settleExits

/-- The requests queued on a link that has gone down take another path of their group, or fail with NO_PATH where it was the last
(R42). -/
def State.requeue (s : State) (l : Nat) : State :=
  ((s.reqs.filter fun q => q.sent && !q.left && q.link == l).foldl (fun (s : State) q =>
    let s1 := { s with reqs := s.reqs.filter fun x => x.id != q.id }
    match s1.send q with
    | .sent s2 => s2
    | .noPath => s1.failReq q 3 none
    | .full => { s1 with reqs := s1.reqs ++ [{ q with sent := false, covers := [] }] }) s).drainReqs

/-- Retry the held instances of the gangs that a test selects (R166). -/
def State.retryInsts (s : State) (sel : Gang → Bool) : State :=
  s.gangs.foldl (fun (s : State) x =>
    if x.2.status = 0 && sel x.2 then (x.2.insts.filter (·.held)).foldl (fun (s : State) i => s.instStep x.1 i.id true) s else s) s

/-- COURIER_INSTANCE_DONE (R165): instance number `inst` of a gang goes on, to its end if nothing holds it. -/
def execCourierInstanceDone (gang inst : Nat) (s : State) : Out :=
  .next (match FMap.get? s.gangs gang with
    | none => s
    | some q => match (if q.status = 0 && !s.mgmt.needsReset then q.insts[inst]? else none) with
      | some i => s.instStep gang i.id false
      | none => s)

/-- COURIER_RETRY (R166). -/
def execCourierRetry (gang : Nat) (s : State) : Out :=
  .next (match FMap.get? s.gangs gang with
    | none => s
    | some q => (q.insts.filter fun i => i.held && q.status == 0 && !s.mgmt.needsReset).foldl (fun (s : State) i => s.instStep gang i.id true) s)

end Sys2Proof.Machine
end

