-- ==== Sys2Proof/Machine/Task.lean ====
section
/-! DEFINITION. Dockets, tile headers and settling as instructions (spec/18_engine_and_task_instructions.md R316–R321,
spec/08_task_sorter_and_postmarks.md R153–R161). -/

namespace Sys2Proof.Machine

/-! ### Operands in G (R305) -/

/-- The check of a G operand of an engine or task instruction: alignment, aperture, walk. A window other than local
memory is refused (log 24). -/
def State.taskOperand (s : State) (r : Run) (va : BitVec 64) (align : Nat) (nd : Need) : Option (BitVec 8) × State :=
  if va.toNat % align ≠ 0 then (some cMISALIGN, s)
  else
    match s.piece r.path.aper r.gang.part va.toNat align nd with
    | (.loc .., s1) => (none, s1)
    | (.bad c _ _ _ _, s1) => (some c, s1)
    | (_, s1) => (some cPERMISSION, s1)

/-- The causes of several lanes' operands. -/
def State.taskLanes (s : State) (r : Run) (lanes : List (Nat × BitVec 64)) (nd : Need) : List LaneFault × State :=
  lanes.foldl (fun (acc : List LaneFault × State) x =>
    let y := acc.2.taskOperand r x.2 64 nd
    (acc.1 ++ (match y.1 with | some c => [⟨x.1, c, x.2⟩] | none => []), y.2)) ([], s)

/-- Raise a cause at a uniform operand. -/
def State.raiseUni (s : State) (r : Run) (c : BitVec 8) (addr : BitVec 64) : State := s.raiseLanes r [⟨r.ulane, c, addr⟩]

/-- Past the instruction, whatever its path has become. -/
def State.pastDone (s : State) (r : Run) : State :=
  s.modPath r.key fun p => p.pastSwitch (s.rctx r).aper (p.pc + 4)

/-- p7 for a uniform status instruction, and past it. -/
def State.uniStatus (s : State) (r : Run) (fail : Option (BitVec 8)) : State :=
  (s.status r r.active (if fail.isSome then 0 else r.active) (fail.getD 0) r.ulane).pastDone r

/-! ### SPAWN and COMP (R155, R316, R317) -/

/-- Whether a SPAWN to a pigeonhole faults PERMISSION (R148, R155). -/
def State.holeRefused (s : State) (r : Run) (h : Nat) : Bool :=
  let x := s.hole h
  decide (256 ≤ h) || x.log == 0 || x.hostfed || s.holeOwner h != some r.gang.part || x.ctx != r.gang.ctx

/-- Append images to a pigeonhole: TAIL advances once (R155), and a slot that waits is tried
again (R152). -/
def State.append (s : State) (part h : Nat) (images : List (List Byte)) (launch : Option Nat := none) : State :=
  let x := s.hole h
  let at_ := (List.range images.length).map fun i => x.tail + BitVec.ofNat 32 i
  let s1 := (images.zip at_).foldl (fun (s : State) y => (s.wroteAddr part x.ctx (slotAddr x y.2) y.1).2) s
  s1.putHole h { x with
    tail := x.tail + BitVec.ofNat 32 images.length
    again := x.waits
    origin := x.origin ++ (launch.map fun k => at_.map fun i => (i.toNat, k)).getD [] }

/-- The launch that a gang works for: its own, or that of the docket that started it (log 50). -/
def State.workLaunch (s : State) (q : Gang) : Option Nat :=
  match q.src with
  | .launch k => some k
  | .docket k => (FMap.get? s.dockets k).bind (·.launch)

/-- Whether a pigeonhole has room for n more dockets. -/
def Hole.room (x : Hole) (n : Nat) : Bool := decide ((x.tail - x.head).toNat + n ≤ 2 ^ x.log)

/-- The dockets up to an index have passed their checks (R316). -/
def State.accepted (s : State) (h upto : Nat) : Bool := decide (((s.hole h).acc - BitVec.ofNat 32 upto).toNat < 2 ^ 31)

/-- Append and hold until acceptance. -/
def State.spawn (s : State) (r : Run) (h : Nat) (images : List (List Byte)) : State :=
  let s1 := s.append r.gang.part h images (s.workLaunch r.gang)
  s1.modPath r.key fun p => { p with wait := .spawned h (s1.hole h).tail.toNat }

/-- SPAWN (R316). -/
def execSpawn (a b : BitVec 8) (s : State) : Out :=
  withRun s fun r =>
    checked s r (r.legal (.spawn a b) accAny false false false) (r.deadOf (.spawn a b) false false) fun _ =>
      if r.active = 0 then .next (s.doneSwitch r)
      else
        let h := (r.uni b).toNat
        let lanes := (lanesOf r.active).map fun L => (L, r.srcPair a L)
        let x := s.taskLanes r lanes .rd
        let refused := if x.2.holeRefused r h then lanes.map fun y => (⟨y.1, cPERMISSION, BitVec.ofNat 64 h⟩ : LaneFault) else []
        let imgs := lanes.map fun y => x.2.pieceLoad r.gk r.gang.part (x.2.piece r.path.aper r.gang.part y.2.toNat 64 .rd).1
        let absent := (lanes.zip imgs).filterMap fun y => match y.2 with
          | .error c => some (⟨y.1.1, c, y.1.2⟩ : LaneFault)
          | .ok _ => none
        let fs := if x.1.isEmpty then refused ++ absent else refused ++ x.1
        if !fs.isEmpty then .next (x.2.raiseLanes r fs)
        else if (imgs.any fun i => match i with | .ok none => true | _ => false) || x.2.heldWrite r ||
            !(x.2.hole h).room lanes.length then
          .next (x.2.hold r)
        else .next (x.2.spawn r h (imgs.map fun i => match i with | .ok (some bs) => bs | _ => []))

/-- The image COMP builds (R317). -/
def compImage (prio : Nat) (desc : BitVec 64) : List Byte :=
  leBytes (3 + 8 * prio) 48 ++ leBytes desc.toNat 16

/-- COMP (R317). -/
def execComp (w : BitVec 1) (d : BitVec 7) (a b : BitVec 8) (s : State) : Out :=
  withRun s fun r =>
    checked s r (r.legal (.comp w d a b) accAny false false false) (r.deadOf (.comp w d a b) false false) fun _ =>
      if r.active = 0 then .next (s.doneSwitch r)
      else
        let h := bf (r.uni b) 0 8
        if s.holeRefused r h then
          .next (s.raiseLanes r ((lanesOf r.active).map fun L => ⟨L, cPERMISSION, BitVec.ofNat 64 h⟩))
        else if s.heldWrite r || !(s.hole h).room 1 then .next (s.hold r)
        else
          let slot := slotAddr (s.hole h) (s.hole h).tail
          let g := if w = 1 then r.group else r.group.writeS d.toNat true slot
          .next ((s.putGroup r.gk g).spawn r h [compImage (bf (r.uni b) 8 2) (r.srcPair a r.ulane)])

/-! ### TDEP and TSIG (R153, R318) -/

/-- Add to the DEP of each lane's docket, lanes ascending. -/
def depOp (i : Sys2Proof.Instr) (a : BitVec 8) (add : Run → Nat → BitVec 32) (s : State) : Out :=
  withRun s fun r =>
    checked s r (r.legal i accAny false false false) (r.deadOf i false false) fun _ =>
      let lanes := (lanesOf r.active).map fun L => (L, r.srcPair a L)
      let x := s.taskLanes r lanes .rmw
      if !x.1.isEmpty then .next (x.2.raiseLanes r x.1)
      else if !lanes.isEmpty && x.2.heldWrite r then .next (x.2.hold r)
      else
        .next ((lanes.foldl (fun (s : State) y =>
          match (s.piece r.path.aper r.gang.part y.2.toNat 64 .rmw).1 with
          | .loc _ pa _ _ =>
            let old := BitVec.ofNat 32 (Memory.read s.mem (pa + 4) 4)
            ({ s with mem := Memory.write s.mem (pa + 4) 4 (old + add r y.1).toNat }).depChanged r.gang.part r.gang.ctx y.2
          | _ => s) x.2).pastDone r)

/-- TDEP (R318). -/
def execTdep (a b : BitVec 8) (s : State) : Out := depOp (.tdep a b) a (fun r L => r.src32 b L) s
/-- TSIG (R318). -/
def execTsig (a : BitVec 8) (s : State) : Out := depOp (.tsig a) a (fun _ _ => 0xFFFFFFFF) s

/-! ### POST, SEAL, PMRK (R157, R319) -/

/-- The header an instruction names, checked: its place, or a cause with its address. An update in the chip scratchpad meets the barrier
tags (R169). -/
def State.header (s : State) (r : Run) (a : BitVec 8) (k : BitVec 1) (nd : Need) : Except (BitVec 8 × BitVec 64) HLoc × State :=
  if k = 1 then
    let o := (r.uni a).toNat
    if o % 64 ≠ 0 then (.error (cMISALIGN, BitVec.ofNat 64 o), s)
    else if s.spLimit r .K < o + 64 then (.error (cSCRATCH, BitVec.ofNat 64 o), s)
    else
      match r.gang.src with
      | .launch l =>
        if nd == .rmw && tagged (s.slocTags (.chip l)) o 64 then (.error (cBARRIER, BitVec.ofNat 64 o), s) else (.ok (.k l o), s)
      | .docket _ => (.error (cSCRATCH, BitVec.ofNat 64 o), s)
  else
    let va := r.srcPair a r.ulane
    match s.taskOperand r va 64 nd with
    | (some c, s1) => (.error (c, va), s1)
    | (none, s1) => (.ok (.g r.gang.part r.gang.ctx va), s1)

/-- An instruction on a header; ACTIVE empty completes. -/
def headerOp (i : Sys2Proof.Instr) (a : BitVec 8) (k : BitVec 1) (nd : Need) (f : Run → HLoc → State → State) (s : State) : Out :=
  withRun s fun r =>
    checked s r (r.legal i accAny false false false) (r.deadOf i false false) fun _ =>
      if r.active = 0 then .next (s.doneSwitch r)
      else
        match s.header r a k nd with
        | (.error (c, addr), s1) => .next (s1.raiseUni r c addr)
        | (.ok loc, s1) => .next (f r loc s1)

/-- POST (R157, R319): held by the side log before the update, by borrowers after it. -/
def execPost (a : BitVec 8) (k f : BitVec 1) (s : State) : Out :=
  headerOp (.post a k f) a k .rmw (fun r loc s =>
    if s.heldWrite r then s.hold r
    else
      match s.postHdr loc with
      | .ok s1 =>
        let s2 := if f = 1 then s1.status r r.active r.active 0 0 else s1
        match loc with
        | .g part ctx va =>
          if s2.noticed loc then s2.modPath r.key fun p => { p with wait := .notice (lendKey part ctx va) } else s2.pastDone r
        | .k _ _ => s2.pastDone r
      | .sealed => if f = 1 then s.uniStatus r (some 0x10) else s.raiseWhole r cPOSTMARK
      | .limit => if f = 1 then s.uniStatus r (some 0x11) else s.raiseWhole r cPOSTMARK
      | .lost => s.raiseUni r cNOTPRESENT 0) s

/-- SEAL (R157). -/
def execSeal (a : BitVec 8) (k : BitVec 1) (s : State) : Out :=
  headerOp (.seal a k) a k .rmw (fun r loc s =>
    if s.heldWrite r then s.hold r
    else
      match s.sealHdr loc with
      | some s1 => s1.pastDone r
      | none => s.raiseUni r cNOTPRESENT 0) s

/-- The words PMRK writes (R319). -/
def pmrkWord (h : BitVec 512) : BitVec 64 :=
  BitVec.ofNat 64 ((hPost h).toNat + 2 ^ 32 * (hReaders h (hPost h + 1) + (if hSealed h then 2 ^ 16 else 0) + (if hSettled h then 2 ^ 17 else 0)))

/-- PMRK (R319). -/
def execPmrk (w : BitVec 1) (d : BitVec 7) (a : BitVec 8) (k : BitVec 1) (s : State) : Out :=
  headerOp (.pmrk w d a k) a k .rd (fun r loc s =>
    match s.readHdr loc with
    | some h => (s.putGroup r.gk (if w = 1 then r.group else r.group.writeS d.toNat true (pmrkWord h))).doneSwitch r
    | none => s.raiseUni r cNOTPRESENT 0) s

/-! ### SUBS (R320) -/

/-- SUBS. -/
def execSubs (a b : BitVec 8) (s : State) : Out :=
  withRun s fun r =>
    checked s r (r.legal (.subs a b) accAny false false false) 0 fun _ =>
      if r.active = 0 then .next (s.doneSwitch r)
      else
        let hdr := r.srcPair a r.ulane
        let va := r.srcPair b r.ulane
        let x := s.taskOperand r hdr 64 .rmw
        let y := x.2.taskOperand r va 64 .rmw
        match worst ((match x.1 with | some c => [c] | none => []) ++ (match y.1 with | some c => [c] | none => [])) with
        | some c => .next (y.2.raiseUni r c (if (x.1 == some c) = true then hdr else va))
        | none =>
          match y.2.docketAt r.gang.part r.gang.ctx va with
          | none => .next (y.2.uniStatus r (some 0x13))
          | some (k, d) =>
            if d.state = 5 || d.state = 6 || d.subv then .next (y.2.uniStatus r (some 0x13))
            else if y.2.rmwWait r then .next (y.2.hold r)
            else
              let loc := HLoc.g r.gang.part r.gang.ctx hdr
              match (y.2.walkHdr loc).subscribe r.gang.part r.gang.ctx va hdr with
              | none => .next ((y.2.walkHdr loc).uniStatus r (some 0x14))
              | some s1 =>
                let d1 := { d with subv := true, subhdr := hdr, subctx := r.gang.ctx }
                let s2 := (s1.putDocket k d1).writeSlot d1 0
                  (leBytes (d.kind + 8 * d.prio + 32 + (if d.pre then 64 else 0) + (if d.autoseal then 128 else 0)) 1)
                let s3 := s2.writeSlot d1 0x18 (leBytes hdr.toNat 8)
                let s4 := match s3.readHdr loc with
                  | some h => s3.fireOne h k
                  | none => s3
                .next (s4.uniStatus r none)

/-! ### SETTLE (R160, R321) -/

/-- Why an access at a virtual address of a context fails (R103, R107). -/
def State.vaCause (s : State) (part ctx va : Nat) (nd : Need) : Option (BitVec 8) :=
  match (s.piece (s.ctx part ctx).aper part va 1 nd).1 with
  | .loc .. => none
  | .bad c _ _ _ _ => some c
  | _ => some cPERMISSION

/-- Why an access at a register's address fails (R359). -/
def State.addrCause (s : State) (part ctx : Nat) (a : BitVec 64) (nd : Need) : Option (BitVec 8) :=
  if a.msb then none else s.vaCause part ctx a.toNat nd

/-- The first cause on the pages of [a, a + n). -/
def State.rangeCause (s : State) (part ctx a n : Nat) (nd : Need) : BitVec 8 :=
  ((List.range (n / 65536 + 2)).findSome? fun i =>
    let b := if i = 0 then a else a / 65536 * 65536 + 65536 * i
    if a + n ≤ b then none else s.vaCause part ctx b nd).getD cNOTPRESENT

/-- Test a settle group: past the instruction when UNSETTLED reads 0, a fault, or a wait. -/
def State.settleTest (s : State) (r : Run) (g : Nat) (status : Bool) (act : BitVec 32) : State :=
  let c := s.rctx r
  if c.sgn ≤ g then
    if status then (s.status r act 0 0x12 (lowLane act)).pastDone r else s.raiseWhole r cPOSTMARK
  else
    let a := c.sgbase + BitVec.ofNat 64 (16 * g)
    match s.readAddr r.gang.part r.gang.ctx a 4 with
    | (some bs, s1) =>
      if leNat bs = 0 then (if status then s1.status r act act 0 0 else s1).pastDone r
      else s1.modPath r.key fun p => { p with wait := .settle g status act }
    | (none, s1) =>
      s1.raise r ((s1.addrCause r.gang.part r.gang.ctx a .rd).getD cNOTPRESENT) (lowLane act) a (1#32 <<< lowLane act)

/-- SETTLE (R321). -/
def execSettle (a : BitVec 8) (f : BitVec 1) (s : State) : Out :=
  withRun s fun r =>
    checked s r (r.legal (.settle a f) accAny false false false) (r.deadOf (.settle a f) false false) fun _ =>
      if r.active = 0 then .next (s.doneSwitch r)
      else .next (s.settleTest r (bf (r.uni a) 0 16) (decide (f = 1)) r.active)

end Sys2Proof.Machine
end

