-- ==== Sys2Proof/Machine/Loom.lean ====
section
/-! DEFINITION. The Loom: command lists, shuttle rings, accumulator banks (spec/09_engines.md R170–R177,
spec/18_engine_and_task_instructions.md R322–R324, spec/07_execution_model.md R146). Each event of the Loom performs
one step of the list at the head of a core's queue. -/

namespace Sys2Proof.Machine

/-! ### The instructions (R322–R324) -/

/-- LQUE (R322): the hand-off to the Loom is held while an earlier CORE write is not performed (R204). -/
def execLque (a : BitVec 8) (s : State) : Out :=
  withRun s fun r =>
    checked s r (r.legal (.lque a) accAny false false false) 0 fun _ =>
      let va := r.srcPair a r.ulane
      let c := s.core r.wg.core
      if r.active = 0 then .next (s.doneSwitch r)
      else if va.toNat % 32 ≠ 0 then .next (s.raiseUni r cMISALIGN va)
      else if decide (Config.loomQueue ≤ c.loom.length) || s.heldRelease r then .next (s.hold r)
      else
        let l : LoomList := { addr := va, part := r.gang.part, ctx := r.gang.ctx, wg := some r.wk, docket := none, banks := [],
                              acc := none, cmd := 0, step := 0, fmt := false, ended := false, code := 0 }
        .next ((s.putCore r.wg.core { c with loom := c.loom ++ [l] }).doneSwitch r)

/-- A blocked AALLOC whose banks have been granted goes on. -/
def State.banksTest (s : State) (r : Run) : State :=
  match FMap.get? s.wgs r.wk with
  | some w => if w.acc.isSome then s.doneSwitch r else s
  | none => s

/-- AALLOC (R146, R323): also with ACTIVE empty, by the lowest lane of the mask. -/
def execAalloc (a : BitVec 8) (s : State) : Out :=
  withRun s fun r =>
    checked s r (r.legal (.aalloc a) accAny false false false) (r.deadOf (.aalloc a) false false) fun _ =>
      let L := if r.active = 0 then lowLane r.path.mask else r.ulane
      let n := (r.src32 a L).toNat
      let c := s.core r.wg.core
      if n = 0 || 16 < n || r.wg.acc.isSome || c.bankQueue.any (fun x => x.1 == r.wk) then .next (s.raiseWhole r cACC)
      else
        let s1 := ((s.putCore r.wg.core { c with bankQueue := c.bankQueue ++ [(r.wk, n)] }).putPath r.key
          { r.path with wait := .banks }).grantBanks r.wg.core 17
        .next (s1.banksTest r)

/-- Whether lists of a workgroup are queued or running. -/
def State.listsOf (s : State) (w : Wg) (wk : Nat) : Bool := (s.core w.core).loom.any fun l => l.wg == some wk

/-- AFREE (R323). -/
def execAfree (s : State) : Out :=
  withRun s fun r =>
    checked s r (r.legal .afree accAny false false false) 0 fun _ =>
      if r.wg.acc.isNone then .next (s.raiseWhole r cACC)
      else if s.listsOf r.wg r.wk then .next (s.hold r)
      else .next (((s.putWg r.wk { r.wg with acc := none }).freeBanksOf r.wg.core r.wk).pastDone r)

/-- The checks that ADRN and AFIL share: ACTIVE empty, alignment, the allocation, lists that must complete first; then the
units from PIX on. -/
def bankMove (i : Sys2Proof.Instr) (a b : BitVec 8) (pre : Run → State → State) (unit : Run → State → Nat → Nat → UnitRes)
    (fin : Run → Acc → State → State) (s : State) : Out :=
  withRun s fun r =>
    checked s r (r.legal i accAny false false false) (r.deadOf i false false) fun _ =>
      let base := r.srcPair a r.ulane
      let sel := r.uni b
      let f := bf sel 0 4
      let c := bf sel 4 5
      if r.active = 0 then .next (s.doneSwitch r)
      else if base.toNat % 16 ≠ 0 then .next (s.raiseUni r cMISALIGN base)
      else
        match r.wg.acc with
        | none => .next (s.raiseWhole r cACC)
        | some acc =>
          if c = 0 || 16 < c || acc.banks.length < f + c then .next (s.raiseWhole r cACC)
          else if !r.path.inH && s.listsOf r.wg r.wk then .next (s.hold r)
          else
            let us := (List.range (4096 * c)).drop r.path.unit0
            .next (longUnits r (unit r) (fin r acc) (us.map fun u => (u, u)) (pre r s))

/-- The address of a unit's 16 image bytes. -/
def imageAt (r : Run) (a : BitVec 8) (u : Nat) : BitVec 64 := r.srcPair a r.ulane + BitVec.ofNat 64 (16 * u)

/-- The integer banks of an allocation, one bit each (R324). -/
def Acc.intMask (acc : Acc) : Nat := (List.range 16).foldl (fun m q => if CMap.get acc.kinds q = 1 then m + 2 ^ q else m) 0

/-- ADRN (R324): its stores to a reduction page contribute nothing (R296); one to a block that the group has logged bytes of waits (log
77). -/
def execAdrn (w : BitVec 1) (d : BitVec 7) (a b : BitVec 8) (s : State) : Out :=
  bankMove (.adrn w d a b) a b (fun _ s => s) (fun r s u _ =>
      let q := r.atUnit s u
      let va := imageAt r a u
      match s.piece r.path.aper r.gang.part va.toNat 16 .wr with
      | (.loc ia pa _ e, s1) =>
        let x := ((r.wg.acc.map fun acc => CMap.get acc.data (4096 * bf (r.uni b) 0 4 + u)).getD 0).toNat
        if s1.collGone r.gang.part r.gang.ctx e then .stop (s1.raiseWhole q cCOLLECTIVE)
        else if s1.logsBlock r.gk r.gang.part ia || s1.heldAt r.gk r.ulane none pa 16 || s1.rmwWait q || (entOrd e == 0 && s1.soBusy q) then .stop (s1.hold q)
        else .go (s1.storeLocal r.gang.part r.gang.ctx va.toNat pa e (leBytes x 16) { path := r.key, lane := r.ulane })
      | (.bad c _ _ _ _, s1) => .stop (s1.raiseUni q c va)
      | (_, s1) => .stop (s1.raiseUni q cPERMISSION va))
    (fun r acc s =>
      if w = 1 then s else s.putGroup r.gk (r.group.writeS d.toNat false (BitVec.ofNat 64 acc.intMask))) s

/-- AFIL (R324): kinds first, then the elements. -/
def execAfil (a b : BitVec 8) (s : State) : Out :=
  bankMove (.afil a b) a b (fun r s =>
    let sel := r.uni b
    match r.wg.acc with
    | some acc => s.putWg r.wk { r.wg with acc := some { acc with
        kinds := (List.range (bf sel 4 5)).foldl (fun k j =>
          CMap.set k (bf sel 0 4 + j) (if sel.getLsbD (16 + bf sel 0 4 + j) then 1 else 0)) acc.kinds } }
    | none => s) (fun r s u _ =>
      let q := r.atUnit s u
      let va := imageAt r a u
      match s.piece r.path.aper r.gang.part va.toNat 16 .rd with
      | (.fab .., s1) => .stop (s1.raiseUni q cPERMISSION va)
      | (p, s1) =>
        match s1.pieceLoad r.gk r.gang.part p with
        | .error c => .stop (s1.raiseUni q c va)
        | .ok none => .stop (s1.hold q)
        | .ok (some bs) =>
          if s1.heldPart r.gk r.ulane p || (p.so && s1.soBusy q) then .stop (s1.hold q)
          else match FMap.get? s1.wgs r.wk with
          | none => .stop s1
          | some w => match w.acc with
            | none => .stop s1
            | some acc => .go (s1.putWg r.wk { w with acc := some { acc with
                data := CMap.set acc.data (4096 * bf (r.uni b) 0 4 + u) (BitVec.ofNat 80 (leNat (bs.take 10))) } }))
    (fun _ _ s => s) s

/-! ### Lists (R170–R175) -/

/-- The accumulators a list works on. -/
def State.listAcc (s : State) (l : LoomList) : Option Acc :=
  match l.wg with
  | some wk => (FMap.get? s.wgs wk).bind (·.acc)
  | none => l.acc

/-- Replace the head list's record and its accumulators. -/
def State.putHead (s : State) (core : Nat) (l : LoomList) (acc : Option Acc) : State :=
  let c := s.core core
  let l' := if l.wg.isNone then { l with acc := acc } else l
  let s1 := s.putCore core { c with loom := l' :: c.loom.drop 1 }
  match l.wg with
  | some wk => match FMap.get? s1.wgs wk with
    | some w => s1.putWg wk { w with acc := acc }
    | none => s1
  | none => s1

/-- Whether a list is frozen (R176): its gang does not run, its context swaps, or its handler runs. -/
def State.loomFrozen (s : State) (l : LoomList) : Bool :=
  (s.ctx l.part l.ctx).swapst != 0 || s.mgmt.needsReset ||
  match l.wg with
  | some wk =>
    (match FMap.get? s.gangs (wk / 8) with
      | some q => q.status != 0 || q.halted
      | none => true) || s.paths.any fun x => x.1 / 512 == wk && x.2.inH
  | none => l.acc.isNone || s.paths.any fun x => x.2.inH && (match FMap.get? s.gangs (x.1 / 4096) with
      | some q => q.part == l.part && q.ctx == l.ctx
      | none => false)

/-- The end of a list (R174): its status word, its target, its removal. -/
def State.endLoom (s : State) (core : Nat) (l : LoomList) (code : BitVec 8) : State :=
  let c := s.core core
  let s2 := ((s.seenAll.putCore core { c with loom := c.loom.drop 1 }).endWrites l code).bwaitAll
  match l.wg with
  | some wk => s2.reapGang (wk / 8)
  | none => match l.docket with
    | some k => s2.freeBanksOf core (docketOwner k)
    | none => s2

/-- A valid MMA or MMAZ command (R170). -/
def mmaOk (x : BitVec 256) (docket : Bool) : Bool :=
  let a := bf x 4 4
  let b := bf x 8 4
  (a == 4 || a == 8 || a == 9 || a == 10 || a == 12 || a == 13 || a == 14) &&
    (a == b || ((a == 12 || a == 13) && (b == 12 || b == 13))) &&
    bf x 12 2 != 3 && bf x 14 2 != 3 && bf x 16 6 != 0 && bf x 22 2 == 0 && bf x 29 3 == 0 && bf x 32 16 != 0 &&
    bf x 48 16 == 0 && bf x 64 32 % 8 == 0 && bf x 96 32 % 8 == 0 && bf x 128 32 % 64 == 0 && bf x 160 32 % 64 == 0 &&
    bf x 200 56 == 0 && (!docket || x.getLsbD 28)

/-- What the Loom finds at a ring: a status, a wait, or the slot. -/
inductive RingRes where
  | bad (c : BitVec 8)
  | wait
  | ok (slot : Nat)
deriving DecidableEq, Repr

/-- The slot of use u of a ring, its barriers checked; `fresh` when its full barrier is yet to be waited for. The words of CURSOR, of the
two barriers and of the slot's data are each within the bound (R173); a CURSOR with a barrier tag is refused too (R169, log 98). -/
def State.ringSlot (s : State) (x : SLoc × Nat) (g : Ring) (sz u : Nat) (fresh : Bool) : RingRes :=
  if x.2 < g.hdr + 8 || s.barTag x.1 g.hdr then .bad 5
  else
    let v := (s.barWord x.1 g.hdr).toNat + u
    let slot := v % 2 ^ 64 % g.n
    let full := g.hdr + 8 * (1 + slot)
    let empty := g.hdr + 8 * (1 + g.n + slot)
    if x.2 < full + 8 || x.2 < empty + 8 || x.2 < g.data + (slot + 1) * sz then .bad 5
    else if !s.barTag x.1 full || !s.barTag x.1 empty then .bad 6
    else if fresh && !bReached (s.barWord x.1 full) ((v % 2 ^ 64 / g.n + 1) % 128) then .wait
    else .ok slot

/-- Element k of row i in a slot, and whether it is an escape outside slot 0. -/
def slotEl (m : CMap 8) (base rows t blk i k : Nat) : FV × Bool :=
  if t = 14 then
    q4xVal (fun j => (CMap.get m (base + 64 * i + j / 2)).toNat / 2 ^ (4 * (j % 2)) % 16)
      (CMap.get m (base + 64 * rows + 128 / blk * i + k / blk)).toNat k
  else ((fmtOf t).decode (Memory.read m (base + 64 * i + k * tyBytes t) (tyBytes t)), false)

/-- Integer element. -/
def slotInt (m : CMap 8) (base i k : Nat) : Int := toSigned 8 (CMap.get m (base + 64 * i + k)).toNat

/-- One ADD16 step on the accumulators (R172): the accumulators and whether an escape was met. -/
def loomStep (acc : Acc) (ma : CMap 8) (baseA baseB m n ta tb blk accb step t : Nat) (zero : Bool) : Acc × Bool :=
  let ks := (List.range 16).map (· + 16 * t)
  let old (e : Nat) : Nat := if zero && step = 0 then 0 else (CMap.get acc.data (4096 * accb + e)).toNat
  let kinds := if zero then (List.range ((m * n + 4095) / 4096)).foldl (fun k q =>
    CMap.set k (accb + q) (if ta = 4 then 1 else 0)) acc.kinds else acc.kinds
  if ta = 4 then
    ({ acc with kinds := kinds, data := CMap.setMany acc.data ((List.range (m * n)).map fun e =>
        (4096 * accb + e, BitVec.ofInt 80 (ks.foldl (fun (a : Int) k =>
          a + slotInt ma baseA (e / n) k * slotInt ma baseB (e % n) k) (old e)))) }, false)
  else
    let ra := (List.range m).map fun i => ks.map fun k => slotEl ma baseA m ta blk i k
    let rb := (List.range n).map fun j => ks.map fun k => slotEl ma baseB n tb blk j k
    ({ acc with kinds := kinds, data := CMap.setMany acc.data ((List.range (m * n)).map fun e =>
        (4096 * accb + e, BitVec.ofNat 80 (add16 fmtA80 (old e)
          (((ra.getD (e / n) []).map (·.1)).zip ((rb.getD (e % n) []).map (·.1)))).1)) },
      (ra ++ rb).any fun r => r.any (·.2))

/-- One step of the MMA or MMAZ at the head of a core's queue. Ring data are read as the Loom sees them: stores without a FENCE may be
seen late (R177). -/
def State.mmaStep (s : State) (core : Nat) (l : LoomList) (x : BitVec 256) (zero : Bool) : State :=
  let m := mselRows (bf x 12 2)
  let n := 16 * bf x 16 6
  let ta := bf x 4 4
  let tb := bf x 8 4
  let blk := 32 * 2 ^ bf x 14 2
  let accb := bf x 24 4
  if !mmaOk x l.docket.isSome then s.endLoom core l 2
  else
    match s.listAcc l with
    | none => s.endLoom core l 3
    | some acc =>
      let banks := (m * n + 4095) / 4096
      if acc.banks.length < accb + banks then s.endLoom core l 3
      else if !zero && (List.range banks).any fun q => (CMap.get acc.kinds (accb + q) == 1) != (ta == 4) then s.endLoom core l 4
      else
        let loc := s.listLoc l (if x.getLsbD 28 then .K else .S)
        let sps := 32 / tyBits ta
        let u := l.step / sps
        let t := l.step % sps
        let ga : Ring := ⟨bf x 64 32, bf x 128 32, bf x 192 4 + 1, m⟩
        let gb : Ring := ⟨bf x 96 32, bf x 160 32, bf x 196 4 + 1, n⟩
        let sza := ga.slotBytes ta blk
        let szb := gb.slotBytes tb blk
        match s.ringSlot loc ga sza u (t = 0), s.ringSlot loc gb szb u (t = 0) with
        | .bad c, _ => s.endLoom core l c
        | _, .bad c => s.endLoom core l c
        | .ok sa, .ok sb =>
          let touched := match loc.1 with
            | .scratch wk =>
              let a := s.touch wk (ga.data + sa * sza) sza
              let b := a.2.touch wk (gb.data + sb * szb) szb
              (a.1 && b.1, b.2)
            | _ => (true, s)
          if !touched.1 then touched.2
          else
            let s0 := touched.2
            let y := loomStep acc (s0.loomMem loc.1) (ga.data + sa * sza) (gb.data + sb * szb) m n ta tb blk accb l.step t zero
            let arriveAt (s : State) (g : Ring) (slot : Nat) : State :=
              let o := g.hdr + 8 * (1 + g.n + slot)
              s.putBar loc.1 o (bArrive (s.barWord loc.1 o))
            let s1 := if t + 1 = sps then (arriveAt (arriveAt s0 ga sa) gb sb).bwaitAll else s0
            let last := l.step + 1 = bf x 32 16 * sps
            let bump (s : State) (g : Ring) : State :=
              (s.seen loc.1 g.hdr 8).putSloc loc.1 (Memory.write (s.slocMem loc.1) g.hdr 8 ((s.barWord loc.1 g.hdr).toNat + bf x 32 16)) (s.slocTags loc.1)
            let s2 := if last then bump (bump s1 ga) gb else s1
            let l' := { l with fmt := l.fmt || y.2, step := if last then 0 else l.step + 1, cmd := if last then l.cmd + 1 else l.cmd }
            s2.putHead core l' (some y.1)
        | _, _ => s

/-- A valid DRAIN command (R174); a bit that its table does not list is reserved (log 85). -/
def drainOk (x : BitVec 256) : Bool :=
  decide (bf x 4 4 ≤ 13) && bf x 9 1 == 0 && bf x 10 2 != 2 && bf x 12 2 != 3 && bf x 14 2 == 0 && bf x 16 6 != 0 &&
    bf x 22 2 == 0 && bf x 28 36 == 0 && bf x 160 96 == 0

/-- DRAIN (R174): every element converted and written, in order; it waits for a scratch page that is not resident (R93) and goes on
from that element. -/
def State.drainCmd (s : State) (core : Nat) (l : LoomList) (x : BitVec 256) : State :=
  let m := mselRows (bf x 12 2)
  let n := 16 * bf x 16 6
  let t := bf x 4 4
  let w := tyBytes t
  let accb := bf x 24 4
  if !drainOk x then s.endLoom core l 2
  else
    match s.listAcc l with
    | none => s.endLoom core l 3
    | some acc =>
      if acc.banks.length < accb + (m * n + 4095) / 4096 then s.endLoom core l 3
      else
        let val (e : Nat) : Nat :=
          let v := (CMap.get acc.data (4096 * accb + e)).toNat
          (convert ⟨0, x.getLsbD 8, false⟩ t
            (if CMap.get acc.kinds (accb + e / 4096) = 1 then .int (toSigned 80 v) else .flt (fmtA80.decode v))).1
        let at_ (e : Nat) : Int := (bf x 64 64 : Nat) + (e / n : Nat) * toSigned 32 (bf x 128 32) + (e % n * w : Nat)
        let put (s : State) (e : Nat) : Except (BitVec 8) (Bool × State) :=
          match bf x 10 2 with
          | 0 =>
            let va := (gAddr (at_ e)).toNat
            let y := s.pieces (s.ctx l.part l.ctx).aper l.part .wr 3 va w
            match worst (y.1.filterMap fun p => match p with | .loc .. => none | .bad c _ _ _ _ => some c | _ => some cPERMISSION) with
            | some c => .error c
            | none => .ok (true, (y.1.foldl (fun (a : State × Nat) p => match p with
                | .loc _ pa k en => (a.1.storeLocal l.part l.ctx (va + a.2) pa en (((leBytes (val e) w).drop a.2).take k), a.2 + k)
                | _ => a) (y.2, 0)).1)
          | d =>
            let loc := s.listLoc l (if d = 1 then .K else .S)
            let o := at_ e
            if o < 0 || decide ((loc.2 : Int) < o + w) then .error cSCRATCH
            else if tagged (s.slocTags loc.1) o.toNat w then .error cBARRIER
            else
              let b := match loc.1 with
                | .scratch wk => s.touch wk o.toNat w
                | _ => (true, s)
              .ok (if b.1 then (true, b.2.putSloc loc.1 (Memory.write (b.2.slocMem loc.1) o.toNat w (val e)) (b.2.slocTags loc.1)) else b)
        let y := (List.range (m * n)).foldl (fun (a : State × Option (Except (BitVec 8) Nat)) e =>
          match a.2 with
          | some _ => a
          | none =>
            if e < l.drained then a
            else match put a.1 e with
              | .ok (true, s') => (s', none)
              | .ok (false, s') => (s', some (.ok e))
              | .error c => (a.1, some (.error c))) (s, none)
        match y.2 with
        | some (.error c) => y.1.endLoom core l (Config.loomWalkCode c)
        | some (.ok e) => y.1.putHead core { l with drained := e } (y.1.listAcc l)
        | none => y.1.putHead core { l with cmd := l.cmd + 1, step := 0, drained := 0 } (y.1.listAcc l)

/-- A valid END command (R174); a bit that its table does not list is reserved (log 85). -/
def endOk (x : BitVec 256) (docket : Bool) : Bool :=
  bf x 4 4 == 0 && bf x 10 2 != 2 && bf x 12 2 != 3 && bf x 14 2 == 0 && bf x 24 40 == 0 && bf x 192 64 == 0 &&
    (!docket || (bf x 12 2 == 1 && bf x 10 2 != 3 && bf x 8 2 != 3))

/-- A preempt-mode stop of a wave or Loom task (R158): its gang ends as a kill, its slot's reader count goes down, and the
docket is READY again. -/
def State.stopRun (s : State) (k : Nat) : State :=
  match FMap.get? s.dockets k with
  | none => s
  | some d =>
    let s1 := (s.gangs.filter fun x => x.2.src == .docket k).foldl (fun (s : State) x => s.killGang x.1) s
    (s1.dropReader d).putDocket k { d with state := 2, stopping := false }

/-- A Loom-task list whose docket is to stop leaves the Loom, with its banks. -/
def State.stopList (s : State) (core k : Nat) : State :=
  let c := s.core core
  ((s.putCore core { c with loom := c.loom.filter fun l => l.docket != some k }).freeBanksOf core (docketOwner k)).stopRun k

/-- Run the head list's command when its OP is among those given: one step of a multiplication, a drain, or its end. -/
def State.loomGo (s : State) (core : Nat) (ops : List Nat) : State :=
  match (s.core core).loom with
  | [] => s
  | l :: _ =>
    match l.docket.filter fun k => (FMap.get? s.dockets k).any (·.stopping) with
    | some k => s.stopList core k
    | none =>
    if s.loomFrozen l then s
    else
      match s.loomCmd l l.cmd with
      | (none, s1) => s1.endLoom core l (Config.loomWalkCode
          ((s.addrCause l.part l.ctx (l.addr + BitVec.ofNat 64 (32 * l.cmd)) .rd).getD 0))
      | (some x, s1) =>
        let op := bf x 0 4
        if 3 < op then s1.endLoom core l 2
        else if !ops.contains op then s1
        else
          match op with
          | 0 => s1.endLoom core l (if endOk x l.docket.isSome then 1 else 2)
          | 1 => s1.mmaStep core l x false
          | 2 => s1.mmaStep core l x true
          | _ => s1.drainCmd core l x

/-- MMA (R172): one step. -/
def execMma (core : Nat) (s : State) : Out := .next (s.loomGo core [1])
/-- MMAZ (R172): one step. -/
def execMmaz (core : Nat) (s : State) : Out := .next (s.loomGo core [2])
/-- DRAIN (R174). -/
def execDrain (core : Nat) (s : State) : Out := .next (s.loomGo core [3])
/-- END (R174). -/
def execEndList (core : Nat) (s : State) : Out := .next (s.loomGo core [0])
/-- LOOM_RING_PHASE (R171): the step that waited for a full barrier goes on. -/
def execLoomRingPhase (core : Nat) (s : State) : Out := .next (s.loomGo core [1, 2])

end Sys2Proof.Machine
end

