-- ==== Sys2Proof/Machine/Ray.lean ====
section
/-! DEFINITION. Rays and parcels: TRACE and the ray engine, PSEND, the parcel engine (spec/09_engines.md R179–R181,
spec/18_engine_and_task_instructions.md R326, R327, spec/03_selvedge_and_parcels.md R66–R68, spec/04 R84). -/

namespace Sys2Proof.Machine

/-! ### Residency feedback (R84) -/

/-- The compute die of a logical core. -/
def dieOf (core : Nat) : Nat := core / 48

/-- Report a missing page: past the die's filter, then to the context's ring, or dropped, with RES_OVERFLOW also where there is no ring
(log 95). -/
def State.report (s : State) (part ctx die va : Nat) : State :=
  let key := (die, ctxKey part ctx, va / 65536)
  if s.filters.contains key then s
  else
    let mine := s.filters.filter fun x => x.1 == die
    let old := if mine.length < Config.filterPairs then s.filters else
      match mine with
      | x :: _ => s.filters.erase x
      | [] => s.filters
    let s1 := { s with filters := old ++ [key] }
    let c := s1.ctx part ctx
    if c.reslog = 0 || ringFull c.reshead c.restail c.reslog then
      let s2 := s1.putCtx part ctx { c with resovf := satInc c.resovf, resPosted := true }
      if c.resPosted then s2 else s2.notify part 7 0 ctx 0
    else
      let a := c.resbase + BitVec.ofNat 64 (8 * (c.reshead.toNat % 2 ^ c.reslog))
      let s2 := (s1.wroteAddr part ctx a (leBytes (va / 65536 % 2 ^ 41 + die * 2 ^ 41) 8)).2
      s2.putCtx part ctx { s2.ctx part ctx with reshead := c.reshead + 1 }

/-! ### TRACE (R179, R326) -/

/-- Traces queued on a core. -/
def State.tracesOn (s : State) (core : Nat) : Nat :=
  s.gangs.foldl (fun n x => n + (x.2.traces.filter fun t =>
    ((FMap.get? s.wgs (t.path / 512)).map (·.core)) == some core).length) 0

/-- A lane's ray: eight f32 words. -/
def Run.ray (r : Run) (a L : Nat) : BitVec 256 :=
  BitVec.ofNat 256 ((List.range 8).foldl (fun x j => x + (r.group.vreg (a + j) L).toNat * 2 ^ (32 * j)) 0)

/-- The header address of a lane's ray. -/
def Run.rayHdr (r : Run) (a L : Nat) : BitVec 64 := r.group.vreg (a + 9) L ++ r.group.vreg (a + 8) L

/-- TRACE. -/
def execTrace (w : BitVec 1) (d : BitVec 7) (a b : BitVec 8) (s : State) : Out :=
  withRun s fun r =>
    checked s r (r.legal (.trace w d a b) accAny false false false) (r.deadOf (.trace w d a b) false false) fun _ =>
      let ev := bf (r.uni b) 0 8
      let act := lanesOf r.active
      let fs := act.filterMap fun L =>
        let va := r.rayHdr a.toNat L
        if va.toNat % 64 ≠ 0 then some (⟨L, cMISALIGN, va⟩ : LaneFault)
        else if 2 ^ 57 ≤ va.toNat || (aperFind r.path.aper va.toNat).isNone then some ⟨L, cAPERTURE, va⟩
        else none
      if r.active = 0 then .next ((s.eventAdd r.gid (bf (r.src32 b (lowLane r.path.mask)) 0 8)).pastDone r)
      else if !fs.isEmpty then .next (s.raiseLanes r fs)
      else if s.heldRelease r || decide (Config.traceQueue ≤ s.tracesOn r.wg.core) then .next (s.hold r)
      else
        let f := s.fresh
        let lanes := act.map fun L => ({ lane := L, reg := d.toNat, nreg := if w = 0 then 4 else 0, data := 0, miss := 1 } : LoadLane)
        let t : Trace := ⟨f.1, r.key, ev, f.1, act.map fun L => (L, r.ray a.toNat L, r.rayHdr a.toNat L)⟩
        let p := r.path.pastSwitch (s.rctx r).aper (r.path.pc + 4)
        let l : Load := { id := f.1, wr := decide (w = 0), status := true, hold := false, lanes := lanes }
        .next ((f.2.putGang r.gid { r.gang with traces := r.gang.traces ++ [t] }).putPath r.key { p with loads := p.loads ++ [l] })

/-- A read of the ray engine: bytes, and whether a page was soft-missing (its bytes are zero, R180); or a cause. -/
def State.rayRead (s : State) (part ctx die va n : Nat) : Except (BitVec 8) (List Byte × Bool) × State :=
  let y := (List.range 3).foldl (fun (acc : Except (BitVec 8) (List Byte × Bool) × State × Nat) _ =>
    match acc.1 with
    | .error _ => acc
    | .ok (bs, soft) =>
      if n ≤ acc.2.2 then acc
      else
        let k := min (n - acc.2.2) (65536 - (va + acc.2.2) % 65536)
        match acc.2.1.piece (acc.2.1.ctx part ctx).aper part (va + acc.2.2) k .rd true with
        | (.loc _ pa _ _, s1) => (.ok (bs ++ Memory.bytes s1.mem pa k, soft), s1, acc.2.2 + k)
        | (.bad c _ _ _ _, s1) =>
          if c = 0xFF then (.ok (bs ++ List.replicate k 0, true), s1.report part ctx die (va + acc.2.2), acc.2.2 + k)
          else (.error c, s1, acc.2.2)
        | (_, s1) => (.error cPERMISSION, s1, acc.2.2)) (.ok ([], false), s, 0)
  (y.1, y.2.1)

/-- What a traversal has found: the best hit (t, PRIM, u and v), the best portal (t, id), whether a page was missing; the nodes
opened. -/
structure Found where
  hit    : Option (BitVec 32 × BitVec 32 × BitVec 32) := none
  portal : Option (BitVec 32 × BitVec 32) := none
  soft   : Bool := false
  opened : List Nat := []
deriving DecidableEq, Repr

/-- Order of two f32 values, ties by number. -/
def better (t u : BitVec 32) (i j : BitVec 32) : Bool :=
  match FV.cmp? (fmtF32.decode t.toNat) (fmtF32.decode u.toNat) with
  | some .lt => true
  | some .eq => decide (i.toNat < j.toNat)
  | _ => false

/-- t lies in [TMIN, TMAX] of a ray. -/
def inRange (ray : BitVec 256) (t : BitVec 32) : Bool :=
  let ge (a b : Nat) : Bool := match FV.cmp? (fmtF32.decode a) (fmtF32.decode b) with
    | some .lt => false
    | some _ => true
    | none => false
  ge t.toNat (bf ray 192 32) && ge (bf ray 224 32) t.toNat

/-- More child words than a structure's 2^30 nodes hold, with its root. -/
def traceFuel : Nat := 2 ^ 33

/-- The traversal of a work list of child words (R179, R180): triangles intersected, portals entered, nodes opened, each once, where
the ray enters the box. -/
def State.traverse (s : State) (part ctx die : Nat) (ray : BitVec 256) (nodes tris : Nat) :
    Nat → List (BitVec 32 × BitVec 192) → Found → Except (BitVec 8) Found × State
  | 0, _, f => (.ok f, s)
  | _ + 1, [], f => (.ok f, s)
  | fuel + 1, (w, box) :: rest, f =>
    let i := bf w 0 30
    match bf w 30 2 with
    | 1 =>
      if f.opened.contains i then s.traverse part ctx die ray nodes tris fuel rest f
      else match s.rayRead part ctx die ((nodes + 128 * i) % 2 ^ 64) 128 with
      | (.error c, s1) => (.error c, s1)
      | (.ok (bs, soft), s1) =>
        let kids := (List.range 4).filterMap fun j =>
          let cw := BitVec.ofNat 32 (leNat ((bs.drop (96 + 4 * j)).take 4))
          let cb := BitVec.ofNat 192 (leNat ((bs.drop (24 * j)).take 24))
          if bf cw 30 2 ≠ 0 && (Config.boxEntry ray cb).isSome then some (cw, cb) else none
        s1.traverse part ctx die ray nodes tris fuel (kids ++ rest) { f with soft := f.soft || soft, opened := i :: f.opened }
    | 2 =>
      match s.rayRead part ctx die ((tris + 48 * i) % 2 ^ 64) 48 with
      | (.error c, s1) => (.error c, s1)
      | (.ok (bs, soft), s1) =>
        let prim := BitVec.ofNat 32 (leNat ((bs.drop 36).take 4))
        let hit := match (if soft then none else Config.triangleHit ray (BitVec.ofNat 288 (leNat (bs.take 36)))) with
          | some (t, u, v) =>
            if inRange ray t && (match f.hit with | some (t0, p0, _) => better t t0 prim p0 | none => true)
            then some (t, prim, v ++ u) else f.hit
          | none => f.hit
        s1.traverse part ctx die ray nodes tris fuel rest { f with hit := hit, soft := f.soft || soft }
    | 3 =>
      let portal := match Config.boxEntry ray box with
        | some t =>
          if inRange ray t && (match f.portal with | some (t0, p0) => better t t0 (BitVec.ofNat 32 i) p0 | none => true)
          then some (t, BitVec.ofNat 32 i) else f.portal
        | none => f.portal
      s.traverse part ctx die ray nodes tris fuel rest { f with portal := portal }
    | _ => s.traverse part ctx die ray nodes tris fuel rest f

/-- The hit record of a traversal (R180): T, id, u and v, KIND. -/
def Found.record (f : Found) (ray : BitVec 256) : BitVec 128 :=
  let miss : BitVec 128 := 0#32 ++ Config.traceOpen ray 2 ++ Config.traceOpen ray 1 ++ Config.traceOpen ray 0
  match f.hit, f.portal with
  | none, none => miss
  | some (t, p, uv), none => 1#32 ++ uv ++ p ++ t
  | none, some (t, p) => 2#32 ++ Config.traceOpen ray 2 ++ p ++ t
  | some (t, p, uv), some (pt, id) =>
    match FV.cmp? (fmtF32.decode pt.toNat) (fmtF32.decode t.toNat) with
    | some .lt => 2#32 ++ Config.traceOpen ray 2 ++ id ++ pt
    | _ => 1#32 ++ uv ++ p ++ t

/-- LSTAT's code for a lane whose trace failed with a cause, 0xFF a soft miss: R297's for a walk outcome (R305); none is stated for the
others (log 7). -/
def traceCode (c : BitVec 8) : BitVec 8 :=
  if c = cPERMISSION || c = cNOTPRESENT || c = cFORMAT then 0x40 + c else Config.traceStatus c

/-- One ray: its record, and LSTAT's code where p7 is false. -/
def State.traceRay (s : State) (part ctx die : Nat) (ray : BitVec 256) (hdr : BitVec 64) : (BitVec 128 × Option (BitVec 8)) × State :=
  let bad (c : BitVec 8) : BitVec 128 × Option (BitVec 8) := (3#32 ++ 0#32 ++ c.setWidth 32 ++ 0#32, some (traceCode c))
  match s.rayRead part ctx die hdr.toNat 64 with
  | (.error c, s1) => (bad c, s1)
  | (.ok (bs, soft), s1) =>
    if soft then ((({} : Found).record ray, some (traceCode 0xFF)), s1)
    else
      let root := BitVec.ofNat 32 (leNat ((bs.drop 16).take 4))
      match s1.traverse part ctx die ray (leNat (bs.take 8)) (leNat ((bs.drop 8).take 8)) traceFuel
          [((root &&& 0x3FFFFFFF) ||| 0x40000000, 0)] {} with
      | (.error c, s2) => (bad c, s2)
      | (.ok f, s2) => ((f.record ray, if f.soft then some (traceCode 0xFF) else none), s2)

/-- The lanes of a trace that a path holds. -/
def Path.traceLanes (p : Path) (load : Nat) : List LoadLane :=
  (p.loads.filter fun l => l.id == load).flatMap fun l => l.lanes.filter fun y => p.mask.getLsbD y.lane

/-- Those of its lanes whose p7 and LSTAT no debugger has cancelled (R89). -/
def Path.traceStatus (p : Path) (load : Nat) : List LoadLane :=
  if p.loads.any fun l => l.id == load && l.mute then [] else p.traceLanes load

/-- A trace's load leaves a path: LSTAT for its lowest failing lane (R305). -/
def Path.traceDone (p : Path) (load : Nat) (codes : List (Nat × BitVec 8)) : Path :=
  let bad := laneMask fun L => (p.traceStatus load).any fun y => y.lane == L && codes.any fun c => c.1 == L
  { p with
    loads := p.loads.filter fun l => l.id != load
    lstat := if bad = 0 then p.lstat else lstatOf (((codes.find? fun c => c.1 == lowLane bad).map (·.2)).getD 0) (lowLane bad) }

/-- The end of a trace: the records, p7 and LSTAT of the lanes that still run, but for what a debugger's FORCE cancelled (R89), and
the event (R305, R326). -/
def State.finishTrace (s : State) (gid : Nat) (t : Trace) : State :=
  match FMap.get? s.gangs gid, FMap.get? s.wgs (t.path / 512) with
  | some q, some w =>
    let res := t.rays.foldl (fun (acc : List (Nat × BitVec 128 × Option (BitVec 8)) × State) x =>
      let y := acc.2.traceRay q.part q.ctx (dieOf w.core) x.2.1 x.2.2
      (acc.1 ++ [(x.1, y.1)], y.2)) ([], s)
    let s1 := res.2
    let gk := t.path / 32
    let mine := s1.pathsOf gk
    let lanes := mine.flatMap fun p => p.2.traceLanes t.load
    let codes := res.1.filterMap fun x => x.2.2.map fun c => (x.1, c)
    let val (L : Nat) : BitVec 128 := ((FMap.get? res.1 L).map (·.1)).getD 0
    let told := mine.flatMap fun p => p.2.traceStatus t.load
    let ok := laneMask fun L => told.any fun y => y.lane == L && !(codes.any fun c => c.1 == L)
    let act := laneMask fun L => told.any fun y => y.lane == L
    let s2 := match FMap.get? s1.groups gk with
      | some g => s1.putGroup gk ({ g with v := CMap.setMany g.v (lanes.flatMap fun (y : LoadLane) =>
          ((List.range y.nreg).filter fun j => !y.skip.contains (y.reg + j)).map fun j =>
            (32 * (y.reg + j) + y.lane, (val y.lane).extractLsb' (32 * j) 32)) }.writeP 7 act ok)
      | none => s1
    let s3 := { s2 with paths := s2.paths.map fun (p : Nat × Path) =>
      if p.1 / 32 = gk then (p.1, p.2.traceDone t.load codes) else p }
    let s4 := match FMap.get? s3.gangs gid with
      | some q => s3.putGang gid { q with traces := q.traces.filter fun x => x.id != t.id }
      | none => s3
    (s4.eventAdd gid t.event).reapGang gid
  | _, _ => s

/-- TRACE_DONE (R179): trace number `trace` of a gang completes. -/
def execTraceDone (gang trace : Nat) (s : State) : Out :=
  .next (match FMap.get? s.gangs gang with
    | none => s
    | some q =>
      if q.status ≠ 0 || q.halted || s.mgmt.needsReset then s
      else match q.traces[trace]? with
        | some t => s.finishTrace gang t
        | none => s)

/-! ### PSEND (R327) -/

/-- Byte m of a lane's parcel. -/
def Run.parcel (r : Run) (a L : Nat) : BitVec 512 :=
  BitVec.ofNat 512 ((List.range 16).foldl (fun x j => x + (r.group.vreg (a + j) L).toNat * 2 ^ (32 * j)) 0)

/-- The fields the engine fills (R66). -/
def fillParcel (p : BitVec 512) : BitVec 512 :=
  setF (setF (setF p 304 8 (bf p 304 8 + 1)) 384 16 Config.package.toNat) 400 16 0

/-- A lane's fate: its destination, and the failure it meets, lanes ascending (R327 item 1). -/
def psendLanes (credits : FMap (Nat × Nat)) (lanes : List (Nat × Nat × BitVec 512)) : List (Nat × Nat × BitVec 8) :=
  lanes.foldl (fun acc x =>
    let used := (acc.filter fun y => y.2.1 == x.2.1 && y.2.2 == 0).length
    let c : BitVec 8 := if bf x.2.2 304 8 = 255 then 0x21
      else match FMap.get? credits x.2.1 with
        | none => 0x22
        | some (size, _) => if used < size then 0 else 0x23
    acc ++ [(x.1, x.2.1, c)]) []

/-- PSEND. -/
def execPsend (a b : BitVec 8) (s : State) : Out :=
  withRun s fun r =>
    checked s r (r.legal (.psend a b) accAny false false false) (r.deadOf (.psend a b) false false) fun _ =>
      let lanes := (lanesOf r.active).map fun L => (L, bf (r.src32 b L) 0 16, r.parcel a.toNat L)
      let fate : List (Nat × Nat × BitVec 8) :=
        if s.mgmt.selvDown then lanes.map fun x => (x.1, x.2.1, 0x22) else psendLanes s.selv.credits lanes
      let send := fate.filter fun x => x.2.2 == 0
      let need (d : Nat) : Nat := (send.filter fun x => x.2.1 == d).length
      if r.active = 0 then .next (s.doneSwitch r)
      else if s.heldRelease r || send.any fun x => decide ((((FMap.get? s.selv.credits x.2.1).map (·.2)).getD 0) < need x.2.1) then .next (s.hold r)
      else
        let cr := send.foldl (fun (m : FMap (Nat × Nat)) x => match FMap.get? m x.2.1 with
          | some (n, f) => FMap.set m x.2.1 (n, f - 1)
          | none => m) s.selv.credits
        let out := lanes.filterMap fun x =>
          if (send.any fun y => y.1 == x.1) = true then some (⟨x.2.1, 3, [], leBytes (fillParcel x.2.2).toNat 64⟩ : NetMsg) else none
        let ok := laneMask fun L => send.any fun y => y.1 == L
        let bad := lowLane (r.active &&& ~~~ok)
        let code := ((fate.find? fun x => x.1 == bad).map (·.2.2)).getD 0
        .next (({ s with selv := { s.selv with credits := cr }, netOut := s.netOut ++ out }.status r r.active ok code bad).pastDone r)

/-! ### The parcel engine (R67, R68) -/

/-- PARCEL_ARRIVAL (R67): the parcel to a free slot of its sender's run, its docket to the pigeonhole. -/
def execParcelArrival (part ctx sender : Nat) (parcel : BitVec 512) (s : State) : Out :=
  .next (
    let c := s.ctx part ctx
    match (if s.mgmt.selvDown then none else c.reg) with
    | none => s
    | some g =>
      match g.grants.find? fun x => x.1 == sender with
      | none => s
      | some (_, first, n) =>
        match (List.range n).find? fun j => !g.busy.contains (first + j) with
        | none => s
        | some j =>
          let slot := first + j
          let va := g.slots + BitVec.ofNat 64 (64 * slot)
          if (s.hole g.hole).log = 0 || !(s.hole g.hole).room 1 then s
          else
            match s.wroteVA part ctx 2 va.toNat (leBytes parcel.toNat 64) with
            | (false, s1) => s1
            | (true, s1) =>
              (s1.putCtx part ctx { s1.ctx part ctx with reg := some { g with busy := g.busy ++ [slot] } }).append part g.hole
                [leBytes (4 + 8 * g.prio) 48 ++ leBytes va.toNat 16])

/-- RECEIVE_SLOT_GRANT (R67, R68): a grant sets the credits of a destination; a returned slot restores them. -/
def execReceiveSlotGrant (dest slots : Nat) (fresh : Bool) (s : State) : Out :=
  let cr : FMap (Nat × Nat) :=
    if fresh then FMap.set s.selv.credits dest (slots, slots)
    else match FMap.get? s.selv.credits dest with
      | some (n, f) => FMap.set s.selv.credits dest (n, min n (f + slots))
      | none => s.selv.credits
  .next { s with selv := { s.selv with credits := cr } }

/-- GRANT_REVOCATION (R68). -/
def execGrantRevocation (dest : Nat) (s : State) : Out :=
  .next { s with selv := { s.selv with credits := FMap.erase s.selv.credits dest } }

/-- GEOM's ranges (R150): SLICE 0–16, SCRATCH 0–1,024, CLUSTER 0–512, POLICY 0 or 1, reserved bits. -/
def geomOk (g : BitVec 64) : Bool :=
  decide (bf g 7 5 ≤ 16) && decide (bf g 12 11 ≤ 1024) && decide (bf g 23 10 ≤ 512) && decide (bf g 33 2 ≤ 1) && bf g 35 29 == 0

/-- Runs of slots for a list of (package, slots). -/
def grantRuns : Nat → List (Nat × Nat) → List (Nat × Nat × Nat)
  | _, [] => []
  | at_, (p, n) :: t => (p, at_, n) :: grantRuns (at_ + n) t

/-- Read and check a registration (R68); one whose record or grant table cannot be read is refused, and GRANTS is read as R359 has an
address (log 91). -/
def State.regOf (s : State) (part ctx : Nat) (a : BitVec 64) : Option PReg × State :=
  match s.readAddr part ctx a 64 with
  | (none, s1) => (none, s1)
  | (some bs, s1) =>
    let x := BitVec.ofNat 512 (leNat bs)
    let n := bf x 320 13
    match s1.readAddr part ctx (BitVec.ofNat 64 (bf x 256 64)) (4 * n) with
    | (none, s2) => (none, s2)
    | (some tb, s2) =>
      let ent := (List.range n).map fun i => leNat ((tb.drop (4 * i)).take 4)
      let runs := ent.map fun e => (e % 65536, e / 65536 % 256 + 1)
      let h := bf x 64 8
      let hole := s.hole h
      if bf x 0 6 ≠ 0 || bf x 74 54 ≠ 0 || bf x 333 51 ≠ 0 || bf x 384 128 ≠ 0 || n = 0 || 4096 < n || bf x 256 2 ≠ 0 ||
          !geomOk (BitVec.ofNat 64 (bf x 192 64)) || ent.any (fun e => decide (2 ^ 24 ≤ e)) || hole.hostfed ||
          s.holeOwner h != some part || hole.ctx != ctx || !(runs.map (·.1)).Nodup then (none, s2)
      else (some ⟨BitVec.ofNat 64 (bf x 0 64), h, bf x 72 2, BitVec.ofNat 64 (bf x 128 64), BitVec.ofNat 64 (bf x 192 64),
        grantRuns 0 runs, []⟩, s2)

/-- A registration comes into force: what PREG names, as it was read at the write; none where it is refused. -/
def State.register (s : State) (part ctx : Nat) (reg : Option PReg) : State :=
  let c : Ctx := { s.ctx part ctx with regNext := none }
  if c.preg = 0 then s.putCtx part ctx { c with prstat := 0, reg := none }
  else
    match reg with
    | none => s.putCtx part ctx { c with prstat := 2, reg := none }
    | some g =>
      let s1 := s.putCtx part ctx { c with prstat := 1, reg := some g }
      { s1 with netOut := s1.netOut ++ g.grants.map fun (x : Nat × Nat × Nat) => (⟨x.1, 4, [ctxKey part ctx, x.2.2], []⟩ : NetMsg) }

/-- PREG (R68): the record and its grants are read; they come into force now, or once the registration in force is withdrawn. -/
def execPreg (part ctx : Nat) (v : BitVec 64) (s : State) : Out :=
  .next (if !s.hosted part then s
    else
      let y : Option PReg × State := if v = 0 then (none, s) else s.regOf part ctx v
      let c := { y.2.ctx part ctx with preg := v }
      if c.reg.isSome then y.2.putCtx part ctx { c with prstat := 3, regNext := y.1 }
      else (y.2.putCtx part ctx c).register part ctx y.1)

/-- PREG_WITHDRAW_DONE (R68): once no slot of the old registration is in use, its grants are revoked and the new one comes into
force. -/
def execPregWithdrawDone (part ctx : Nat) (s : State) : Out :=
  .next (
    let c := s.ctx part ctx
    match c.reg with
    | none => s
    | some g =>
      if c.prstat ≠ 3 || !g.busy.isEmpty then s
      else
        let s1 := { s with netOut := s.netOut ++ g.grants.map fun (x : Nat × Nat × Nat) => (⟨x.1, 5, [ctxKey part ctx], []⟩ : NetMsg) }
        (s1.putCtx part ctx { c with reg := none }).register part ctx c.regNext)

end Sys2Proof.Machine
end

