-- ==== Sys2Proof/Machine/System.lean ====
section
/-! DEFINITION. Which gangs run, system instructions (spec/19_system_instructions.md R328–R338), syscalls (spec/04 R82, R83), delivery
of deferred faults and MAPCHG (spec/10 R188–R190). -/

namespace Sys2Proof.Machine

/-! ### Which gangs run (R25, R141, R192, R360) -/

/-- Whether a logical core drains. -/
def Mgmt.drainingCore (m : Mgmt) (c : Nat) : Bool :=
  decide (c < 192) && (List.range 10).any fun k =>
    bf (m.core (10 * (c / 8) + k)) 0 2 == 3 && bf (m.core (10 * (c / 8) + k)) 16 8 == c

/-- A core of the gang drains. -/
def State.onDraining (s : State) (gid : Nat) (q : Gang) : Bool :=
  (List.range q.nwg).any fun i => ((FMap.get? s.wgs (8 * gid + i)).any fun w => s.mgmt.drainingCore w.core)

/-- The leading gang of a launch: the lowest-numbered that has not retired. -/
def State.leading (s : State) (q : Gang) : Bool :=
  match q.src with
  | .launch k => !(s.gangs.any fun x => x.2.src == .launch k && decide (x.2.linear < q.linear) && x.2.status != 4)
  | .docket _ => false

/-- A lower-numbered gang of the same launch is off its cores, or the leading one is stopped by a debug HALT (R141). -/
def State.lowerHeld (s : State) (q : Gang) : Bool :=
  match q.src with
  | .launch k => s.gangs.any fun x => x.2.src == .launch k && decide (x.2.linear < q.linear) &&
      (x.2.status == 1 || x.2.status == 2 || (x.2.status == 0 && x.2.halted && s.leading x.2))
  | .docket _ => false

/-- Whether a gang's paths may issue: placed, not halted, its context not swapping, its cores not draining, no lower
gang of its launch held, the package not in need of a reset (R24, R25, R86, R141, R192, R360). -/
def State.mayRun (s : State) (gid : Nat) (q : Gang) : Bool :=
  q.status == 0 && !q.halted && (s.ctx q.part q.ctx).swapst == 0 && !s.onDraining gid q && !s.lowerHeld q && !s.mgmt.needsReset

/-! ### Delivery of deferred faults and MAPCHG (R188, R189) -/

/-- The deferred fault that path k takes: its own at the end of any instruction; at a switch point also a Courier's, or one whose path
has ended. -/
def State.dueFault (s : State) (k : Nat) (p : Path) (q : Gang) : Option DFault :=
  q.dq.find? fun f => match f.path with
    | none => !p.mid
    | some x => x == (k, p.born) || (!p.mid && !((FMap.get? s.paths x.1).any fun y => y.born == x.2))

/-- A path that is not in handler mode takes a deferred fault of its gang. -/
def State.takeFault (s : State) (r : Run) (f : DFault) : State :=
  let h := (s.rctx r).hentry
  if r.path.inH || h = 0 then s
  else
    (s.putGang r.gid { r.gang with dq := r.gang.dq.erase f, lost := false }).putPath r.key
      (r.path.enter h f.cause 0 f.addr r.path.pc 0 true r.gang.lost)

/-- Deliver the deferred fault that is due at a path. -/
def State.deliverFault (s : State) (k : Nat) : State :=
  match s.runAt k with
  | none => s
  | some r => match s.dueFault k r.path r.gang with
    | none => s
    | some f => s.takeFault r f

/-- Deliver a deferred fault of a path's own store. -/
def State.deliverOwn (s : State) (k : Nat) : State :=
  match s.runAt k with
  | none => s
  | some r => match r.gang.dq.find? fun f => f.path == some (k, r.path.born) with
    | none => s
    | some f => s.takeFault r f

/-- Deliver a pending MAPCHG of the context to a path that is not in handler mode. -/
def State.deliverMapchg (s : State) (k : Nat) : State :=
  match s.runAt k with
  | none => s
  | some r =>
    let c := s.rctx r
    match c.chg with
    | [] => s
    | v :: rest =>
      if r.path.inH || r.path.mid || c.hentry = 0 then s
      else
        (s.putCtx r.gang.part r.gang.ctx { c with chg := rest }).putPath k
          (r.path.enter c.hentry cMAPCHG 0 (v.setWidth 64) r.path.pc 0 true false)

/-- A deferred fault first, then MAPCHG (R188). -/
def State.deliver (s : State) (k : Nat) : State := (s.deliverFault k).deliverMapchg k

/-- A path is between two instructions: its gang runs, so none of its cores drains (R26), and it waits for nothing. -/
def State.atDelivery (s : State) (k : Nat) : Bool :=
  match s.runAt k with
  | some r => r.path.wait == .ready && s.mayRun r.gid r.gang
  | none => false

/-- DEFERRED_FAULT_DELIVERY (R188). -/
def execDeferredFaultDelivery (p : Nat) (s : State) : Out := .next (if s.atDelivery p then s.deliverFault p else s)
/-- MAPCHG_DELIVERY (R189). -/
def execMapchgDelivery (p : Nat) (s : State) : Out := .next (if s.atDelivery p then s.deliverMapchg p else s)

/-! ### TRAP and replies (R82, R83, R333) -/

/-- s0 to s7 of a run's group. -/
def Run.trapArgs (r : Run) : List (BitVec 32) := (List.range 8).map r.group.sreg

/-- A syscall record's bytes 0x00–0x3F (R82). -/
def sysRecord (r : Run) (seq : BitVec 32) (code : BitVec 24) (args : List (BitVec 32)) : List Byte :=
  let n := r.key % 32
  let id := r.wk % 8 + r.gk % 16 * 2 ^ 3 + (if n < 4 then n * 2 ^ 7 else 2 ^ 9 + (n - 4) * 2 ^ 10)
  leBytes seq.toNat 4 ++ leBytes code.toNat 4 ++ leBytes r.gang.seq.toNat 4 ++ leBytes id 4 ++ leBytes r.path.pc.toNat 8 ++
    args.flatMap (fun x => leBytes x.toNat 4) ++ leBytes 0 8

/-- A path parked by TRAP appends its record, if the ring has room and the record a place (R82); one whose ring was taken away
meanwhile waits, as does one whose record cannot be written (log 95). -/
def State.trapTest (s : State) (r : Run) (code : BitVec 24) (args : List (BitVec 32)) : State :=
  let c := s.rctx r
  if c.syslog = 0 || ringFull c.syshead c.systail c.syslog then s
  else
    let seq := c.syshead + 1
    let a := c.sysbase + BitVec.ofNat 64 (64 * (c.syshead.toNat % 2 ^ c.syslog))
    match s.wroteAddr r.gang.part r.gang.ctx a (sysRecord r seq code args) with
    | (false, s1) => s1
    | (true, s1) =>
      let s2 := s1.putCtx r.gang.part r.gang.ctx { s1.ctx r.gang.part r.gang.ctx with syshead := seq }
      let s3 := if c.syshead = c.systail then s2.notify r.gang.part 8 0 r.gang.ctx 0 else s2
      { s3 with parked := s3.parked ++ [(r.key, seq, ctxKey r.gang.part r.gang.ctx)] }.putPath r.key { r.path with wait := .parked seq }

/-- TRAP (R333): the path parks, and its record is appended at once or once it can be. -/
def execTrap (i : BitVec 24) (s : State) : Out :=
  withRun s fun r =>
    checked s r (r.legal (.trap i) accAny false false false) 0 fun _ =>
      if r.active = 0 then .next (s.doneSwitch r)
      else if (s.rctx r).syslog = 0 then .next (s.raise r cTRAP (lowLane r.active) (i.setWidth 64) r.active)
      else .next ((s.putPath r.key { r.path with wait := .trapped i r.trapArgs }).trapTest r i r.trapArgs)

/-- A reply to a parked TRAP: s0, and the path goes on after it. -/
def State.reply (s : State) (part ctx : Nat) (seq value : BitVec 32) : State :=
  match s.parked.find? fun x => x.2.1 == seq && x.2.2 == ctxKey part ctx with
  | none => s
  | some (k, _, _) =>
    match s.runAt k with
    | none => s
    | some r =>
      let s1 := { s with parked := s.parked.filter fun x => !(x.2.1 == seq && x.2.2 == ctxKey part ctx) }
      (s1.putGroup r.gk (r.group.writeS 0 false (value.setWidth 64))).putPath k
        (r.path.pastSwitch (s.rctx r).aper (r.path.pc + 4))

/-- SYSREPLY (R83): to a swapped-out context it takes effect at resume. -/
def execSysreply (part ctx : Nat) (seq value : BitVec 32) (s : State) : Out :=
  .next (if !s.hosted part then s
    else if s.mgmt.needsReset then s
    else if (s.ctx part ctx).swapst ≠ 0 then { s with replies := s.replies ++ [(ctxKey part ctx, seq, value)] }
    else s.reply part ctx seq value)

/-- SYSTAIL (R82): the consume index; a TRAP that waits for room is tested when next chosen. -/
def execSystail (part ctx : Nat) (v : BitVec 32) (s : State) : Out :=
  .next (if s.hosted part then s.putCtx part ctx { s.ctx part ctx with systail := v } else s)

/-! ### RTE (R334) -/

/-- RTE: the return of R186, the exits of unnamed lanes, the retries of R112, then a pending delivery. -/
def execRte (s : State) : Out :=
  withRun s fun r =>
    checked s r (r.legal .rte accAny false false false && r.path.inH) 0 fun _ =>
      let p := r.path.rte
      let gone := r.path.smask &&& r.path.mask &&& ~~~r.path.hmask
      let s1 := s.putGroup r.gk { r.group with exited := r.group.exited ||| gone }
      let part := r.gang.part
      let ctx := r.gang.ctx
      let retry (s : State) : State :=
        (s.retryLog fun l => l.part == part && l.ctx == ctx).retryInsts fun q => q.part == part && q.ctx == ctx
      if p.mask = 0 then .next (retry ((s1.endPath r.key).afterExit r.wk))
      else .next ((retry (s1.putPath r.key p)).deliver r.key)

/-! ### System registers (R330–R332) -/

/-- The cluster of a logical core. -/
def clusterOf (core : Nat) : Nat := core / 8

/-- HCAUSE as read (R187). -/
def Path.hcauseRead (p : Path) : BitVec 32 :=
  (p.hcause &&& 0x7FFF) ||| (if p.inH then 0x8000 else 0) ||| (p.stop.setWidth 32 <<< 16)

/-- The logical core of a run's workgroup; a free value while it is off its cores (log 102). -/
def Run.coreNo (r : Run) : Nat := if r.wg.core < 192 then r.wg.core else Config.offCore r.wk % 192

/-- The value of a system register. -/
def State.sysRead (s : State) (r : Run) (n : Nat) : BitVec 64 :=
  let w (x : BitVec 32) : BitVec 64 := x.setWidth 64
  match n with
  | 0x000 => w s.mgmt.mapver
  | 0x001 => w r.path.gm
  | 0x002 => w r.path.pix
  | 0x003 => w r.path.lstat
  | 0x004 => w r.path.hcauseRead
  | 0x005 => r.path.hpc
  | 0x006 => r.path.haddr
  | 0x007 => w r.path.hlanes
  | 0x008 => w r.path.hmode
  | 0x009 => w r.path.hmask
  | 0x00A => w r.group.aflags
  | 0x020 => BitVec.ofNat 64 r.gang.ctx
  | 0x021 => BitVec.ofNat 64 (r.wk % 8 + r.gk % 16 * 8)
  | 0x022 => w r.gang.seq
  | 0x023 => BitVec.ofNat 64 r.wg.stage
  | 0x024 => BitVec.ofNat 64 r.coreNo
  | 0x025 => BitVec.ofNat 64 (clusterOf r.coreNo)
  | 0x026 => BitVec.ofNat 64 (r.gang.gx % 65536 + r.gang.gy % 65536 * 65536)
  | 0x027 => BitVec.ofNat 64 r.gang.gz
  | 0x030 => w (s.rctx r).issuepol
  | n => if 0x010 ≤ n && n ≤ 0x017 then CMap.get (s.rctx r).aper (n - 0x010) else 0

/-- SRD (R331). -/
def execSrd (w : BitVec 1) (d : BitVec 7) (n : BitVec 16) (s : State) : Out :=
  sOpW (.srd w d n) s (fun _ => true) (fun _ => (sysWide n.toNat, false)) fun r => (s.sysRead r n.toNat, 0)

/-- Access of a system register to SWR: 0 any mode, 1 handler mode only, 2 read only (R329, R330). -/
def sysAccess (n : Nat) : Nat :=
  if n = 0x001 || n = 0x003 || n = 0x00A then 0 else if n = 0 || (0x020 ≤ n && n ≤ 0x027) then 2 else 1

/-- Whether SWR may write a register with a value. -/
def swrOk (r : Run) (n : Nat) (x : BitVec 64) : Bool :=
  (sysAccess n == 0 || (sysAccess n == 1 && r.path.inH)) && (n != 1 || gmOk (x.setWidth 32))

/-- Writing a context's aperture: every path of the context uses the new value (R104). -/
def State.aperNow (s : State) (part ctx n : Nat) (x : BitVec 64) : State :=
  let c := s.ctx part ctx
  let s1 := s.putCtx part ctx { c with aper := CMap.set c.aper n x }
  { s1 with paths := s1.paths.map fun (p : Nat × Path) =>
      if (FMap.get? s1.gangs (p.1 / 4096)).any fun q => q.part == part && q.ctx == ctx
      then (p.1, { p.2 with aper := CMap.set p.2.aper n x, held := p.2.held.map fun m => CMap.set m n x }) else p }

/-- A system register of a path written: HPC, HMODE as R187; a new PIX leaves no expand-load half done (R301). -/
def Path.setSys (p : Path) (n : Nat) (x : BitVec 64) : Path :=
  let v : BitVec 32 := x.setWidth 32
  match n with
  | 0x001 => { p with gm := v }
  | 0x002 => { p with pix := v &&& 0x1FFFF, xbase := none }
  | 0x003 => { p with lstat := v &&& 0x1FFF }
  | 0x004 => { p with hcause := v &&& 0x7FFF }
  | 0x005 => if x.toNat % 4 = 0 then { p with hpc := x } else p
  | 0x006 => { p with haddr := x }
  | 0x007 => { p with hlanes := v }
  | 0x008 => if gmOk v then { p with hmode := v } else p
  | 0x009 => { p with hmask := v }
  | _ => p

/-- The effect of a write to a system register, on the path as given. -/
def State.sysWrite (s : State) (r : Run) (p : Path) (n : Nat) (x : BitVec 64) : State :=
  let v : BitVec 32 := x.setWidth 32
  let s1 := s.putPath r.key (p.setSys n x)
  if n = 0x00A then s1.putGroup r.gk { r.group with aflags := v &&& 0x7F }
  else if n = 0x030 then
    s1.putCtx r.gang.part r.gang.ctx { s.rctx r with issuepol := if v.toNat % 4 = 3 then (s.rctx r).issuepol else v &&& 3 }
  else if 0x010 ≤ n && n ≤ 0x017 then s1.aperNow r.gang.part r.gang.ctx (n - 0x010) (x &&& 0x07FFFFFFFFFFFFFF)
  else s1

/-- SWR (R332). -/
def execSwr (d : BitVec 7) (n : BitVec 16) (s : State) : Out :=
  withRun s fun r =>
    let x := if sysWide n.toNat then r.group.sreg (d.toNat + 1) ++ r.group.sreg d.toNat else (r.group.sreg d.toNat).setWidth 64
    checked s r (r.legal (.swr d n) accAny false false false && swrOk r n.toNat x) 0 fun _ =>
      .next (s.sysWrite r r.path.past n.toNat x)

/-! ### MAPACK (R335) -/

/-- Acknowledge a version for a context: only the current one counts (R26). -/
def State.ack (s : State) (part ctx : Nat) (v : BitVec 32) : State :=
  if v = s.mgmt.mapver then s.putCtx part ctx { s.ctx part ctx with acked := v, chg := [], grace := false } else s

/-- A uniform operand of the active mask, whatever the guard (R328). -/
def Run.maskUni (r : Run) (a : BitVec 8) : BitVec 32 := r.src32 a (lowLane r.path.mask)

/-- MAPACK. -/
def execMapack (a : BitVec 8) (s : State) : Out :=
  withRun s fun r =>
    checked s r (r.legal (.mapack a) accAny false false false && r.path.inH) (r.deadOf (.mapack a) false false) fun _ =>
      .next (s.putPath r.key { r.path with wait := .mapack (r.maskUni a) })

/-- MAPACK_ANSWER (R335): the comparison and its record are one step. -/
def execMapackAnswer (p : Nat) (s : State) : Out :=
  .next (match s.runAt p with
    | none => s
    | some r =>
      match r.path.wait with
      | .mapack v =>
        if s.mgmt.needsReset then s
        else
        let ok := v == s.mgmt.mapver
        (((s.ack r.gang.part r.gang.ctx v).status r r.path.mask (if ok then r.path.mask else 0) 0x30
          (lowLane r.path.mask))).modPath p fun x => x.pastSwitch (s.rctx r).aper (x.pc + 4)
      | _ => s)

/-- HOSTACK (R190). -/
def execHostack (part ctx : Nat) (v : BitVec 32) (s : State) : Out := .next (if s.hosted part then s.ack part ctx v else s)

/-! ### ICINV, CYC, PAUSE (R336–R338) -/

/-- ICINV: waits as `fence release, dev, core+gather`; fetches read memory afresh in this model (log 11). -/
def execIcinv (s : State) : Out :=
  withRun s fun r =>
    checked s r (r.legal .icinv accAny false false false) 0 fun _ =>
      let ids := s.fenceIds r 1 0x09
      if s.fenceDone r 1 ids then .next (s.finishFence r 1 0x09)
      else .next (s.putPath r.key { r.path with wait := .fence 1 0x09 ids })

/-- CYC (R337). -/
def execCyc (w : BitVec 1) (d : BitVec 7) (s : State) : Out :=
  sOpW (.cyc w d) s (fun _ => true) (fun _ => (true, false)) fun r => (BitVec.ofNat 64 (s.core r.wg.core).cycles, 0)

/-- PAUSE (R338). -/
def execPause (a : BitVec 8) (s : State) : Out :=
  withRun s fun r =>
    checked s r (r.legal (.pause a) accAny false false false) (r.deadOf (.pause a) false false) fun _ =>
      let c := bf (r.maskUni a) 0 16
      if c = 0 then .next (s.doneSwitch r)
      else .next (s.putPath r.key { r.path with wait := .pause ((s.core r.wg.core).cycles + c) })

/-- PAUSE_EXPIRY (R338). -/
def execPauseExpiry (p : Nat) (s : State) : Out :=
  .next (match s.runAt p with
    | none => s
    | some r =>
      match r.path.wait with
      | .pause till => if till ≤ (s.core r.wg.core).cycles && s.mayRun r.gid r.gang then s.doneSwitch r else s
      | _ => s)

end Sys2Proof.Machine
end

