-- ==== Sys2Proof/Machine/Place.lean ====
section
/-! DEFINITION. The placement of gangs, pre-emption, migration, resumption, context swap and the pager's and the
scheduler's own events (spec/07_execution_model.md R127–R147, spec/05 R92–R98, spec/04 R86, R87, spec/10 R192). -/

namespace Sys2Proof.Machine

/-! ### Cores (R12, R25) -/

/-- Whether a logical core is served by an active physical core: gangs are placed on it, and NO_FIT counts it, not one that drains (log 92). -/
def Mgmt.liveCore (m : Mgmt) (c : Nat) : Bool :=
  decide (c < 192) && (List.range 10).any fun k =>
    bf (m.core (10 * (c / 8) + k)) 0 2 == 0 && bf (m.core (10 * (c / 8) + k)) 16 8 == c

/-- The number of a workgroup's core, and of a gang's cluster, while it is placed nowhere. -/
def noCore : Nat := 1000

/-! ### Whether a gang fits (R92, R97, R131) -/

/-- What a gang asks for. -/
structure GReq where
  part   : Nat
  nwg    : Nat
  ngrp   : Nat
  slice  : Nat
  spages : Nat
  clunits : Nat
deriving DecidableEq, Repr

/-- Groups with lanes left on a sub-pipe of a core. -/
def State.slotsUsed (s : State) (c sp : Nat) : Nat :=
  (s.groups.filter fun g => g.1 % 4 == sp && ((FMap.get? s.wgs (g.1 / 16)).any fun w => w.core == c) &&
    s.paths.any fun p => p.1 / 32 == g.1).length

/-- A sum over the workgroups of a core. -/
def State.coreSum (s : State) (c : Nat) (f : Wg → Nat) : Nat :=
  s.wgs.foldl (fun n w => if w.2.core = c then n + f w.2 else n) 0

/-- Slots that a workgroup needs on a sub-pipe: groups j with j mod 4 = sp (R128). -/
def slotNeed (ngrp sp : Nat) : Nat := (ngrp + 3 - sp) / 4

/-- Room on one core for one workgroup. -/
def State.coreFits (s : State) (q : GReq) (c : Nat) : Bool :=
  s.mgmt.liveCore c &&
  ([0, 1, 2, 3].all fun sp => decide (s.slotsUsed c sp + slotNeed q.ngrp sp ≤ 8)) &&
  decide (s.coreSum c (fun w => 2048 * w.ngrp * w.slice) + 2048 * q.ngrp * q.slice ≤ 131072) &&
  decide (s.coreSum c (·.spages) + q.spages ≤ 2048)

/-- Cluster-memory units in use on a cluster. -/
def State.clUsed (s : State) (cl : Nat) : Nat :=
  s.gangs.foldl (fun n g => if g.2.cluster = cl && g.2.status != 4 then n + g.2.clunits else n) 0

/-- Whether a gang fits at a position of a cluster of its partition that is awake (R17, R131). -/
def State.fits (s : State) (q : GReq) (cl p : Nat) : Bool :=
  decide (p + q.nwg ≤ 8) && s.mgmt.started && decide (cl < s.mgmt.awake) && (s.part q.part).pclust.getLsbD cl &&
  ((List.range q.nwg).all fun w => s.coreFits q (8 * cl + p + w)) && decide (s.clUsed cl + q.clunits ≤ 512)

/-- The lowest cluster, then the lowest position, that qualifies (R131). -/
def State.findPlace (s : State) (q : GReq) (clusters : List Nat) : Option (Nat × Nat) :=
  (clusters.flatMap fun cl => (List.range 8).map fun p => (cl, p)).find? fun x => s.fits q x.1 x.2

/-- 64 KiB frames that back one workgroup's scratch. -/
def backing (spages : Nat) : Nat := (spages + 63) / 64

/-- Frames reserved from a partition's pool: by every workgroup until it ends, placed or not (R97). -/
def State.backingUsed (s : State) (part : Nat) : Nat :=
  s.wgs.foldl (fun n w => if (FMap.get? s.gangs (w.1 / 8)).any (fun g => g.part == part) = true then n + backing w.2.spages else n) 0

/-- Whether a gang of the partition is placed. -/
def State.placedPart (s : State) (part : Nat) : Bool :=
  s.gangs.any fun x => x.2.part == part && (x.2.status == 0 || x.2.status == 5)

/-- The pool size in force (R109). -/
def State.pool (s : State) (part : Nat) : Nat :=
  if s.placedPart part then (s.part part).sbsize.toNat else (s.part part).sbnext.toNat

/-- A gang that a launch started. -/
def Gang.launched (q : Gang) : Bool :=
  match q.src with
  | .launch _ => true
  | .docket _ => false

/-- EN of a partition's block: it has fallen once the kills of an ended partition's launches are finished (R74). -/
def State.partEn (s : State) (part : Nat) : Bool :=
  (s.part part).en && !((s.part part).ending && !(s.gangs.any fun x => x.2.part == part && x.2.launched && x.2.status != 4))

def State.backed (s : State) (q : GReq) : Bool :=
  decide (s.backingUsed q.part + q.nwg * backing q.spages ≤ s.pool q.part)

/-- Whether a gang could be placed even on empty cores of some clusters (R79 item 4, R152 item 2). -/
def State.couldFit (s : State) (q : GReq) (clusters : List Nat) : Bool :=
  (clusters.any fun cl => (s.part q.part).pclust.getLsbD cl && (List.range 8).any fun p =>
    decide (p + q.nwg ≤ 8) && (List.range q.nwg).all fun w => s.mgmt.liveCore (8 * cl + p + w)) &&
  decide (2048 * q.ngrp * q.slice ≤ 131072) && decide (q.nwg * backing q.spages ≤ s.pool q.part)

/-! ### The start of a gang (R90, R133) -/

/-- The policy in force for a context's gangs: ISSUEPOL.OVR, else the launch record's; 1 is locality-aware throttling (R143, R145). -/
def Ctx.policy (c : Ctx) (record : Nat) : Nat :=
  match bf c.issuepol 0 2 with
  | 1 => 0
  | 2 => 1
  | _ => record

/-- Place a gang's record and its workgroups, groups and splits, as R133 has them at start. `stages` and `pcs` give each
rank's stage and entry. -/
def State.startGang (s : State) (gid : Nat) (q : Gang) (ngrp slice spages : Nat) (stages : List Nat)
    (pcs : List (BitVec 64)) (sregs : CMap 32) : State :=
  let s1 := (s.putPart q.part { s.part q.part with sbsize := BitVec.ofNat 32 (s.pool q.part) }).putGang gid q
  let s2 := (List.range q.nwg).foldl (fun (s : State) w =>
    let wk := 8 * gid + w
    let s1 := s.putWg wk
      { core := 8 * q.cluster + q.pos + w, stage := stages.getD w 0, ngrp := ngrp, slice := slice, spages := spages
        scratch := [], tags := [], slices := [], pages := [], frames := [], pins := [], acc := none, lists := [] }
    (List.range ngrp).foldl (fun (s : State) j =>
      let gk := 16 * wk + j
      let pol := (s.ctx q.part q.ctx).policy q.policy
      (s.putGroup gk { v := [], s := sregs, p := [], aflags := 0, exited := 0, turn := 3, births := 1, rrots := 0, pol := pol }).putPath (32 * gk)
        { born := 0, pc := pcs.getD w 0, mask := 0xFFFFFFFF, gm := 2, stack := [], fw := [], live := [], pix := 0, lstat := 0
          aper := (s.ctx q.part q.ctx).aper, wait := .ready, loads := [], fails := [], inH := false, hcause := 0, hpc := 0
          haddr := 0, hlanes := 0, hmode := 0, hmask := 0, sfw := [], slive := [], smask := 0, hstack := [], stop := 0, mid := true }) s1) s1
  s2.startInsts gid (dueInsts q.sched 0 0 true)

/-- The number of a context's next gang; SEQ advances (R129). -/
def gangKey (part ctx : Nat) (seq : BitVec 32) : Nat := 2 ^ 32 * ctxKey part ctx + seq.toNat

/-- SEQ of a context's next gang: the next number that none of its gangs has (R129; log 81). -/
def State.freshSeq (s : State) (part ctx : Nat) : BitVec 32 :=
  let n := (s.ctx part ctx).nextSeq
  (((List.range (s.gangs.length + 1)).map fun i => n + BitVec.ofNat 32 i).find? fun q =>
    (FMap.get? s.gangs (gangKey part ctx q)).isNone).getD n

/-- Two scalar registers of a 64-bit value. -/
def sPair (m : CMap 32) (n : Nat) (x : BitVec 64) : CMap 32 :=
  CMap.set (CMap.set m n (x.setWidth 32)) (n + 1) ((x >>> 32).setWidth 32)

/-! ### Gangs off their cores (R98, R147, R192) -/

/-- A gang may be taken off its cores once nothing of it is outstanding: its completion counters are zero, its reads and
gathers are answered, no MAPACK of it waits (R335), and its running copy instances are complete, also one that a missing page holds
(R35, R167, R192). A flag that waits to be sent is none of these: it stays until the gang runs again (log 101). -/
def State.quiet (s : State) (gid : Nat) (q : Gang) : Bool :=
  !(s.allReqs.any fun r => (r.sent || decide (r.kind < 4)) && r.path / 4096 == gid) && !(s.selv.reads.any fun r => r.path / 4096 == gid) &&
  !(s.paths.any fun x => x.1 / 4096 == gid && match x.2.wait with | .mapack _ => true | _ => false) &&
  q.insts.all fun i => i.pos == 0 && i.pend == 0 && !i.wr

/-- Local loads in flight return (R192 item 3). -/
def State.returnLoads (s : State) (gid : Nat) : State :=
  s.paths.foldl (fun (s : State) x =>
    if x.1 / 4096 = gid then x.2.loads.foldl (fun (s : State) l => s.returnLoad x.1 l.id) s else s) s

/-- A path stopped with its gang (R187, R192): STOP 0x23, or 0x21 at its BRK; a request for banks not yet granted is abandoned (R147). -/
def Path.unplaced (p : Path) (ap : CMap 64) (granted : Bool) : Path :=
  let q := p.unpaused ap
  { q with
    stop := if p.stop = 0x21 then 0x21 else 0x23
    wait := match q.wait with
      | .banks => if granted then .banks else .retry
      | w => w }

/-- A path back on a core: STOP is 0 unless its gang is halted (R187). -/
def Path.placed (p : Path) (halted : Bool) : Path := { p with stop := if halted then p.stop else 0 }

/-- Take a gang off its cores (one that leaves a draining core is to be placed again as soon as there is room, R25): its loads return, its banks are saved and freed, its requests for banks abandoned, its Loom
lists frozen with it; what lies on the cores stays with its records. -/
def State.unplace (s : State) (gid : Nat) : State :=
  let s1 := s.returnLoads gid
  match FMap.get? s1.gangs gid with
  | none => s1
  | some q =>
    let s2 := (List.range q.nwg).foldl (fun (s : State) i =>
      let wk := 8 * gid + i
      match FMap.get? s.wgs wk with
      | none => s
      | some w =>
        let c := s.core w.core
        let mine := c.loom.filter fun l => l.wg == some wk
        let s1 := (s.putWg wk { w with
            core := noCore, lists := w.lists ++ mine
            recent := (c.lru.filter fun x => x.1 == wk).map (·.2) }).putCore w.core { c with
          loom := c.loom.filter fun l => l.wg != some wk
          lru := c.lru.filter fun x => x.1 != wk }
        s1.freeBanksOf w.core wk) s1
    { s2.putGang gid { q with status := 1, cluster := noCore, drained := s.onDraining gid q } with
      sidelog := s2.sidelog.map fun e => if e.group / 128 = gid then { e with core := noCore } else e
      paths := s2.paths.map fun x =>
        if x.1 / 4096 = gid then (x.1, x.2.unplaced (s.ctx q.part q.ctx).aper
          ((FMap.get? s1.wgs (x.1 / 512)).any fun w => w.acc.isSome)) else x }

/-- The banks that a workgroup's allocation has. -/
def Wg.banks (w : Wg) : Nat := (w.acc.map (·.banks.length)).getD 0

/-- The banks of a core that an owner holds. -/
def Core.banksOf (c : Core) (owner : Nat) : List Nat := (List.range 16).filter fun b => FMap.get? c.bankOwner b == some owner

/-- A test of each workgroup of a gang with the core that it would have from a position on. -/
def State.eachWg (s : State) (gid cl p : Nat) (q : Gang) (f : Nat → Wg → Nat → Bool) : Bool :=
  (List.range q.nwg).all fun i => (FMap.get? s.wgs (8 * gid + i)).all fun w => f (8 * gid + i) w (8 * cl + p + i)

/-- Room for a gang's side-log entries on the cores from a position, and for its pinned pages beside the 64 unpinned frames, 16 of each
phase, that the pager keeps (R95, R98). -/
def State.bringRoom (s : State) (gid cl p : Nat) (q : Gang) : Bool :=
  s.eachWg gid cl p q fun wk w c =>
    let pins := (w.frames.map (·.1)).filter fun pg => s.pagePinned wk w pg
    let u := s.unpinned c
    decide (64 + pins.length ≤ u.1) && ([0, 1, 2].all fun ph => decide (16 + (pins.filter fun pg => pg % 3 == ph).length ≤ u.2 ph)) &&
    decide ((s.sidelog.filter fun e => e.core == c).length + (s.sidelog.filter fun e => e.group / 16 == wk).length ≤
      Config.sideLogSize)

/-- Banks for a gang on the cores from a position, those included that it has claimed there (R147). -/
def State.bringBanks (s : State) (gid cl p : Nat) (q : Gang) : Bool :=
  s.eachWg gid cl p q fun wk w c => decide (w.banks ≤ (s.core c).freeBanks.length + ((s.core c).banksOf wk).length)

/-- Claim a gang's banks on the cores from a position, ahead of every request of a workgroup that runs there (R147). -/
def State.claim (s : State) (gid cl p : Nat) (q : Gang) : State :=
  (List.range q.nwg).foldl (fun (s : State) i =>
    let wk := 8 * gid + i
    let cn := 8 * cl + p + i
    match FMap.get? s.wgs wk with
    | none => s
    | some w =>
      let s1 := s.dropClaims wk cn
      let c := s1.core cn
      let away (x : Nat × Nat) : Bool := (FMap.get? s.wgs x.1).any fun v => v.core != cn
      if w.banks = 0 || !(c.banksOf wk).isEmpty || c.bankQueue.any (fun x => x.1 == wk) then s1
      else (s1.putCore cn { c with
        bankQueue := c.bankQueue.filter away ++ [(wk, w.banks)] ++ c.bankQueue.filter fun x => !away x }).grantBanks cn 17) s

/-- Put a gang on cores: the same count of banks, its frames in their phases, in the order of their use, its lists and side-log
entries. A page that finds every frame of its phase pinned is evicted. -/
def State.bring (s : State) (gid cl p : Nat) : State :=
  match FMap.get? s.gangs gid with
  | none => s
  | some q =>
    let s := s.putPart q.part { s.part q.part with sbsize := BitVec.ofNat 32 (s.pool q.part) }
    let s1 := (List.range q.nwg).foldl (fun (s : State) i =>
      let wk := 8 * gid + i
      match FMap.get? s.wgs wk with
      | none => s
      | some w =>
        let cn := 8 * cl + p + i
        let s0 := s.dropClaims wk cn
        let c := s0.core cn
        let own := c.banksOf wk
        let got := own ++ c.freeBanks.take (w.banks - own.length)
        let bs := (List.range 16).filter got.contains
        let s1 := (s0.putWg wk { w with
            core := cn, lists := [], frames := [], recent := []
            acc := w.acc.map fun (a : Acc) => { a with banks := bs } }).putCore cn { c with
          loom := c.loom ++ w.lists
          bankQueue := c.bankQueue.filter fun x => x.1 != wk
          bankOwner := bs.foldl (fun m b => FMap.set m b wk) c.bankOwner }
        (w.recent.filter fun x => (FMap.get? w.frames x.1).isSome).foldl (fun (s : State) x =>
          match s.takeFrame wk x.1 with
          | some s2 => s2.usedPage cn wk x.1 (x.2 + 1)
          | none => match FMap.get? s.wgs wk with
            | some v => s.putWg wk { v with pages := CMap.set v.pages x.1 2 }
            | none => s) s1) s
    { s1.putGang gid { q with status := 0, cluster := cl, pos := p, drained := false } with
      paths := s1.paths.map fun x => if x.1 / 4096 = gid then (x.1, x.2.placed q.halted) else x
      sidelog := s1.sidelog.map fun e => if e.group / 128 = gid then { e with core := 8 * cl + p + e.group / 16 % 8 } else e }

/-- What a gang asks for, from its records. -/
def State.greqOf (s : State) (gid : Nat) (q : Gang) : GReq :=
  let w := FMap.get? s.wgs (8 * gid)
  let any := ((List.range q.nwg).filterMap fun i => FMap.get? s.wgs (8 * gid + i)).head?
  let r := (w <|> any)
  ⟨q.part, q.nwg, (r.map (·.ngrp)).getD 0, (r.map (·.slice)).getD 0, (r.map (·.spages)).getD 0, q.clunits⟩

/-- The clusters a gang may run on: any for a launch; those of its die for a docket (R150). -/
def Gang.clusters (q : Gang) : List Nat :=
  match q.src with
  | .launch _ => List.range 24
  | .docket k => (List.range 6).map (· + 6 * (k / 2 ^ 32 / 64))

/-! ### The events -/

/-- The dies' KiB of a chip scratchpad allocation, from a first die onward (log 29); none when there is not enough. -/
def State.chipAlloc (s : State) (kib : Nat) : Option (List Nat) :=
  if kib = 0 then some [0, 0, 0, 0]
  else
    let free := (List.range 4).map fun d =>
      if s.mgmt.isl (152 + d) = 2 then 0 else 16384 - s.launches.foldl (fun n l => n + l.2.chipDies.getD d 0) 0
    if free.foldl (· + ·) 0 < kib then none
    else
      let first := Config.chipDie s.free
      let x := (List.range 4).foldl (fun (a : Nat × List Nat) j =>
        let d := (first + j) % 4
        let n := min a.1 (free.getD d 0)
        (a.1 - n, a.2.set d n)) (kib, [0, 0, 0, 0])
      some x.2

/-- The gangs of a launch's grid. -/
def LRec.total (r : LRec) : Nat := r.gx * r.gy * r.gz

/-- Whether every earlier record of the queue has completed (R77). -/
def State.earlierDone (s : State) (l : Launch) : Bool :=
  !(s.launches.any fun x => x.2.part == l.part && x.2.queue == l.queue && decide (0 < (l.index - x.2.index).toNat ∧ (l.index - x.2.index).toNat < 2 ^ 31))

/-- Gangs of a context that are placed, a killed one that drains on its cores among them, or swapped out (R74, R189). -/
def State.placedIn (s : State) (part ctx : Nat) : Bool :=
  s.gangs.any fun x => x.2.part == part && x.2.ctx == ctx &&
    (x.2.status == 0 || x.2.status == 2 || (x.2.status == 5 && x.2.cluster != noCore))

/-- The context once its next gang has its SEQ; the events applied while it had no gang are acknowledged (R189). -/
def State.nextGang (s : State) (part ctx : Nat) : Ctx :=
  let c := s.ctx part ctx
  { c with nextSeq := s.freshSeq part ctx + 1, acked := if c.grace then c.acked else s.mgmt.mapver }

/-- Place the next gang of a launch. -/
def State.placeLaunch (s : State) (k : Nat) : State :=
  match FMap.get? s.launches k with
  | none => s
  | some l =>
    let r := l.record
    let c := s.ctx l.part l.ctx
    let q : GReq := ⟨l.part, r.wgs, r.grps, r.slice, r.scratch, r.cluster⟩
    let held := s.gangs.any fun x => x.2.src == .launch k && (x.2.status == 1 || x.2.status == 2)
    if r.kind ≠ 1 || l.killed || r.total ≤ l.next || c.swapst ≠ 0 || held || (r.after && !s.earlierDone l) || !s.backed q ||
        !s.partEn l.part || (s.part l.part).pst != 1 then s
    else
      match (if l.started then some l.chipDies else s.chipAlloc r.chip), s.findPlace q (List.range 24) with
      | some dies, some (cl, p) =>
        let s1 := { s with
          free := if l.started || r.chip = 0 then s.free else s.free + 1
          launches := FMap.set s.launches k { l with next := l.next + 1, started := true, chipDies := dies } }
        let s2 := s1.putCtx l.part l.ctx (s.nextGang l.part l.ctx)
        let stages := (List.range r.wgs).map fun w => bf r.stagemap (4 * w) 4
        let seq := s.freshSeq l.part l.ctx
        s2.startGang (gangKey l.part l.ctx seq)
          { part := l.part, ctx := l.ctx, seq := seq, src := .launch k, gx := l.next % r.gx, gy := l.next / r.gx % r.gy
            gz := l.next / (r.gx * r.gy), linear := l.next, cluster := cl, pos := p, nwg := r.wgs, status := 0, halted := false
            clunits := r.cluster, policy := r.policy, cmem := [], ctags := [], stageCtr := 0, evc := [], sched := r.sched, insts := []
            cstat := 0, dq := [], lost := false, traces := [] }
          r.grps r.slice r.scratch stages (stages.map fun g => r.entries.getD g 0) (sPair [] 0 r.args)
      | _, _ => s

/-- Place the gang of a wave task or parcel handler that runs (R150). -/
def State.placeDocket (s : State) (k : Nat) : State :=
  match FMap.get? s.dockets k with
  | none => s
  | some d =>
    let c := s.ctx d.part d.ctx
    let g := d.geom
    let q : GReq := ⟨d.part, bf g 0 3 + 1, bf g 3 4 + 1, bf g 7 5, bf g 12 11, bf g 23 10⟩
    let busy := s.gangs.any fun x => x.2.src == .docket k
    if d.state ≠ 3 || (d.kind ≠ 0 && d.kind ≠ 4) || busy || c.swapst ≠ 0 || !s.backed q || !s.partEn d.part ||
        (s.part d.part).pst != 1 then s
    else
      match s.findPlace q ((List.range 6).map (· + 6 * (d.hole / 64))) with
      | none => s
      | some (cl, p) =>
        let post := d.last.getD 0
        let slot : BitVec 64 := if post = 0 then 0
          else match s.readHdr d.hdr with
            | some h => hSlot h post
            | none => 0
        let regs := (List.range 4).foldl (fun m j => CMap.set m j (d.args.extractLsb' (32 * j) 32)) ([] : CMap 32)
        let regs := sPair (CMap.set (sPair regs 4 d.addr) 6 post) 8 slot
        let seq := s.freshSeq d.part d.ctx
        (s.putCtx d.part d.ctx (s.nextGang d.part d.ctx)).startGang (gangKey d.part d.ctx seq)
          { part := d.part, ctx := d.ctx, seq := seq, src := .docket k, gx := 0, gy := 0, gz := 0, linear := 0, cluster := cl
            pos := p, nwg := q.nwg, status := 0, halted := false, clunits := q.clunits, policy := bf g 33 2, cmem := [], ctags := []
            stageCtr := 0, evc := [], sched := [], insts := [], cstat := 0, dq := [], lost := false, traces := [] }
          q.ngrp q.slice q.spages [] ((List.range q.nwg).map fun _ => d.entry) regs

/-- GANG_PLACE (R131): the next gang of launch `source`, or the gang of docket `source`. -/
def execGangPlace (source : Nat) (isDocket : Bool) (s : State) : Out :=
  .next (if s.mgmt.needsReset then s else if isDocket then s.placeDocket source else s.placeLaunch source)

/-- The docket priority of a gang: that of its launch's queue, or of its docket (R75, R150). -/
def State.prioOf (s : State) (q : Gang) : Nat :=
  match q.src with
  | .launch k => ((FMap.get? s.launches k).map (·.prio)).getD 0
  | .docket k => ((FMap.get? s.dockets k).map (·.prio)).getD 0

/-- Whether a docket waits for the place of a gang: a wave task or parcel handler that is ready, or runs without one. -/
def State.docketWaits (s : State) (k : Nat) (d : Docket) : Bool :=
  (d.kind == 0 || d.kind == 4) && (d.state == 2 || d.state == 3) && !(s.gangs.any fun x => x.2.src == .docket k && x.2.status != 1)

/-- Whether a launch has a gang to place. -/
def State.launchWaits (s : State) (k : Nat) (l : Launch) : Bool :=
  l.record.kind == 1 && !l.killed && (decide (l.next < l.record.total) || s.gangs.any fun x => x.2.src == .launch k && x.2.status == 1)

/-- What a gang may be pre-empted for (R142): a docket of higher priority, or a launch of another context. -/
def State.wanted (s : State) (q : Gang) : Bool :=
  (s.dockets.any fun x => decide (s.prioOf q < x.2.prio) && s.docketWaits x.1 x.2) ||
    s.launches.any fun x => (x.2.part != q.part || x.2.ctx != q.ctx) && s.launchWaits x.1 x.2

/-- GANG_PREEMPT (R142, R192): a gang that is not leading, in favour of another, or one on a draining core. -/
def execGangPreempt (gang : Nat) (s : State) : Out :=
  .next (match FMap.get? s.gangs gang with
    | none => s
    | some q =>
      if q.status = 0 && s.quiet gang q && ((!s.leading q && s.wanted q) || s.onDraining gang q) then s.unplace gang else s)

/-- Resume a pre-empted gang at the lowest place that qualifies (R131, R141); where only its banks are held by others, it claims them
ahead of any waiting request (R147). EN of its partition is not tested again (log 92). -/
def State.resumeGang (s : State) (gid : Nat) : State :=
  match FMap.get? s.gangs gid with
  | none => s
  | some q =>
    if q.status ≠ 1 || (s.ctx q.part q.ctx).swapst ≠ 0 then s
    else
      let r := s.greqOf gid q
      let at_ := (q.clusters.flatMap fun cl => (List.range 8).map fun p => (cl, p)).filter fun x =>
        s.fits r x.1 x.2 && s.bringRoom gid x.1 x.2 q
      match at_.find? fun x => s.bringBanks gid x.1 x.2 q with
      | some (cl, p) => s.bring gid cl p
      | none => match at_ with
        | (cl, p) :: _ => s.claim gid cl p q
        | [] => s

/-- A gang leaves a draining core (R25): to the lowest place that qualifies, or off its cores where there is none; not before it is quiet. -/
def State.leaveCore (s : State) (gid : Nat) (move : Bool) : State :=
  match FMap.get? s.gangs gid with
  | none => s
  | some q =>
    if q.status ≠ 0 || !s.quiet gid q then s
    else
      let s1 := s.unplace gid
      if move then s1.resumeGang gid else s1

/-- Gangs that have become quiet leave their draining cores (R25). -/
def State.drainStep (s : State) : State :=
  if s.mgmt.needsReset then s
  else (s.gangs.filter fun x => x.2.status == 0 && s.onDraining x.1 x.2).foldl (fun (s : State) x => s.leaveCore x.1 true) s

/-- Move a gang to a position where it fits, from a draining core to the lowest such; unchanged where it does not (R25, R98, R147). -/
def State.migrate (s : State) (gid cl p : Nat) : State :=
  match FMap.get? s.gangs gid with
  | none => s
  | some q =>
    if q.status ≠ 0 || !s.quiet gid q then s
    else if s.onDraining gid q then s.leaveCore gid true
    else
      let s1 := s.unplace gid
      if q.clusters.contains cl && s1.fits (s.greqOf gid q) cl p && s1.bringRoom gid cl p q && s1.bringBanks gid cl p q then s1.bring gid cl p else s

/-- GANG_MIGRATE (R98). -/
def execGangMigrate (gang cluster pos : Nat) (s : State) : Out := .next (s.migrate gang cluster pos)

/-- GANG_RESUME (R141). -/
def execGangResume (gang : Nat) (s : State) : Out := .next (if s.mgmt.needsReset then s else s.resumeGang gang)

/-- PAGER_TRANSFER_DONE (R93, R94, R144): the page takes a frame of its phase and is resident; where a group's access started the fill,
an evicted page found among the victim tags raises the score of the group recorded there. -/
def execPagerTransferDone (wg page : Nat) (s : State) : Out :=
  .next (match FMap.get? s.wgs wg with
    | none => s
    | some w =>
      if CMap.get w.pages page ≠ 3 || w.core = noCore then s
      else
        let by_ := ((w.fills.find? fun x => x.1 == page).map (·.2)).getD 0
        match s.takeFrame wg page with
        | none => s
        | some s1 =>
          let s2 := match FMap.get? s1.wgs wg with
            | some v => s1.putWg wg { v with fills := v.fills.filter fun x => x.1 != page }
            | none => s1
          let c := s2.core w.core
          match c.victims.find? fun x => x.1 == wg && x.2.1 == page with
          | none => s2.usedPage w.core wg page by_
          | some (a, b, g) =>
            (if by_ = 0 then s2
              else s2.putCore w.core { c with
                victims := c.victims.erase (a, b, g)
                scores := CMap.set c.scores g (BitVec.ofNat 8 (min 255 ((CMap.get c.scores g).toNat + 8))) }).usedPage
              w.core wg page (if by_ = 0 then g + 1 else by_))

/-- SCORE_HALVING (R144). -/
def execScoreHalving (core : Nat) (s : State) : Out :=
  let c := s.core core
  .next (s.putCore core { c with
    scores := c.scores.foldl (fun m x => CMap.set m x.1 (BitVec.ofNat 8 (x.2.toNat / 2))) [] })

/-! ### Context swap (R86, R87) -/

/-- SWAP_OUT: SWAPCMD 1. -/
def State.swapOut (s : State) (part ctx : Nat) : State :=
  let c := s.ctx part ctx
  if c.swapst ≠ 0 then s
  else { s.putCtx part ctx { c with swapst := 1 } with swaps := s.swaps ++ [ctxKey part ctx] }

def execSwapOut (part ctx : Nat) (s : State) : Out := .next (if s.hosted part then s.swapOut part ctx else s)

/-- SWAP_IN: SWAPCMD 2. -/
def execSwapIn (part ctx : Nat) (s : State) : Out :=
  let c := s.ctx part ctx
  .next (if c.swapst ≠ 2 || !s.hosted part then s
    else { s.putCtx part ctx { c with swapst := 3 } with swaps := s.swaps ++ [ctxKey part ctx] })

/-- The gangs of a context that have not ended. -/
def State.gangsOf (s : State) (part ctx : Nat) : List (Nat × Gang) :=
  s.gangs.filter fun x => x.2.part == part && x.2.ctx == ctx && x.2.status != 4 && x.2.status != 5

/-- SWAP_DONE (R86, R87): out, once nothing of the context is outstanding; in, with the held replies delivered and
MAPCHG due again after a suspension. The swaps complete in the order commanded; a suspended context's host is notified
once it is out (R27). The save area then holds bytes that no rule gives (log 48). -/
def State.swapDone (s : State) (part ctx : Nat) : State :=
  let k := ctxKey part ctx
  let c := s.ctx part ctx
  let gs := s.gangsOf part ctx
  if s.swaps.head? ≠ some k then s
    else if c.swapst = 1 then
      if gs.any fun x => x.2.status == 0 && !s.quiet x.1 x.2 then s
      else
        let s0 := gs.foldl (fun (s : State) x => (List.range 8).foldl (fun (s : State) i => s.dropClaims (8 * x.1 + i) noCore) s)
          ((gs.filter fun x => x.2.status == 0).foldl (fun (s : State) x => s.unplace x.1) s)
        let s1 := s0
        let s2 := { s1 with
          gangs := s1.gangs.map fun (x : Nat × Gang) =>
            if x.2.part = part && x.2.ctx = ctx && x.2.status = 1 then (x.1, { x.2 with status := 2 }) else x
          swaps := s1.swaps.drop 1, free := s1.free + 1 }
        let s3 := (s2.putCtx part ctx { s2.ctx part ctx with swapst := 2 }).notify part 9 0 ctx 0
        let s4 := if c.suspmap then s3.notify part 1 0 ctx s.mgmt.mapver else s3
        let bytes := (Config.saved s1.free).take (2 ^ 24 * ((List.range 24).filter (s.part part).pclust.getLsbD).length)
        { s4 with mem := Memory.writeBytes s4.mem c.savearea.toNat bytes }
    else if c.swapst = 3 then
      let s1 := { s with
        gangs := s.gangs.map fun (x : Nat × Gang) =>
          if x.2.part = part && x.2.ctx = ctx && x.2.status = 2 then (x.1, { x.2 with status := 1 }) else x
        swaps := s.swaps.drop 1
        replies := s.replies.filter fun x => x.1 != k }
      let stale := c.acked != s.mgmt.mapver
      let s2 := s1.putCtx part ctx { c with
        swapst := 0
        suspmap := false
        grace := stale
        chg := if stale && c.suspmap then [s.mgmt.mapver] else c.chg }
      let s3 := (s.replies.filter fun x => x.1 == k).foldl (fun (s : State) x => s.reply part ctx x.2.1 x.2.2) s2
      s3.notify part 9 0 ctx 0
    else s

def execSwapDone (part ctx : Nat) (s : State) : Out := .next (s.swapDone part ctx)

end Sys2Proof.Machine
end

