-- ==== Sys2Proof/Machine/Package.lean ====
section
/-! DEFINITION. The package (spec/01_package_and_build_map.md): start-up, firmware and attestation (R17–R20), the Build
Map record and its events (R21–R27, R360). -/

namespace Sys2Proof.Machine

/-! ### The record (R21–R23) -/

/-- A table of entries, each of n bytes. -/
def recEntries (count n : Nat) (f : Nat → Nat) : List Byte := (List.range count).flatMap fun i => leBytes (f i) n

/-- The 2,048 bytes of the Build Map. -/
def Mgmt.record (m : Mgmt) : List Byte :=
  leBytes m.mapver.toNat 4 ++ leBytes (m.cause.toNat + m.subject.toNat * 2 ^ 8) 4 ++ leBytes (m.cores % 256) 4 ++
  leBytes (m.hbmgb % 65536) 4 ++ leBytes m.l2kib 4 ++ leBytes m.grace.toNat 4 ++ leBytes m.mckhz.toNat 4 ++ leBytes 0 36 ++
  recEntries 240 4 (fun i => (m.core i).toNat) ++ recEntries 272 1 (fun i => (m.chan i).toNat) ++
  recEntries 16 4 (fun i => (m.linkE i).toNat) ++ recEntries 8 2 (fun i => (m.port i).toNat) ++
  recEntries 44 1 (fun i => (List.range 4).foldl (fun x j => x + (m.isl (4 * i + j)).toNat * 4 ^ j) 0) ++ leBytes 0 4 ++
  recEntries 48 4 (fun i => (m.l2 i).toNat) ++ leBytes 0 432

/-! ### Events (R24, R26, R27) -/

/-- Whether notifications still reach the host: PCI Express link 0 and the management controller work (R360). -/
def Mgmt.reaches (m : Mgmt) : Bool := m.isl 172 != 2 && m.isl 175 != 2

/-- Why the package needs a reset (R85): 3 for a retired island, else 1. -/
def Mgmt.resetDetail (m : Mgmt) : BitVec 32 := if m.isl 172 = 2 || m.isl 174 = 2 || m.isl 175 = 2 then 3 else 1

/-- No gang of a partition can run again without a package reset (R85). -/
def State.haltPart (s : State) (n : Nat) (detail : BitVec 32) (post : Bool) : State :=
  let p := s.part n
  if !s.partEn n || p.pst = 2 then s
  else
    let s1 := s.putPart n { p with pst := 2 }
    if !post then s1 else if n = 0 then s1.notify 0 10 0 0 detail else (s1.notify 0 10 0 0 detail).notify n 10 0 0 detail

def State.haltAll (s : State) (detail : BitVec 32) (post : Bool) : State :=
  (List.range 9).foldl (fun (s : State) n => s.haltPart n detail post) s

/-- A version reaches one context: its map buffer, then MAPCHG and the grace period, or the acknowledgement of a context
without gangs (R21, R26, R27, R189). -/
def State.mapToCtx (s : State) (k : Nat) : State :=
  let part := k / 64
  let ctx := k % 64
  let c := s.ctx part ctx
  let s1 := if c.mapbuf = 0 then s else (s.wroteAddr part ctx c.mapbuf s.mgmt.record).2
  if s1.placedIn part ctx then
    s1.putCtx part ctx { s1.ctx part ctx with chg := c.chg ++ [s.mgmt.mapver], grace := true }
  else s1.putCtx part ctx { s1.ctx part ctx with acked := s.mgmt.mapver, chg := [], grace := false }

/-- One event of the Build Map: false where it is not applied (R24, R360). -/
def State.mapEvent (s : State) (cause : BitVec 8) (subject : Nat) (f : Mgmt → Mgmt) : Bool × State :=
  if s.mgmt.needsReset then (false, s)
  else if s.mgmt.mapver = 0xFFFFFFFF then
    (false, { s with mgmt := { s.mgmt with needsReset := true } }.haltAll 1 true)
  else
    let s1 := { s with mgmt := { f s.mgmt with
      mapver := s.mgmt.mapver + 1, cause := cause, subject := BitVec.ofNat 16 subject } }
    (true, s.ctxs.foldl (fun (s : State) x => s.mapToCtx x.1) s1)

def Mgmt.setCore (m : Mgmt) (i : Nat) (e : BitVec 32) : Mgmt := { m with coreEnt := FMap.set m.coreEnt i e }
def Mgmt.setChan (m : Mgmt) (i : Nat) (e : BitVec 8) : Mgmt :=
  { m with chanEnt := FMap.set (if m.chanEnt.isEmpty then (List.range 272).map fun i => (i, chanEntry0 i) else m.chanEnt) i e }
def Mgmt.setIsl (m : Mgmt) (i : Nat) (e : BitVec 2) : Mgmt := { m with island := FMap.set m.island i e }

/-! ### Start-up (R17, R18) -/

/-- POWER_ON (R18): with a verified image of every component the package starts; else it waits for a host image. -/
def execPowerOn (verified : Bool) (s : State) : Out :=
  .next (if s.mgmt.started || s.mgmt.fwstat ≠ 0 then s
    else { s with mgmt := { s.mgmt with started := verified, fwstat := if verified then 0 else 1 } })

/-- CLUSTER_WAKE (R17): the next cluster in ascending order; its Looms ramp. -/
def execClusterWake (s : State) : Out :=
  .next (if !s.mgmt.started || 24 ≤ s.mgmt.awake || s.mgmt.needsReset then s
    else
      let cl := s.mgmt.awake
      (List.range 8).foldl (fun (s : State) p =>
        if s.mgmt.liveCore (8 * cl + p) then s.putCore (8 * cl + p) { s.core (8 * cl + p) with ramp := 1 } else s)
        { s with mgmt := { s.mgmt with awake := cl + 1 } })

/-- LOOM_RAMP_STAGE (R17): after the fourth stage the Loom no longer ramps. -/
def execLoomRampStage (core : Nat) (s : State) : Out :=
  let c := s.core core
  .next (if c.ramp = 0 then s else s.putCore core { c with ramp := (c.ramp + 1) % 5 })

/-! ### Firmware and attestation (R18–R20) -/

/-- FWCMD (R20): the FWLEN bytes at the host address FWBASE are fetched. -/
def execFwcmd (s : State) : Out :=
  let m := s.mgmt
  .next (if m.fwstat = 2 then s
    else { s with mgmt := { m with
      fwstat := 2
      image := if s.hostErr then none else some (Memory.bytes s.hostMem (m.fwbase.toNat % 2 ^ 63) m.fwlen.toNat) } })

/-- FW_VERIFY_DONE (R18): the fetched image is verified, one that could not be fetched is not; a verified one is in use as the
component's; `complete` is whether every component now has a verified image (log 8). -/
def execFwVerifyDone (component : Nat) (complete : Bool) (s : State) : Out :=
  let m := s.mgmt
  .next (if m.fwstat ≠ 2 then s
    else match m.image.filter Config.imageVerified with
      | none => { s with mgmt := { m with fwstat := 3, image := none } }
      | some x =>
        let run := m.started || complete
        { s with mgmt := { m with
            fwstat := if run then 0 else 1, started := run, image := none
            measured := FMap.set m.measured component (Config.sha256 x) } })

/-- ATTCMD (R19, R20): the leaf counter advances before a signature is made. ATTST keeps the 4 of a request refused while busy until the
report in progress is written (log 83). -/
def execAttcmd (s : State) : Out :=
  let m := s.mgmt
  .next { s with mgmt :=
    if m.attst = 1 || m.attst = 4 then { m with attst := 4 }
    else if m.leaves = 0 then { m with attst := 3 }
    else { m with attst := 1, leaves := m.leaves - 1 } }

/-- The measurement of the image in use of component i (R19). -/
def Mgmt.measurement (m : Mgmt) (i : Nat) : BitVec 256 := (FMap.get? m.measured i).getD (Config.fwMeasurement i)

/-- The report (R20). -/
def Mgmt.report (m : Mgmt) (n : Nat) : List Byte :=
  let body := leBytes m.nonce.toNat 32 ++ leBytes n 4 ++ leBytes m.mapver.toNat 4 ++
    leBytes (Config.sha256 m.record).toNat 32 ++ (List.range n).flatMap fun i => leBytes (m.measurement i).toNat 32
  body ++ (List.range 1772).map fun i => Config.lmsByte (2 ^ 20 - m.leaves.toNat) body i

/-- ATTEST_REPORT_DONE (R20): the report, then ATTST 2, also where the host bus takes no write (log 87). -/
def execAttestReportDone (images : Nat) (s : State) : Out :=
  let m := s.mgmt
  .next (if (m.attst ≠ 1 && m.attst ≠ 4) || images = 0 || 8 < images then s
    else
      { s with
        hostMem := if s.hostErr then s.hostMem else Memory.writeBytes s.hostMem (m.attbuf.toNat % 2 ^ 63) (m.report images)
        mgmt := { m with attst := 2, attlen := BitVec.ofNat 16 (0x48 + 32 * images + 1772) } })

/-! ### Cores (R25, R12) -/

/-- The gangs with a workgroup on a logical core. -/
def State.gangsOn (s : State) (c : Nat) : List Nat :=
  (s.gangs.filter fun x => (List.range x.2.nwg).any fun i => (FMap.get? s.wgs (8 * x.1 + i)).any fun w => w.core == c).map (·.1)

/-- Step 1 of the core sequence for core entry i. -/
def State.drainCore (s : State) (i : Nat) : State :=
  let e := s.mgmt.core i
  if bf e 0 2 ≠ 0 then s
  else
    match s.mapEvent 2 i fun m => { m.setCore i (setF e 0 2 3) with cores := m.cores - 1 } with
    | (false, s1) => s1
    | (true, s1) => (s1.gangsOn (bf e 16 8)).foldl (fun (s : State) g => s.leaveCore g true) s1

/-- CORE_DRAIN (R25). `core` is the entry index 10c + k. -/
def execCoreDrain (core : Nat) (s : State) : Out := .next (if 240 ≤ core then s else s.drainCore core)

/-- LANE_SPARE (R25): the spare lane, the core sequence, or no event on a draining core. -/
def execLaneSpare (core subpipe : Nat) (s : State) : Out :=
  let e := s.mgmt.core core
  .next (if 240 ≤ core || 4 ≤ subpipe || bf e 0 2 = 2 then s
    else if !e.getLsbD (24 + subpipe) then (s.mapEvent 1 core fun m => m.setCore core (setF e (24 + subpipe) 1 1)).2
    else if bf e 0 2 = 0 then s.drainCore core
    else if bf e 0 2 = 3 then (s.gangsOn (bf e 16 8)).foldl (fun (s : State) g => s.leaveCore g false) s
    else s)

/-- Whether a partition's clusters have a core left (R85); one that drains still counts (log 92). -/
def State.hasCore (s : State) (n : Nat) : Bool :=
  (List.range 24).any fun cl => (s.part n).pclust.getLsbD cl && (List.range 10).any fun k =>
    bf (s.mgmt.core (10 * cl + k)) 0 2 == 0 || bf (s.mgmt.core (10 * cl + k)) 0 2 == 3

/-- A partition none of whose clusters has a core left is halted (R85). -/
def State.haltBare (s : State) : State :=
  (List.range 9).foldl (fun (s : State) n =>
    if s.hasCore n then s else s.haltPart n 2 true) s

/-- CORE_RETIRE (R25): an empty draining core retires, and the cluster's lowest spare takes its number and wakes (R17), its cycle counter
at 0 (log 84). A core on whose Loom a Loom task still has its list is not empty. -/
def execCoreRetire (core : Nat) (s : State) : Out :=
  let e := s.mgmt.core core
  let c := bf e 16 8
  .next (if 240 ≤ core || bf e 0 2 ≠ 3 || !(s.gangsOn c).isEmpty || !(s.core c).loom.isEmpty then s
    else
      let gone := setF (setF e 0 2 2) 16 8 0xFF
      match (List.range 10).find? fun k => bf (s.mgmt.core (10 * (core / 10) + k)) 0 2 == 1 with
      | none =>
        match s.mapEvent 3 core fun m => m.setCore core gone with
        | (false, s1) => s1
        | (true, s1) => s1.haltBare
      | some k =>
        let j := 10 * (core / 10) + k
        let f := s.mgmt.core j
        let isl := 5 * (core / 10) + k / 2
        match s.mapEvent 3 core fun m =>
            { ((m.setCore core gone).setCore j (setF (setF f 0 2 0) 16 8 c)).setIsl isl 0 with cores := m.cores + 1 } with
        | (false, s1) => s1
        | (true, s1) => s1.putCore c { ramp := 1 })

/-! ### Memory channels, L2 ways, links, ports (R25) -/

/-- Retire an entry of a channel with no spare: HBMGB drops where it was active. -/
def State.retireChan (s : State) (i : Nat) : State :=
  let e := s.mgmt.chan i
  if bf e 0 2 = 2 then s
  else (s.mapEvent 5 i fun m => { m.setChan i 0xFE with hbmgb := if bf e 0 2 = 0 then m.hbmgb - 2 else m.hbmgb }).2

/-- CHANNEL_SPARE (R25): a copy to the lowest spare channel, or retirement. `chan` is physical. -/
def execChannelSpare (stack chan : Nat) (s : State) : Out :=
  let i := 34 * stack + chan
  let e := s.mgmt.chan i
  .next (if 8 ≤ stack || 34 ≤ chan || bf e 0 2 = 2 then s
    else if bf e 0 2 = 1 then s.retireChan i
    else
      match (List.range 34).find? fun k => bf (s.mgmt.chan (34 * stack + k)) 0 2 == 1 with
      | none => s.retireChan i
      | some k =>
        match s.mapEvent 4 i fun m => (m.setChan i 0xFE).setChan (34 * stack + k) (setF e 0 2 0) with
        | (false, s1) => s1
        | (true, s1) => { s1 with mgmt := { s1.mgmt with copying := s1.mgmt.copying ++ [(stack, bf e 2 6)] } })

/-- CHANNEL_COPY_DONE (R25). `chan` is logical. -/
def execChannelCopyDone (stack chan : Nat) (s : State) : Out :=
  .next { s with mgmt := { s.mgmt with copying := s.mgmt.copying.filter (· != (stack, chan)) } }

/-- One failed way of a slice: the spare way takes its place where there is one and its island is not retired. -/
def State.failWay (s : State) (slice way : Nat) : State :=
  let w := s.mgmt.l2 slice
  let live := ((List.range 17).filter fun i => w.getLsbD i).length
  let spare := !w.getLsbD 16 && live == 16 && s.mgmt.isl (120 + 4 * (slice / 12) + slice % 12 / 3) != 2
  if 17 ≤ way || !w.getLsbD way then s
  else
    let w1 := setF w way 1 0
    (s.mapEvent 12 slice fun m =>
      if spare then { m with l2Ent := FMap.set m.l2Ent slice (setF w1 16 1 1) }
      else { m with l2Ent := FMap.set m.l2Ent slice w1, l2kib := m.l2kib - 256 }).2

/-- L2_WAY (R25). -/
def execL2Way (slice way : Nat) (s : State) : Out := .next (if 48 ≤ slice then s else s.failWay slice way)

/-- An event of a link that sets its SIGNAL, in the record and at the port (R47). -/
def State.linkEvent (s : State) (cause : BitVec 8) (l : Nat) (e : BitVec 32) (f : Link → Link) : State :=
  match s.mapEvent cause l fun m => { m with linkEnt := FMap.set m.linkEnt l e } with
  | (false, s1) => s1
  | (true, s1) =>
    let s2 := s1.putLink l { f (s1.link l) with signal := BitVec.ofNat 2 (bf e 0 2) }
    if bf e 0 2 = 2 then s2.requeue l else s2

/-- A lane of a link fails (R25): fallback to NRZ, the spare with one PAM4 retrain, or the link goes down. The spare lane, number 16, fails
like any other (log 79). -/
def State.linkFail (s : State) (l lane : Nat) : State :=
  let e := s.mgmt.linkE l
  if bf e 0 2 = 0 then s.linkEvent 6 l (setF e 0 2 1) fun k => { k with retraining := true }
  else if bf e 0 2 = 1 then
    if e.getLsbD 7 then s.linkEvent 9 l (setF e 0 2 2) fun k => { k with retraining := false, pam4 := false }
    else s.linkEvent 7 l (setF (setF e 2 5 lane) 7 1 1) fun k => { k with retraining := true, pam4 := true }
  else s

/-- LINK_LANE_FAILURE (R25). -/
def execLinkLaneFailure (link lane : Nat) (s : State) : Out := .next (if 16 ≤ link then s else s.linkFail link lane)

/-- The port resumes after retraining: the unacknowledged flits are replayed, then what was queued goes out (R42). -/
def State.replay (s : State) (l : Nat) : State :=
  let k := s.link l
  (s.putLink l { k with retraining := false, pam4 := false, retry := k.retry.map fun x => { x with due := true } }).flow l

/-- LINK_RETRAIN_DONE (R25): the PAM4 retrain after a spare ends. -/
def execLinkRetrainDone (link : Nat) (ok : Bool) (s : State) : Out :=
  .next (if !(s.link link).pam4 || 16 ≤ link then s
    else
      let s1 := if ok then s.linkEvent 8 link (setF (s.mgmt.linkE link) 0 2 0) id else s
      s1.replay link)

/-- RETRAINING_DONE (R42): the retraining after a fallback ends. -/
def execRetrainingDone (link : Nat) (s : State) : Out :=
  .next (if (s.link link).retraining && !(s.link link).pam4 then s.replay link else s)

/-- PORT_DOWN (R25, R49, R360), of a port that the host had disabled too. -/
def State.portDown (s : State) (p : Nat) : State :=
  if bf (s.mgmt.port p) 0 2 = 1 then s
  else (s.mapEvent 10 p fun m => { m with portEnt := FMap.set m.portEnt p (setF (m.port p) 0 2 1) }).2

def execPortDown (port : Nat) (s : State) : Out := .next (if 8 ≤ port then s else s.portDown port)

/-- PORT_DISABLE (R23): the host's own change of an entry, no event, of a port that was down by fault too (log 30). -/
def execPortDisable (port : Nat) (s : State) : Out :=
  .next (if 8 ≤ port then s
    else { s with mgmt := { s.mgmt with portEnt := FMap.set s.mgmt.portEnt port (setF (s.mgmt.port port) 0 2 2) } })

/-! ### Islands (R25, R360) -/

/-- The Selvedge stops: running jobs end with CODE 7 (R57, R360). Defined where jobs end; here the borrow cache's and the
table's own part: nothing of them is left to run. -/
def State.retireUnits (s : State) (i : Nat) : State :=
  if i < 120 then
    [2 * (i % 5), 2 * (i % 5) + 1].foldl (fun (s : State) k => s.drainCore (10 * (i / 5) + k)) s
  else if i < 136 then
    (List.range 3).foldl (fun (s : State) j =>
      (List.range 17).foldl (fun (s : State) w => s.failWay (12 * ((i - 120) / 4) + 3 * ((i - 120) % 4) + j) w) s) s
  else if i < 144 then (List.range 34).foldl (fun (s : State) c => s.retireChan (34 * (i - 136) + c)) s
  else if i < 152 then s
  else if i < 156 then
    (s.launches.filter fun l => l.2.chipDies.getD (i - 152) 0 != 0).foldl (fun (s : State) l => s.killLaunch l.1) s
  else if i < 160 then
    (List.range 4).foldl (fun (s : State) j =>
      let l := 4 * (i - 156) + j
      if bf (s.mgmt.linkE l) 0 2 = 2 then s
      else s.linkEvent 9 l (setF (s.mgmt.linkE l) 0 2 2) fun k => { k with retraining := false, pam4 := false }) s
  else if i < 168 then s.portDown (i - 160)
  else if i < 170 then s
  else if i < 172 then { s with selv := { s.selv with lines := [] } }
  else if i = 173 then { s with parts := s.parts.map fun x => (x.1, { x.2 with home := 0 }) }
  else { s with mgmt := { s.mgmt with needsReset := true } }.haltAll 3 s.mgmt.reaches

/-- Retire an island: its STATE and its spare cores in the event of CAUSE 11, then the consequences. -/
def State.retireIsland (s : State) (i : Nat) : State :=
  if 176 ≤ i || s.mgmt.isl i = 2 then s
  else
    let spares := if i < 120 then
        [2 * (i % 5), 2 * (i % 5) + 1].filter fun k => bf (s.mgmt.core (10 * (i / 5) + k)) 0 2 == 1
      else []
    match s.mapEvent 11 i fun m => spares.foldl (fun m k =>
        m.setCore (10 * (i / 5) + k) (setF (m.core (10 * (i / 5) + k)) 0 2 2)) (m.setIsl i 2) with
    | (false, s1) => s1
    | (true, s1) => s1.retireUnits i

/-! ### Grace (R27) -/

/-- GRACE_EXPIRY (R27): the context is suspended by a swap, and the host notified once it is out. -/
def execGraceExpiry (part ctx : Nat) (s : State) : Out :=
  let c := s.ctx part ctx
  .next (if !c.grace || c.swapst ≠ 0 || c.acked = s.mgmt.mapver then s
    else ((s.putCtx part ctx { c with suspmap := true, grace := false }).swapOut part ctx).swapDone part ctx)

end Sys2Proof.Machine
end

