-- ==== Sys2Proof/Machine/Links.lean ====
section
/-! DEFINITION. The scale-up links (spec/02_links.md R33–R49): responses, time-outs, the ordered flag, flits and their
keys. -/

namespace Sys2Proof.Machine

/-! ### Responses (R36, R38–R41, R207) -/

/-- A request is answered, with status 0 or a remote status (R41): it leaves the table; a load's lane receives its bytes or
its failure, a posted write's failure is kept for the next fence, a Courier's goes to its instance. What waited for it
is then made, withheld or released (R193). -/
def State.answer (s : State) (q : Req) (code : BitVec 8) (data : Nat) : State :=
  let s1 := { s with reqs := s.reqs.filter fun x => x.id != q.id }
  let bytes := data % 2 ^ (8 * q.len)
  let s2 :=
    if code ≠ 0 then s1.failReq q code (some q.link)
    else if q.kind = 6 || q.kind = 7 then s1.instArrived (q.path / 4096) q.load q.off q.len q.va 0 (q.kind == 6) bytes
    else if q.kind = 0 || q.kind = 2 then s1.laneArrived (q.path / 32) q.load q.lane q.off 0 bytes
    else if q.load ≠ 0 then s1.laneArrived (q.path / 32) q.load q.lane q.off 0 0
    else s1
  s2.drainReqs.reapGang (q.path / 4096)

/-- REMOTE_RESPONSE (R40): matched by link, tag and generation; any other is discarded and counted in LATE. -/
def execRemoteResponse (link tag gen : Nat) (code : BitVec 8) (data : BitVec 512) (s : State) : Out :=
  .next (match s.reqs.find? fun q => q.left && q.link == link && q.tag == tag && q.gen.toNat == gen with
    | some q => s.answer q code data.toNat
    | none => if 16 ≤ link then s else s.putLink link { s.link link with late := satInc (s.link link).late })

/-- TIMEOUT_UNKNOWN (R39, R40): a request that has left the port retires, and its tag's generation advances. -/
def execTimeoutUnknown (id : Nat) (s : State) : Out :=
  .next (match s.reqs.find? fun q => q.id == id && q.left with
    | none => s
    | some q =>
      let l := s.link q.link
      (s.putLink q.link { l with gens := CMap.set l.gens q.tag (q.gen + 1), tmocnt := satInc l.tmocnt }).answer q 1 0)

/-- A flag that raises a completion counter waits while its gang is off its cores or halted (R35, log 101). -/
def State.flagGoes (s : State) (q : Req) : Bool :=
  q.kind != 4 || (FMap.get? s.gangs (q.path / 4096)).all fun g => g.status == 4 || g.status == 5 || (g.status == 0 && !g.halted)

/-- Whether a held STGR may go: its gang runs, where it raises a counter, nothing it covers is outstanding, no earlier STGR of its path waits (lanes ascend, R199) or, both on SO pages,
is unanswered (R197), no logged store of its group and no store of its path that the Selvedge holds (R36, R63, R113, R298). -/
def State.flagFree (s : State) (q : Req) : Bool :=
  s.flagGoes q && !(q.covers.any s.pends) &&
    !(s.reqs.any fun x => (x.kind == 4 || x.kind == 5) && (!x.sent || (x.so && q.so)) && x.owners.any q.owners.contains && decide (x.id < q.id)) &&
    !(s.sidelog.any fun e => e.group == q.path / 32) && !s.collHeld q.path (1#32 <<< q.lane)

/-- ORDERED_FLAG_RELEASE (R36, R38): the held flag is sent when its counter and its link's tags have room (R35, R40), or fails with
NO_PATH; a STGR to local memory that waited is performed. One that covers a failure is withheld. -/
def execOrderedFlagRelease (id : Nat) (s : State) : Out :=
  .next (match s.reqs.find? fun q => q.id == id && (q.kind == 4 || q.kind == 5) && !q.sent with
    | none => s
    | some q =>
      if !s.flagFree q then s
      else
        let s1 := { s with reqs := s.reqs.filter fun x => x.id != id }
        if q.tainted then (s1.postFail q 4 none).drainReqs.reapGang (q.path / 4096)
        else if q.kind = 5 then
          ({ s1 with mem := Memory.writeBytes s1.mem q.addr.toNat (leBytes q.data.toNat q.len) }.drainReqs).reapGang (q.path / 4096)
        else
          match s1.send q with
          | .sent s2 => s2.reapGang (q.path / 4096)
          | .noPath => (s1.failReq q 3 none).drainReqs.reapGang (q.path / 4096)
          | .full => s)

/-! ### Flits and keys (R43–R47) -/

def Link.slot (l : Link) (n : Nat) : KeySlot := if n = 0 then l.slot0 else l.slot1
def Link.setSlot (l : Link) (n : Nat) (k : KeySlot) : Link := if n = 0 then { l with slot0 := k } else { l with slot1 := k }

/-- The receiver accepts a flit (R44, R45): it authenticates, its counter exceeds the last one accepted under its slot, and
its slot has not been superseded. -/
def KeySlot.accepts (k : KeySlot) (counter : BitVec 40) (authentic : Bool) : Bool :=
  authentic && !k.rxdead && match k.rxlast with
    | none => true
    | some c => decide (c.toNat < counter.toNat)

/-- A NAKed flit is sent again from the retry buffer, under the current slot and its next counter value; its eighth failure
in a row starts the link sequence (R44). -/
def State.resendFlit (s : State) (l seq : Nat) : State :=
  let k := s.link l
  match k.retry.find? fun x => x.seq == seq with
  | none => s
  | some x =>
    let put (y : RetryFlit) : State :=
      (s.putLink l { k with retry := k.retry.map fun z => if z.seq = seq then y else z }).flow l
    if x.fails < 7 then put { x with fails := x.fails + 1, due := true }
    else
      let s1 := put { x with fails := 0, due := true }
      { s1 with free := s1.free + 1 }.linkFail l (Config.failedLane s1.free % 16)

/-- The flits up to an acknowledged sequence number leave the retry buffer. -/
def Link.acked (l : Link) (seq : Nat) : Link :=
  if l.retry.any fun x => x.seq == seq then { l with retry := (l.retry.dropWhile fun x => x.seq != seq).drop 1 } else l

/-- FLIT_RECEIVE (R44, R45): an accepted flit's header acknowledges a flit, or refuses it with NAK; an accepted franking flit
ends the other slot at the receiver. A flit that is not accepted changes nothing; its NAK goes out with the next flit. -/
def execFlitReceive (link slot : Nat) (counter : BitVec 40) (authentic franking nak : Bool) (_seq acked : Nat) (s : State) : Out :=
  let l := s.link link
  let k := l.slot (slot % 2)
  .next (if 16 ≤ link || l.signal = 2 || !k.accepts counter authentic then s
    else
      let l1 := l.setSlot (slot % 2) { k with rxlast := some counter }
      let l2 := if franking then l1.setSlot ((slot + 1) % 2) { l1.slot ((slot + 1) % 2) with rxdead := true } else l1
      if nak then (s.putLink link l2).resendFlit link acked else (s.putLink link (l2.acked acked)).flow link)

/-- FLIT_NAK (R44). -/
def execFlitNak (link seq : Nat) (s : State) : Out := .next (if 16 ≤ link then s else s.resendFlit link seq)

/-- KEY_LOAD (R47): refused for the slot in use, and for both while a switch-over is not acknowledged. -/
def execKeyLoad (link slot : Nat) (s : State) : Out :=
  let l := s.link link
  let n := slot % 2
  .next (if 16 ≤ link then s
    else if l.txslot.toNat = n || l.switching then s.putLink link { l with keyerr := true }
    else
      s.putLink link { l.setSlot n { l.stage with loaded := true, rxlast := none, rxdead := false, full := false } with
        cnt := CMap.set l.cnt n 0, cmdslot := BitVec.ofNat 1 n })

/-- KEY_SWITCH (R45, R47): refused for a slot never loaded; else the franking flit is the first under the new slot, and a
held link goes on with what was queued (R46). A switch to the slot in use is made like any other (log 80). -/
def execKeySwitch (link slot : Nat) (s : State) : Out :=
  let l := s.link link
  let n := slot % 2
  .next (if 16 ≤ link then s
    else if !(l.slot n).loaded then s.putLink link { l with keyerr := true }
    else
      (s.putLink link { l with
        txslot := BitVec.ofNat 1 n, cmdslot := BitVec.ofNat 1 n, frankack := false, switching := true
        keyheld := (l.slot n).full, frank := true }).flow link)

/-- FRANKING_ACK (R45). -/
def execFrankingAck (link : Nat) (s : State) : Out :=
  let l := s.link link
  .next (if !l.switching then s else s.putLink link { l with frankack := true, switching := false })

/-- UUD_PACKET_DROP (R48, R71). -/
def execUudPacketDrop (s : State) : Out :=
  .next { s with selv := { s.selv with uuddrop := satInc s.selv.uuddrop } }

end Sys2Proof.Machine
end

