-- ==== Sys2Proof/Machine/Host.lean ====
section
/-! DEFINITION. The host's side (spec/04_host_interface.md): launch queues and records (R75–R80, R163), partitions
(R72–R74), context-window commands, settle groups (R160, R161), and writes of device registers (R6). -/

namespace Sys2Proof.Machine

/-! ### Copy schedules (R163, R164) -/

/-- n bytes at an offset of a little-endian record. -/
def fld (x off n : Nat) : Nat := x / 2 ^ (8 * off) % 2 ^ (8 * n)

/-- A 32-bit signed field. -/
def fldI (x off : Nat) : Int := toSigned 32 (fld x off 4)

/-- The allocations a copy schedule is checked against. -/
structure CopyLimits where
  nwg : Nat
  scratch : Nat
  cluster : Nat
  chip : Nat
deriving DecidableEq, Repr

/-- Whether TADDR is in its range for TGT (R163). -/
def taddrOk (l : CopyLimits) (tgt t : Nat) : Bool :=
  if tgt = 1 then
    let sp := t / 2 ^ 62
    let off := t % 2 ^ 32
    let size := if sp = 0 then 1024 * l.scratch else if sp = 2 then 4096 * l.cluster else 1024 * l.chip
    sp != 1 && t / 2 ^ 32 % 2 ^ 30 == 0 && off % 8 == 0 && decide (off + 8 ≤ size)
  else if tgt = 2 then t % 64 == 0 && decide (t < 2 ^ 57)
  else t == 0

/-- An address of a space: 57 bits in G, 32 elsewhere. -/
def copyAddrOk (sp a : Nat) : Bool := decide (a < if sp = 0 then 2 ^ 57 else 2 ^ 32)

/-- One entry from its two slots; none for a reserved field that is not zero or a value out of range. -/
def parseEntry (l : CopyLimits) (a b : Nat) : Option CopyEntry :=
  let w := fld a 0 2
  let e : CopyEntry :=
    { srcsp := w % 4, dstsp := w / 4 % 4, decode := w / 16 % 2 == 1, tgt := w / 32 % 4, rank := w / 256 % 8, dtype := w / 2048 % 32
      reps := fld a 2 2, release := fld a 4 4, every := fld a 8 2, event := fld a 10 1, x := fld a 12 4, y := fld a 16 2
      z := fld a 18 2, srcsy := fldI a 0x14, dstsy := fldI a 0x18, srcsz := fldI a 0x1C, dstsz := fldI a 0x20
      srcadv := fldI a 0x24, dstadv := fldI a 0x28, src := BitVec.ofNat 64 (fld a 0x30 8), dst := BitVec.ofNat 64 (fld b 0 8)
      taddr := BitVec.ofNat 64 (fld a 0x38 8) }
  if w / 128 % 2 = 0 && fld a 0x0B 1 == 0 && fld a 0x2C 4 == 0 && b / 2 ^ 64 == 0 &&
      (!e.decode || e.srcsp == 0) && decide (e.rank < l.nwg) && (if e.decode then decide (e.dtype ≤ 13) else e.dtype == 0) &&
      e.reps != 0 && (e.reps == 1 || e.every != 0) && decide (1 ≤ e.x ∧ e.x ≤ 2 ^ 24) && e.y != 0 && e.z != 0 &&
      decide (e.x * e.y * e.z < 2 ^ 28) && (!e.decode || e.x % tyBytes e.dtype == 0) &&
      copyAddrOk e.srcsp e.src.toNat && copyAddrOk e.dstsp e.dst.toNat && taddrOk l e.tgt e.taddr.toNat
  then some e else none

/-- A schedule of 64-byte slots, two to an entry. -/
def parseSched (l : CopyLimits) : List Nat → Option (List CopyEntry)
  | [] => some []
  | [_] => none
  | a :: b :: t =>
    match parseEntry l a b, parseSched l t with
    | some e, some es => some (e :: es)
    | _, _ => none

/-- The bytes of slots as numbers. -/
def slotsOf (bs : List Byte) : Nat → List Nat
  | 0 => []
  | n + 1 => leNat (bs.take 64) :: slotsOf (bs.drop 64) n

/-! ### Launch records (R77, R79) -/

/-- The fields of a record, without the tables it names. -/
def parseRecord (x : Nat) : LRec :=
  let o := fld x 0x0E 2
  { kind := fld x 0 1, after := fld x 1 1 % 2 == 1, settled := fld x 1 1 / 2 % 2 == 1, policy := fld x 2 2 % 4
    mapver := BitVec.ofNat 32 (fld x 4 4), gx := fld x 8 2, gy := fld x 10 2, gz := fld x 12 2, wgs := o % 8 + 1
    grps := o / 8 % 16 + 1, stagemap := BitVec.ofNat 32 (fld x 0x10 4), slice := fld x 0x14 1 % 32, scratch := fld x 0x16 2 % 2048
    cluster := fld x 0x18 4 % 1024, chip := fld x 0x1C 4 % 2 ^ 17, entries := [], sched := [], sgrp := fld x 0x32 2
    args := BitVec.ofNat 64 (fld x 0x38 8), doneAddr := BitVec.ofNat 64 (fld x 0x40 8), doneVal := BitVec.ofNat 64 (fld x 0x48 8)
    doneScope := fld x 0x50 4 % 16, doneEn := fld x 0x50 4 / 16 % 2 == 1 }

/-- Reserved fields are zero (R5, R77), and so are the bits that the table of R77 does not list (log 82). -/
def recordClean (x : Nat) : Bool :=
  fld x 1 1 / 4 == 0 && fld x 2 2 / 4 == 0 && fld x 0x0E 2 / 128 == 0 && fld x 0x14 2 / 32 == 0 && fld x 0x16 2 / 2048 == 0 &&
  fld x 0x18 4 / 1024 == 0 && fld x 0x1C 4 / 2 ^ 17 == 0 && fld x 0x30 2 / 8192 == 0 && fld x 0x34 4 == 0 &&
  fld x 0x50 4 / 32 == 0 && x / 2 ^ (8 * 0x54) == 0

/-- What the completion word needs: DONESCOPE 3 or 4, DONEADDR aligned. -/
def LRec.doneOk (r : LRec) : Bool := (r.doneScope == 3 || r.doneScope == 4) && r.doneAddr.toNat % 8 == 0

/-- The ranges of a launch (R77, R160). -/
def LRec.rangesOk (r : LRec) (sgn : Nat) : Bool :=
  r.gx != 0 && r.gy != 0 && r.gz != 0 && decide (r.policy ≤ 1) && decide (r.slice ≤ 16) && decide (r.scratch ≤ 1024) &&
  decide (r.cluster ≤ 512) && decide (r.chip ≤ 65536) && (!r.settled || decide (r.sgrp < sgn))

/-- Rejection codes (R85). -/
inductive Reject where
  | badKind | badRecord | staleMap | noFit
deriving DecidableEq, Repr

def Reject.code : Reject → Nat
  | .badKind => 1
  | .badRecord => 2
  | .staleMap => 3
  | .noFit => 4

/-- The tables a record names: entry addresses and the copy schedule; none where they are unreadable or out of range. -/
def State.recordTables (s : State) (part ctx x : Nat) (r : LRec) : Option LRec × State :=
  match s.readVA part ctx 4 (fld x 0x20 8) 128 with
  | (none, s1) => (none, s1)
  | (some tab, s1) =>
    let ents := (List.range 16).map fun i => BitVec.ofNat 64 (leNat ((tab.drop (8 * i)).take 8))
    let n := fld x 0x30 2 % 8192
    let stages := (List.range r.wgs).map fun w => bf r.stagemap (4 * w) 4
    if (stages.any fun g => ents.getD g 0 == 0) || n % 2 ≠ 0 || 4096 < n then (none, s1)
    else if fld x 0x28 8 = 0 then (some { r with entries := ents }, s1)
    else
      match s1.readVA part ctx 8 (fld x 0x28 8) (64 * n) with
      | (none, s2) => (none, s2)
      | (some bs, s2) =>
        ((parseSched ⟨r.wgs, r.scratch, r.cluster, r.chip⟩ (slotsOf bs n)).map fun es => { r with entries := ents, sched := es }, s2)

/-- The checks of R79 in their order, a marker's like a launch's (log 31). -/
def State.checkRecord (s : State) (part ctx x : Nat) : Except Reject LRec × State :=
  let r := parseRecord x
  if r.kind ≠ 1 && r.kind ≠ 2 then (.error .badKind, s)
  else if !recordClean x || !r.doneOk || !r.rangesOk (s.ctx part ctx).sgn then (.error .badRecord, s)
  else
    let y := s.recordTables part ctx x r
    (match y.1 with
      | none => .error .badRecord
      | some r' =>
        if r.mapver ≠ s.mgmt.mapver then .error .staleMap
        else if (s.part part).pst = 2 || !s.couldFit ⟨part, r.wgs, r.grps, r.slice, r.scratch, r.cluster⟩ (List.range 24) then
          .error .noFit
        else .ok r', y.2)

def queueKey (part q : Nat) : Nat := part * 16 + q
def launchKey (part q : Nat) (i : BitVec 32) : Nat := queueKey part q * 2 ^ 32 + i.toNat

/-- TAIL (R76): a TAIL beyond the capacity sets ERR bit 0 and is not taken. -/
def execTail (part queue : Nat) (v : BitVec 32) (s : State) : Out :=
  let q := s.queue (queueKey part queue)
  .next (if 16 ≤ queue || q.log = 0 || !s.hosted part then s
    else if 2 ^ q.log < (v - q.head).toNat then s.putQueue (queueKey part queue) { q with err := true }
    else s.putQueue (queueKey part queue) { q with tail := v })

/-- LAUNCH_RECORD_FETCH (R76, R79, R86): the next record of a queue is copied, HEAD advances, and the record is accepted or
rejected. A record that cannot be read waits; so do those of a partition whose launches are being killed (R74, log 31). -/
def execLaunchRecordFetch (part queue : Nat) (s : State) : Out :=
  let qk := queueKey part queue
  let q := s.queue qk
  .next (if 16 ≤ queue || q.log = 0 || q.err || q.head = q.tail || !s.partEn part || (s.part part).ending ||
      (s.ctx part q.ctx).swapst ≠ 0 then s
    else
      match s.readAddr part q.ctx (q.base + BitVec.ofNat 64 (128 * (q.head.toNat % 2 ^ q.log))) 128 with
      | (none, s1) => s1
      | (some bs, s0) =>
        match (s0.putQueue qk { q with head := q.head + 1 }).checkRecord part q.ctx (leNat bs) with
        | (.error c, s1) => s1.notify part 4 c.code q.ctx q.head
        | (.ok r, s1) =>
          let l : Launch := { part := part, queue := queue, index := q.head, ctx := q.ctx, record := r, next := 0, started := false
                              killed := false, chip := [], ktags := [], chipDies := [0, 0, 0, 0], prio := q.prio }
          { s1 with launches := FMap.set s1.launches (launchKey part queue q.head) l })

/-- KILL (R80): no effect on a record that has completed or was rejected. -/
def execKill (part queue : Nat) (index : BitVec 32) (s : State) : Out :=
  .next (if s.hosted part then s.killLaunch (launchKey part queue index) else s)

/-- Whether a launch or marker has completed (R77, R80, R193), and the state after the read of its settle group; a killed launch does not
wait for that (log 93). -/
def State.launchDone (s : State) (k : Nat) (l : Launch) : Bool × State :=
  let r := l.record
  let mine := s.gangs.filter fun x => x.2.src == .launch k
  if r.kind = 2 then (s.earlierDone l, s)
  else if !((l.killed || l.next == r.total) && mine.all fun x => x.2.status == 4) then (false, s)
  else if l.killed || !r.settled then (true, s)
  else match s.readAddr l.part l.ctx ((s.ctx l.part l.ctx).sgbase + BitVec.ofNat 64 (16 * r.sgrp)) 4 with
    | (some bs, s1) => (leNat bs == 0, s1)
    | (none, s1) => (false, s1)

/-- LAUNCH_COMPLETE (R80): the completion word, one 8-byte release, dropped where it cannot be written (log 93); the launch's chip
scratchpad is released. -/
def execLaunchComplete (launch : Nat) (s : State) : Out :=
  .next (match FMap.get? s.launches launch with
    | none => s
    | some l =>
      let y := s.launchDone launch l
      if !y.1 then y.2
      else
        let s1 := { y.2 with
          launches := FMap.erase y.2.launches launch
          gangs := y.2.gangs.filter fun x => x.2.src != .launch launch }
        if l.record.doneEn then (s1.wroteAddr l.part l.ctx l.record.doneAddr (leBytes l.record.doneVal.toNat 8)).2 else s1)

/-! ### Partitions (R72–R74, R148) -/

/-- PST of a partition's block: disabled once EN has fallen, but for a package in need of a reset (R74, R85). -/
def State.partPst (s : State) (n : Nat) : BitVec 2 :=
  if s.partEn n || (s.mgmt.needsReset && (s.part n).pst == 2) then (s.part n).pst else 0

/-- PARTITION_EN (R74). A partition that no gang can run in is halted from the start (R85). -/
def execPartitionEn (part : Nat) (en : Bool) (s : State) : Out :=
  let p := s.part part
  .next (if 9 ≤ part then s
    else if en then
      let clash := (List.range 9).any fun n => n != part && s.partEn n && ((s.part n).pclust &&& p.pclust) != 0
      if s.partEn part || p.pclust = 0 || clash || (if part = 0 then s.vfEn else !s.vfExists part) then s
      else
        let s1 := s.putPart part { p with en := true, ending := false, pst := 1 }
        if s.mgmt.needsReset then s1.haltPart part s.mgmt.resetDetail s.mgmt.reaches
        else if s1.hasCore part then s1 else s1.haltPart part 2 true
    else if (List.range 64).any fun c => s.placedIn part c then s
    else s.putPart part { p with en := false, ending := false, pst := if s.mgmt.needsReset then p.pst else 0 })

/-- VF_ENABLE_CHANGE (R74): the launches of a partition that ends are killed; its EN falls after the kills. -/
def execVfEnableChange (enable : Bool) (numVfs : Nat) (s : State) : Out :=
  let gone (n : Nat) : Bool := s.partEn n && (if n = 0 then enable else !enable || decide (numVfs < n))
  .next ((List.range 9).foldl (fun (s : State) n =>
    if gone n then
      let s1 := (s.launches.filter fun x => x.2.part == n).foldl (fun (s : State) x => s.killLaunch x.1) s
      s1.putPart n { s1.part n with ending := true }
    else s) { s with vfEn := enable, numVfs := numVfs })

/-- PHMASK (R148): unchanged where a pigeonhole would have two owners, or would leave its owner with dockets in it. -/
def execPhmask (part die : Nat) (mask : BitVec 64) (s : State) : Out :=
  let p := s.part part
  let old := CMap.get p.phmask die
  let twice := (List.range 9).any fun n => n != part && (CMap.get (s.part n).phmask die &&& mask) != 0
  let busy := (List.range 64).any fun h => old.getLsbD h && !mask.getLsbD h && (s.hole (64 * die + h)).head != (s.hole (64 * die + h)).tail
  .next (if 9 ≤ part || 4 ≤ die || twice || busy then s else s.putPart part { p with phmask := CMap.set p.phmask die mask })

/-- PIGEONHOLE_TAIL (R149): the host appends; a TAIL beyond the capacity sets ERR bit 0. -/
def execPigeonholeTail (fn hole : Nat) (v : BitVec 32) (s : State) : Out :=
  let h := s.hole hole
  .next (if 256 ≤ hole || (s.holeOwner hole).isNone || s.holeOwner hole ≠ s.fnPart fn || !h.hostfed || h.log = 0 then s
    else if 2 ^ h.log < (v - h.head).toNat then s.putHole hole { h with err := h.err ||| 1 }
    else s.putHole hole { h with tail := v, again := h.waits })

/-! ### Context windows -/

/-- RESCLR (R84). -/
def execResclr (part ctx : Nat) (s : State) : Out :=
  .next (if s.hosted part then { s with filters := s.filters.filter fun x => x.2.1 != ctxKey part ctx } else s)

/-- APERTURE_HOST_WRITE (R104): at once for a context that is out or has no gang, else as its paths pass switch points. -/
def execApertureHostWrite (part ctx n : Nat) (v : BitVec 64) (s : State) : Out :=
  let c := s.ctx part ctx
  let x := v &&& 0x07FFFFFFFFFFFFFF
  .next (if 8 ≤ n || !s.hosted part then s
    else if c.swapst = 2 || (s.gangsOf part ctx).isEmpty then s.aperNow part ctx n x
    else
      { s.putCtx part ctx { c with aper := CMap.set c.aper n x } with
        paths := s.paths.map fun (p : Nat × Path) =>
          if (FMap.get? s.gangs (p.1 / 4096)).any fun q => q.part == part && q.ctx == ctx
          then (p.1, p.2.holdAper c.aper) else p })

/-- The MEMBERS address and COUNT of a settle group; none where its entry or its MEMBERS array cannot be read (R161). -/
def State.members (s : State) (part ctx g : Nat) : Option (BitVec 64 × Nat) × State :=
  match s.readAddr part ctx ((s.ctx part ctx).sgbase + BitVec.ofNat 64 (16 * g)) 16 with
  | (none, s1) => (none, s1)
  | (some e, s1) =>
    let count := leNat ((e.drop 4).take 4)
    let arr := leNat (e.drop 8)
    match s1.readVA part ctx (8 * count / 65536 + 2) arr (8 * count) with
    | (none, s2) => (none, s2)
    | (some _, s2) => (some (BitVec.ofNat 64 arr, count), s2)

/-- SEALERR of a context's window set. -/
def State.sealErr (s : State) (part ctx : Nat) : State := s.putCtx part ctx { s.ctx part ctx with sealerr := true }

/-- SEALGRP (R160, R161). `v` is the word written at +0x64: bit 17 clears SEALERR, and group g of bits 15:0 is sealed, member by member;
while that goes on a further g is ignored (log 45). -/
def execSealgrp (part ctx : Nat) (v : BitVec 32) (s : State) : Out :=
  let c := s.ctx part ctx
  let g := bf v 0 16
  .next (if !s.hosted part then s
    else
      let s0 := if v.getLsbD 17 then s.putCtx part ctx { c with sealerr := false } else s
      if c.sealing.isSome then s0
      else if c.sgn ≤ g then s0.sealErr part ctx
      else
        match s0.members part ctx g with
        | (none, s1) => s1.sealErr part ctx
        | (some (_, 0), s1) => s1
        | (some (a, n + 1), s1) => s1.putCtx part ctx { s1.ctx part ctx with sealing := some (a, n + 1, 0) })

/-- One member of a context's SEALGRP is sealed, or passed over with SEALERR (R161); after the last SEALBUSY falls. -/
def State.sealStep (s : State) (part ctx : Nat) : State :=
  match (s.ctx part ctx).sealing with
  | none => s
  | some (arr, n, i) =>
    let y := s.readVA part ctx 2 (arr.toNat + 8 * i) 8
    let s1 := match y.1 with
      | none => y.2.sealErr part ctx
      | some bs =>
        let a : BitVec 64 := BitVec.ofNat 64 (leNat bs)
        match (if a.toNat % 64 = 0 then y.2.sealHdr (.g part ctx a) else none) with
        | some s2 => s2
        | none => y.2.sealErr part ctx
    s1.putCtx part ctx { s1.ctx part ctx with sealing := if i + 1 < n then some (arr, n, i + 1) else none }

/-! ### Device registers (R6, R20, R47, R62, R71, R74, R75, R81, R85, R109, R148) -/

/-- A field that takes a value only when it is 0 or in a range. -/
def logField (old v lo hi : Nat) : Nat := if v % 32 = 0 || (lo ≤ v % 32 && v % 32 ≤ hi) then v % 32 else old

/-- A 32-bit value clamped (R47, R71). -/
def clamp (v lo hi : Nat) : Nat := max lo (min v hi)

/-- A 64-bit word of a wide staging register replaced. -/
def setWord {n : Nat} (x : BitVec n) (i : Nat) (v : BitVec 64) : BitVec n := setF x (64 * i) 64 v.toNat

/-- A function's own registers (R85). -/
def Fn.write (f : Fn) (off : Nat) (v : BitVec 64) : Fn :=
  if off = 0x00 then { f with base := v }
  else if off = 0x08 then { f with log := logField f.log v.toNat 4 12 }
  else if off = 0x10 then { f with tail := v.setWidth 32 }
  else f

/-- A pigeonhole's registers (R148). -/
def Hole.write (h : Hole) (off : Nat) (v : BitVec 64) : Hole :=
  let idle := h.head == h.tail
  if off = 0x00 && idle then { h with base := v }
  else if off = 0x08 && idle then { h with log := logField h.log v.toNat 5 16, ctx := bf v 8 6, hostfed := v.getLsbD 14 }
  else if off = 0x14 then { h with err := h.err &&& ~~~(v.setWidth 3) }
  else h

/-- A launch queue's registers (R75, R76). -/
def Queue.write (q : Queue) (off : Nat) (v : BitVec 64) : Queue :=
  let idle := q.head == q.tail
  if off = 0x00 && idle then { q with base := v }
  else if off = 0x08 then
    let q1 := { q with prio := bf v 16 2 }
    if idle then { q1 with log := logField q.log v.toNat 4 16, ctx := bf v 8 6 } else q1
  else if off = 0x14 then { q with err := q.err && !v.getLsbD 0 }
  else q

/-- A context window's registers without behaviour of their own (R81, R88, R145, R160, R185). -/
def Ctx.write (c : Ctx) (off : Nat) (v : BitVec 64) : Ctx :=
  let w : BitVec 32 := v.setWidth 32
  let d := c.dbg
  match off with
  | 0x00 => { c with mapbuf := v }
  | 0x08 => { c with sysbase := v }
  | 0x10 => { c with syslog := logField c.syslog v.toNat 4 12 }
  | 0x28 => { c with resbase := v }
  | 0x30 => { c with reslog := logField c.reslog v.toNat 8 16 }
  | 0x38 => { c with restail := w, resPosted := false }
  | 0x3C => { c with resovf := w }
  | 0x50 => { c with savearea := v }
  | 0x58 => { c with sgbase := v }
  | 0x60 => { c with sgn := if bf v 0 17 < 65536 then bf v 0 17 else c.sgn }
  | 0x68 => { c with hentry := v }
  | 0x70 => { c with issuepol := if bf v 0 2 = 3 then c.issuepol else w &&& 3 }
  | 0x80 => { c with dbg := { d with gang := w } }
  | 0x84 => { c with dbg := { d with
      wg := bf v 0 3, grp := bf v 3 4, split := bf v 7 2, lane := bf v 9 5, frag := v.getLsbD 14, fnum := bf v 15 5 } }
  | 0x88 => { c with dbg := { d with reg := bf v 0 16, word := bf v 16 2 } }
  | 0x8C => { c with dbg := { d with data := w } }
  | _ => c

/-- The firmware and attestation registers (R20). -/
def Mgmt.write (m : Mgmt) (off : Nat) (v : BitVec 64) : Mgmt :=
  if off = 0x08 then { m with fwbase := v }
  else if off = 0x10 then { m with fwlen := v.setWidth 32 }
  else if 0x20 ≤ off && off < 0x40 && off % 8 = 0 then { m with nonce := setWord m.nonce ((off - 0x20) / 8) v }
  else if off = 0x40 then { m with attbuf := v }
  else m

/-- A link's registers (R47). -/
def Link.write (l : Link) (off : Nat) (v : BitVec 64) : Link :=
  let w : BitVec 32 := v.setWidth 32
  if off = 0x00 then { l with tmo := BitVec.ofNat 24 (clamp (bf v 0 24) 10000 10000000) }
  else if off = 0x04 then { l with keywarn := l.keywarn && !v.getLsbD 4, keyerr := l.keyerr && !v.getLsbD 6 }
  else if off = 0x18 then { l with warnexp := v.setWidth 6 }
  else if off = 0x1C then { l with late := w }
  else if off = 0x20 then { l with tmocnt := w }
  else if off = 0x24 then { l with failcnt := w }
  else if 0x80 ≤ off && off < 0xA0 && off % 8 = 0 then
    { l with stage := { l.stage with txkey := setWord l.stage.txkey ((off - 0x80) / 8) v } }
  else if 0xA0 ≤ off && off < 0xC0 && off % 8 = 0 then
    { l with stage := { l.stage with rxkey := setWord l.stage.rxkey ((off - 0xA0) / 8) v } }
  else if off = 0xC0 then { l with stage := { l.stage with txsalt := v.setWidth 56 } }
  else if off = 0xC8 then { l with stage := { l.stage with rxsalt := v.setWidth 56 } }
  else l

/-- The Selvedge's registers (R62, R71). -/
def Selv.write (x : Selv) (off : Nat) (v : BitVec 64) : Selv :=
  let w : BitVec 32 := v.setWidth 32
  match off with
  | 0x00 => { x with offign := w }
  | 0x04 => { x with uuddrop := w }
  | 0x08 => { x with stale := w }
  | 0x0C => { x with notefail := w }
  | 0x10 => { x with jobfail := w }
  | 0x18 => { x with notetmo := BitVec.ofNat 32 (clamp w.toNat 10000 10000000) }
  | 0x100 => { x with cid := v.setWidth 12, cpart := BitVec.ofNat 4 (bf v 16 4), cctx := BitVec.ofNat 6 (bf v 20 6) }
  | n => if 0x108 ≤ n && n < 0x130 && n % 8 = 0 then { x with entry := setWord x.entry ((n - 0x108) / 8) v } else x

/-- A partition's blocks (R74, R109); HOME keeps what the host writes, also 1 once PCI Express link 1 is retired (log 88). -/
def State.writePart (s : State) (n off : Nat) (v : BitVec 64) : State :=
  let p := s.part n
  if s.partEn n then s
  else if off = 0 then s.putPart n { p with pclust := v.setWidth 24, home := BitVec.ofNat 1 (bf v 24 1) }
  else s

def State.writeXlat (s : State) (n off : Nat) (v : BitVec 64) : State :=
  let p := s.part n
  let w : BitVec 32 := v.setWidth 32
  s.putPart n (match off with
    | 0x00 => { p with ptroot := v }
    | 0x08 => { p with invia := v.setWidth 52 }
    | 0x18 => { p with sbbase := v }
    | 0x20 => { p with sbsize := BitVec.ofNat 32 (s.pool n), sbnext := w }
    | 0x28 => { p with ftbase := v }
    | 0x30 => { p with ftlog := logField p.ftlog v.toNat 4 16 }
    | 0x38 => { p with fttail := w }
    | _ => p)

/-- A function that answers (R29, R72): PF0 is 0, VF n is n, PF1 is 9. -/
def State.fnExists (s : State) (fn : Nat) : Bool := fn == 0 || s.vfExists fn || (fn == 9 && s.mgmt.isl 173 != 2)

/-- REGISTER_WRITE (R6): a write of a whole register of a function's BAR0 (R72) that has no behaviour of its own; read-only
registers, registers that other events write, and offsets a function does not expose are left as they are. -/
def execRegisterWrite (fn offset : Nat) (v : BitVec 64) (s : State) : Out :=
  .next (if !s.fnExists fn then s
    else if offset < 0x1000 then s.putFn fn ((s.fn fn).write offset v)
    else if fn = 9 then s
    else if offset < 0x3000 then
      let h := (offset - 0x1000) / 0x20
      if (s.holeOwner h).isNone || s.holeOwner h ≠ s.fnPart fn then s
      else s.putHole h ((s.hole h).write ((offset - 0x1000) % 0x20) v)
    else if offset < 0x30000 then
      match s.fnPart fn with
      | none => s
      | some n =>
        if 0x10000 ≤ offset && offset < 0x10400 then
          s.putQueue (queueKey n ((offset - 0x10000) / 0x40)) ((s.queue (queueKey n ((offset - 0x10000) / 0x40))).write (offset % 0x40) v)
        else if 0x20000 ≤ offset && offset < 0x24000 then
          let c := (offset - 0x20000) / 0x100
          let s1 := s.putCtx n c ((s.ctx n c).write (offset % 0x100) v)
          if offset % 0x100 = 0x68 && v = 0 then s1.flushFaults n c else s1
        else s
    else if fn ≠ 0 then s
    else if 0x30800 ≤ offset && offset < 0x30900 then { s with mgmt := s.mgmt.write (offset - 0x30800) v }
    else if 0x40000 ≤ offset && offset < 0x41000 then
      s.putLink ((offset - 0x40000) / 0x100) ((s.link ((offset - 0x40000) / 0x100)).write (offset % 0x100) v)
    else if 0x50000 ≤ offset && offset < 0x50200 then { s with selv := s.selv.write (offset - 0x50000) v }
    else if 0x60000 ≤ offset && offset < 0x60120 then s.writePart ((offset - 0x60000) / 0x20) (offset % 0x20) v
    else if 0x61000 ≤ offset && offset < 0x61240 then s.writeXlat ((offset - 0x61000) / 0x40) (offset % 0x40) v
    else s)

end Sys2Proof.Machine
end

