-- ==== Sys2Proof/Machine/Sorter.lean ====
section
/-! DEFINITION. The Task Sorter and the stack dot units (spec/08_task_sorter_and_postmarks.md R148–R159, spec/09_engines.md
R178), invalidations and retries (spec/05 R109, R112). -/

namespace Sys2Proof.Machine

/-! ### Acceptance (R150, R152) -/

/-- A docket image at a slot; KIND 4 takes ENTRY and GEOM from the context's registration (R67, R150). -/
def State.parseDocket (s : State) (part : Nat) (h : Hole) (hole : Nat) (x : Nat) : Docket :=
  let b := fld x 0 1
  let kind := b % 8
  let reg := (s.ctx part h.ctx).reg
  let args : BitVec 128 := BitVec.ofNat 128 (fld x 0x30 16)
  { hole := hole, index := h.acc, addr := slotAddr h h.acc, part := part, ctx := h.ctx, subctx := h.ctx, kind := kind, prio := b / 8 % 4
    subv := b / 32 % 2 == 1, pre := b / 64 % 2 == 1, autoseal := b / 128 == 1
    entry := if kind = 4 then (reg.map (·.entry)).getD 0 else BitVec.ofNat 64 (fld x 8 8)
    geom := if kind = 4 then (reg.map (·.geom)).getD 0 else BitVec.ofNat 64 (fld x 0x10 8)
    subhdr := BitVec.ofNat 64 (fld x 0x18 8), outhdr := BitVec.ofNat 64 (fld x 0x20 8), args := args, state := 1, code := 0
    seen := 0, last := none, lastFinal := false, runs := 0, stopping := false
    parcel := if kind = 4 then reg.bind fun g =>
        let slot := (bf args 0 64 - g.slots.toNat) / 64
        (g.grants.find? fun y => decide (y.2.1 ≤ slot ∧ slot < y.2.1 + y.2.2)).map fun y => (y.1, slot)
      else none }

/-- Item 1 of R152. -/
def docketBad (x : Nat) : Bool :=
  let kind := fld x 0 1 % 8
  let geom : BitVec 64 := BitVec.ofNat 64 (fld x 0x10 8)
  decide (5 ≤ kind) || fld x 3 1 != 0 || (if kind = 0 then !geomOk geom else geom != 0) ||
    (fld x 0 1 / 32 % 2 == 1 && (fld x 0x18 8 == 0 || fld x 0x18 8 % 64 != 0))

/-- The clusters of a die. -/
def dieClusters (die : Nat) : List Nat := (List.range 6).map (· + 6 * die)

/-- Item 2 of R152 for a wave task or parcel handler. -/
def State.docketFits (s : State) (d : Docket) : Bool :=
  let g := d.geom
  (d.kind != 0 && d.kind != 4) ||
    s.couldFit ⟨d.part, bf g 0 3 + 1, bf g 3 4 + 1, bf g 7 5, bf g 12 11, bf g 23 10⟩ (dieClusters (d.hole / 64))

/-- Enter a docket in its first state (R151, R152). -/
def State.enter (s0 : State) (k : Nat) (d : Docket) : State :=
  let s := if d.subv then s0.walkHdr d.hdr else s0
  let owed := !d.subv || (match s.readHdr d.hdr with
    | some h => fireOwed d h
    | none => false)
  s.putDocket k { d with state := if s.docketDep d ≠ 0 then 1 else if owed then 2 else 4 }

/-- Abandon a docket at its check; it has no subscription to leave. -/
def State.rejectDocket (s : State) (k : Nat) (d : Docket) (code : Nat) : State :=
  (s.putDocket k { d with subv := false }).finishDocket k 6 code

/-- A slot could not be accepted (R152): ERR bit 2, and it waits. -/
def State.slotWaits (s : State) (hole : Nat) : State :=
  s.putHole hole { s.hole hole with err := (s.hole hole).err ||| 4, waits := true, again := false }

/-- Accept the next slot of a pigeonhole, or leave it waiting (R152). -/
def State.acceptNext (s : State) (hole : Nat) : State :=
  let h := s.hole hole
  match s.holeOwner hole with
  | none => s
  | some part =>
    if h.log = 0 || h.err.getLsbD 0 || h.acc = h.tail then s
    else
      let a := slotAddr h h.acc
      match s.readAddr part h.ctx a 64 with
      | (none, s1) => s1.slotWaits hole
      | (some bs, s1) =>
        match s1.wroteAddr part h.ctx (a + 1) [1, 0] with
        | (false, s2) => s2.slotWaits hole
        | (true, s2) =>
          let x := leNat bs
          let from_ := (h.origin.find? fun y => y.1 == h.acc.toNat).map (·.2)
          let d := { s2.parseDocket part h hole x with launch := from_ }
          let k := docketKey hole h.acc
          let s3 := s2.putHole hole { h with
            acc := h.acc + 1, waits := false, again := false, origin := h.origin.filter fun y => y.1 != h.acc.toNat }
          if docketBad x then (s3.putHole hole { s3.hole hole with err := (s3.hole hole).err ||| 2 }).rejectDocket k d 2
          else if !s3.docketFits d then s3.rejectDocket k d 3
          else if d.subv then
            let s3 := s3.walkHdr d.hdr
            match s3.subscribe part h.ctx d.addr d.subhdr with
            | none => s3.rejectDocket k d 4
            | some s4 => s4.enter k d
          else s3.enter k d

/-- DOCKET_ACCEPT (R152): the next slot, unless it waits. -/
def execDocketAccept (hole : Nat) (s : State) : Out := .next (if (s.hole hole).waits then s else s.acceptNext hole)
/-- DOCKET_SLOT_RETRY (R152): a slot that could not be accepted is tried again. -/
def execDocketSlotRetry (hole : Nat) (s : State) : Out := .next (if (s.hole hole).waits then s.acceptNext hole else s)

/-! ### Issue (R151, R153, R154) -/

/-- A valid stack-dot command (R178). -/
def sduOk (x : Nat) : Bool :=
  let w := fld x 1 1 % 16
  let v := fld x 1 1 / 16
  fld x 0 1 / 8 == 0 && (w == 8 || w == 9 || w == 12 || w == 13 || w == 14) && (v == 8 || v == 9 || v == 10) && fld x 2 2 == 0 &&
  decide (1 ≤ fld x 4 4 ∧ fld x 4 4 ≤ 2 ^ 20) && fld x 8 4 % 16 == 0 && decide (16 ≤ fld x 8 4 ∧ fld x 8 4 ≤ 65536) &&
  fld x 0x0C 4 == 0 && fld x 0x10 8 % 65536 == 0 && fld x 0x30 16 == 0

/-- The stack a stack-dot docket's command names: that of the command a run has read, else of the one in memory. -/
def State.sduStack (s : State) (d : Docket) : Option Nat :=
  match d.cmd with
  | some x => some (bf x 0 3)
  | none => (s.readVA d.part d.ctx 2 d.entry.toNat 1).1.map fun bs => leNat bs % 8

/-- What a stack-dot run reads at its start (R178): its command, and the vector of a valid one or the cause that keeps it from being
read. -/
def State.sduRead (s : State) (d : Docket) : Docket × State :=
  match s.readVA d.part d.ctx 2 d.entry.toNat 64 with
  | (none, s1) => (d, s1)
  | (some bs, s1) =>
    let x := leNat bs
    let n := fld x 8 4 * tyBytes (fld x 1 1 / 16)
    let d1 := { d with cmd := some (BitVec.ofNat 512 x) }
    if !sduOk x then (d1, s1)
    else
      match s1.readVA d.part d.ctx 8 (fld x 0x18 8) n with
      | (some vb, s2) => ({ d1 with vec := vb }, s2)
      | (none, s2) => ({ d1 with vecBad := s1.rangeCause d.part d.ctx (fld x 0x18 8) n .rd }, s2)

/-- Whether an engine can take a docket now: a place for its gang; the Loom, the stack dot unit or the Selvedge free. -/
def State.canTake (s : State) (die engine : Nat) (k : Nat) (d : Docket) : Bool :=
  (s.ctx d.part d.ctx).swapst == 0 && s.partEn d.part && (s.part d.part).pst == 1 && !s.mgmt.needsReset &&
  match d.kind with
  | 0 | 4 =>
    let g := d.geom
    let q : GReq := ⟨d.part, bf g 0 3 + 1, bf g 3 4 + 1, bf g 7 5, bf g 12 11, bf g 23 10⟩
    s.backed q && (s.findPlace q (dieClusters die)).isSome && !(s.gangs.any fun x => x.2.src == .docket k)
  | 1 => decide (engine / 48 = die) && s.mgmt.liveCore engine && decide (engine / 8 < s.mgmt.awake) && (s.core engine).loom.isEmpty
  | 2 => decide (engine < 8) && ((s.sduStack d).getD engine == engine) &&
    !(s.dockets.any fun x => x.2.kind == 2 && x.2.state == 3 && (s.sduStack x.2).getD engine == engine)
  | _ => decide ((s.selv.jobs.filter fun x => x.2.running).length < Config.jobs)

/-- The engine class of a kind: parcel handlers are wave tasks. -/
def engineClass (kind : Nat) : Nat := if kind = 4 then 0 else kind

/-- Distance from the pigeonhole after the last one issued from at a priority. -/
def State.turnOf (s : State) (die : Nat) (d : Docket) : Nat :=
  match FMap.get? s.lastHole (4 * die + d.prio) with
  | none => d.hole % 64
  | some h => (d.hole % 64 + 63 - h % 64) % 64

/-- The order of R154: dockets that were passed over, then priority, then the turn of the pigeonhole, then the slot's index. -/
def State.before (s : State) (die : Nat) (a b : Docket) : Bool :=
  if a.passed ≠ b.passed then a.passed
  else if a.prio ≠ b.prio then decide (b.prio < a.prio)
  else if s.turnOf die a ≠ s.turnOf die b then decide (s.turnOf die a < s.turnOf die b)
  else decide ((a.index - (s.hole a.hole).head).toNat < (b.index - (s.hole b.hole).head).toNat)

/-- The READY docket that an engine of a kind takes. -/
def State.pickDocket (s : State) (die kind engine : Nat) : Option (Nat × Docket) :=
  (s.dockets.filter fun x => x.2.hole / 64 == die && x.2.state == 2 && engineClass x.2.kind == kind && s.canTake die engine x.1 x.2).foldl
    (fun (best : Option (Nat × Docket)) x => match best with
      | none => some x
      | some b => if s.before die x.2 b.2 then some x else some b) none

/-- The READY wave tasks and parcel handlers that find no place are passed over (R154): those that a chosen one overtakes, or all of
them where none could be chosen. -/
def State.passOver (s : State) (die : Nat) (chosen : Option Docket) : State :=
  { s with dockets := s.dockets.map fun x =>
      if x.2.hole / 64 == die && x.2.state == 2 && engineClass x.2.kind == 0 && chosen.all (s.before die x.2) && !s.canTake die 0 x.1 x.2
      then (x.1, { x.2 with passed := true }) else x }

/-- A run starts (R153, R158): it takes the header's postmark and a reader count; a stack-dot run reads its command and vector. -/
def State.startRun (s : State) (k : Nat) (d0 : Docket) : State :=
  let y := if d0.kind = 2 then s.sduRead d0 else (d0, s)
  let d := { y.1 with passed := false }
  let loc := d.hdr
  match (if d.subv then y.2.readHdr loc else none) with
  | none => y.2.putDocket k { d with state := 3 }
  | some h =>
    let s1 := (y.2.writeHdr loc (hAddReader h (hPost h) true)).getD y.2
    s1.putDocket k { d with state := 3, last := some (hPost h) }

/-- A run completes (R158, R159): SEEN, RUNS and the reader count; AUTOSEAL; then DONE, READY or IDLE. A pass of a
subscribed compositing job gives the sealed bit it contributed and whether the job is over (R59). -/
def State.completeRun (s : State) (k : Nat) (sealsOut : Bool) (pass : Option (Bool × Bool) := none) : State :=
  match FMap.get? s.dockets k with
  | none => s
  | some d =>
    let loc := d.hdr
    let s := if d.outhdr = 0 then s else s.walkHdr (.g d.part d.ctx d.outhdr)
    let h := if d.subv then s.readHdr loc else none
    let s1 := match h with
      | some x => (s.writeHdr loc (hAddReader x (d.last.getD 0) false)).getD s
      | none => s
    let final := match pass, h with
      | some p, _ => p.1
      | none, some x => hSealed x && d.last.getD 0 == hPost x
      | none, none => !d.subv
    let d1 := { d with
      runs := d.runs + 1, seen := d.last.getD 0, lastFinal := final, stopping := false, cmd := none, vec := [], vecBad := 0 }
    let s2 := s1.putDocket k d1
    let s3 := if final && d.autoseal && sealsOut && d.outhdr ≠ 0 then (s2.sealHdr (.g d.part d.ctx d.outhdr)).getD s2 else s2
    if (pass.map (·.2)).getD final then s3.finishDocket k 5 1
    else
      match h with
      | some x => s3.putDocket k { d1 with state := if fireOwed d1 x then 2 else 4 }
      | none => s3.putDocket k { d1 with state := 4 }

/-- RUN_COMPLETE (R158): of a wave task or parcel handler whose gang has ended, or a Loom task whose list has. -/
def execRunComplete (docket : Nat) (s : State) : Out :=
  .next (match FMap.get? s.dockets docket with
    | none => s
    | some d =>
      if d.state ≠ 3 then s
      else
        let mine := s.gangs.filter fun x => x.2.src == .docket docket
        if d.kind = 0 || d.kind = 4 then
          if mine.isEmpty || !(mine.all fun x => x.2.status == 4) then s
          else { s with gangs := s.gangs.filter fun (x : Nat × Gang) => x.2.src != Source.docket docket }.completeRun docket true
        else if d.kind = 1 && !(s.cores.any fun c => c.2.loom.any fun l => l.docket == some docket) then s.completeRun docket true
        else s)

/-! ### The stack dot units (R126, R178) -/

/-- The stack dot unit of a stack, or its stack's HBM interface, has been retired (R360). -/
def Mgmt.sduDown (m : Mgmt) (stack : Nat) : Bool := m.isl (144 + stack) == 2 || m.isl (136 + stack) == 2

/-- Bytes of 16 elements of a weight type. -/
def chunkBytes (t : Nat) : Nat := if t = 14 then 8 else 16 * tyBytes t

/-- Sixteen weights at a virtual address: their values and whether an escape outside slot 0 was met, or CODE and cause. -/
def State.weights (s : State) (part ctx stack t va : Nat) : Except (Nat × BitVec 8) (List (FV × Bool)) × State :=
  match s.piece (s.ctx part ctx).aper part va (chunkBytes t) .rd with
  | (.loc ia pa n e, s1) =>
    if entFmt e ≠ t then (.error (4, cFORMAT), s1)
    else if Config.hbmBytes ≤ pa || pa / 65536 / 32 % 8 ≠ stack then (.error (3, 0), s1)
    else
      let raw := Memory.read s1.mem pa n
      if t ≠ 14 then (.ok ((List.range 16).map fun i => ((fmtOf t).decode (raw / 2 ^ (tyBits t * i) % 2 ^ tyBits t), false)), s1)
      else
        match s1.scaleByte none part ia e none with
        | (.ok sc, s2) => (.ok ((List.range 16).map fun i => q4xVal (fun j => raw / 2 ^ (4 * j) % 16) ((sc.map (·.1)).getD 0) i), s2)
        | (.error c, s2) => (.error (4, c), s2)
  | (.bad c _ _ _ _, s1) => (.error (4, c), s1)
  | (_, s1) => (.error (4, cPERMISSION), s1)

/-- The sum of R126: chunk g goes to channel g mod 32, bank (g div 32) mod 16; then banks, then channels. -/
def sduSum (chunks : List (List (FV × FV))) : Nat :=
  let idx := List.range chunks.length
  let bank (ch b : Nat) : Nat := ((chunks.zip idx).filter fun x => x.2 % 32 == ch && x.2 / 32 % 16 == b).foldl
    (fun acc x => (add16 fmtF32 acc x.1).1) 0
  let add (a b : Nat) : Nat := (fmtF32.addOp rne false a b).1
  let chan (ch : Nat) : Nat := ((List.range 15).map (· + 1)).foldl (fun acc b => add acc (bank ch b)) (bank ch 0)
  ((List.range 31).map (· + 1)).foldl (fun acc ch => add acc (chan ch)) (chan 0)

/-- One row's chunks of weights. -/
def State.sduRow (s : State) (part ctx stack t va n : Nat) : Except (Nat × BitVec 8) (List (List (FV × Bool))) × State :=
  (List.range n).foldl (fun (acc : Except (Nat × BitVec 8) (List (List (FV × Bool))) × State) g =>
    match acc.1 with
    | .error _ => acc
    | .ok l =>
      match acc.2.weights part ctx stack t (va + chunkBytes t * g) with
      | (.ok x, s1) => (.ok (l ++ [x]), s1)
      | (.error e, s1) => (.error e, s1)) (.ok [], s)

/-- The results of a command on its vector's bytes, little-endian, and the FMT bit; or CODE and cause. -/
def State.sduRun (s : State) (part ctx x : Nat) (vb : List Byte) : Except (Nat × BitVec 8) (List Byte × Bool) × State :=
  let wt := fld x 1 1 % 16
  let vt := fld x 1 1 / 16
  let klen := fld x 8 4
  let rs := (klen / 16 * chunkBytes wt + 63) / 64 * 64
  let vec := (List.range (klen / 16)).map fun g => (List.range 16).map fun i =>
    (fmtOf vt).decode (leNat ((vb.drop ((16 * g + i) * tyBytes vt)).take (tyBytes vt)))
  (List.range (fld x 4 4)).foldl (fun (acc : Except (Nat × BitVec 8) (List Byte × Bool) × State) row =>
    match acc.1 with
    | .error _ => acc
    | .ok (out, fmt) =>
      match acc.2.sduRow part ctx (fld x 0 1 % 8) wt (fld x 0x10 8 + row * rs) (klen / 16) with
      | (.error e, s2) => (.error e, s2)
      | (.ok ws, s2) =>
        let sum := sduSum ((ws.zip vec).map fun p => (p.1.map (·.1)).zip p.2)
        (.ok (out ++ leBytes sum 4, fmt || ws.any fun c => c.any (·.2)), s2)) (.ok ([], false), s)

/-- The status word of a stack-dot task. -/
def sduStatus (code : Nat) (cause : BitVec 8) (fmt : Bool) : List Byte :=
  leBytes (code + cause.toNat * 2 ^ 8 + (if fmt then 2 ^ 16 else 0)) 8

/-- SDU_DONE (R178): the results and the status of the command read at the start, then the docket's completion. A command that could
not be read has no status address, and its docket completes. -/
def execSduDone (docket : Nat) (s : State) : Out :=
  .next (match FMap.get? s.dockets docket with
    | none => s
    | some d =>
      if d.kind ≠ 2 || d.state ≠ 3 then s
      else
        match d.cmd with
        | none => s.completeRun docket true
        | some c =>
          let x := c.toNat
          let put (s : State) (a : Nat) (b : List Byte) : Bool × State := s.wroteVA d.part d.ctx 128 a b
          let status (s : State) (b : List Byte) : State := (put s (fld x 0x28 8) b).2
          let s2 :=
            if !sduOk x then status s (sduStatus 2 0 false)
            else if s.mgmt.sduDown (fld x 0 1 % 8) then status s (sduStatus 5 0 false)
            else if d.vecBad ≠ 0 then status s (sduStatus 4 d.vecBad false)
            else
              match s.sduRun d.part d.ctx x d.vec with
              | (.error (c, cause), s2) => status s2 (sduStatus c cause false)
              | (.ok (out, fmt), s2) =>
                match put s2 (fld x 0x20 8) out with
                | (true, s3) => status s3 (sduStatus 1 0 fmt)
                | (false, s3) => status s3 (sduStatus 4 (s2.rangeCause d.part d.ctx (fld x 0x20 8) out.length .wr) fmt)
          s2.completeRun docket true)

/-! ### Retries and invalidations (R109, R112, R152, R166) -/

/-- SIDE_LOG_RETRY (R112, R166): every 65,536 cycles of a core, its log and the instances of gangs whose rank 0 it runs. -/
def execSideLogRetry (core : Nat) (s : State) : Out :=
  let s1 := s.retryLog fun l => l.core == core
  .next (if s.mgmt.needsReset then s else s1.gangs.foldl (fun (s : State) x =>
    if x.2.status = 0 && 8 * x.2.cluster + x.2.pos = core then
      (x.2.insts.filter (·.held)).foldl (fun (s : State) i => s.instStep x.1 i.id true) s
    else s) s1)

/-- The retries of an INVCMD: the partition's side-log entries, held instances and waiting slots. -/
def State.retryPart (s : State) (part : Nat) : State :=
  let s1 := (s.retryLog fun l => l.part == part).retryInsts fun q => q.part == part
  (s1.holes.filter fun h => h.2.waits && s1.holeOwner h.1 == some part).foldl (fun (s : State) h => s.acceptNext h.1) s1

/-- INVALIDATE_PAGE (R109): INVCMD 1 on the page that holds INVIA. -/
def execInvalidatePage (part : Nat) (s : State) : Out :=
  let p := s.part part
  let ia := p.invia.toNat
  .next (if 9 ≤ part || p.invbusy then s
    else
      let hit (x : Nat × BitVec 128) : Bool :=
        x.1 == tlbKey part ia || (x.2.getLsbD 28 && x.1 / 32 == tlbKey part ia / 32)
      ({ s with tlb := s.tlb.filter fun x => !hit x }.putPart part { p with invbusy := true, invall := false }).retryPart part)

/-- INVALIDATE_ALL (R109): INVCMD 2. -/
def execInvalidateAll (part : Nat) (s : State) : Out :=
  let p := s.part part
  .next (if 9 ≤ part || p.invbusy then s
    else
      ({ s with tlb := s.tlb.filter fun x => x.1 / 2 ^ 36 != part }.putPart part { p with invbusy := true, invall := true }).retryPart part)

/-- INVALIDATION_DONE (R109). -/
def execInvalidationDone (part : Nat) (s : State) : Out :=
  .next (if 9 ≤ part then s else s.putPart part { s.part part with invbusy := false, invall := false })

end Sys2Proof.Machine
end

