-- ==== Sys2Proof/Machine/Tiles.lean ====
section
/-! DEFINITION. Pixels and tiles of the compositor (spec/03_selvedge_and_parcels.md R50–R52, R55) and the compensated
pairs of collectives (R64). A tile is the 64·C words of its channels in order. -/

namespace Sys2Proof.Machine

/-- A tile: word 64·c + 8·y + x is channel c of pixel (x, y). -/
abbrev Tile := List (BitVec 32)

def f32v (x : BitVec 32) : FV := fmtF32.decode x.toNat
def f32r (v : FV) : BitVec 32 := BitVec.ofNat 32 (fmtF32.round rne v).1

/-- Exact sum and product of values, in f32 NaN rules. -/
def FV.plus (a b : FV) : FV := (FV.add 0 a b).1
def FV.times (a b : FV) : FV := (FV.mul a b).1
def natV (n : Nat) : FV := .fin false n 0

/-- Depth order (R51): −0 = +0, NaN after +∞, two NaNs equal. -/
def depthCmp (x y : BitVec 32) : Ordering :=
  match (f32v x).cmp? (f32v y) with
  | some o => o
  | none => match (f32v x).isNaN, (f32v y).isNaN with
    | true, true => .eq
    | true, false => .gt
    | _, _ => .lt

/-- Whether a is in FRONT of b (R51). -/
def inFront (a b : BitVec 32) (ra rb : Nat) : Bool :=
  match depthCmp a b with
  | .lt => true
  | .eq => decide (ra < rb)
  | .gt => false

/-- A value divided by a positive count, rounded once. -/
def divCount (v : FV) (n : Nat) : BitVec 32 :=
  match v with
  | .fin neg m e =>
    if m = 0 || n = 0 then f32r (.fin neg 0 0)
    else
      let k := 32 + Nat.log2 n
      let q := m * 2 ^ k / n
      let st := if m * 2 ^ k % n = 0 then 0 else 1
      f32r (.fin neg (2 * q + st) (e - k - 1))
  | _ => f32r v

/-- MERGE of two pixel records (R51): the record, its rank, whether a count saturated. -/
def mergePixel (mode : Nat) (a b : List (BitVec 32)) (ra rb : Nat) : List (BitVec 32) × Nat × Bool :=
  if mode = 2 then
    let na := (a.getLastD 0).toNat
    let nb := (b.getLastD 0).toNat
    let vals := ((a.zip b).take (a.length - 1)).map fun x =>
      if na + nb = 0 then (0 : BitVec 32) else divCount (((f32v x.1).times (natV na)).plus ((f32v x.2).times (natV nb))) (na + nb)
    (vals ++ [BitVec.ofNat 32 (min (na + nb) 0xFFFFFFFF)], min ra rb, decide (0xFFFFFFFF < na + nb))
  else
    let front := inFront (a.headD 0) (b.headD 0) ra rb
    let f := if front then a else b
    let k := if front then b else a
    let rf := if front then ra else rb
    if mode = 0 then (f, rf, false)
    else
      let w := f32v (f32r ((natV 1).plus (f32v (f.getD 1 0)).neg))
      (f.headD 0 :: ((f.zip k).drop 1).map (fun x => f32r ((w.times (f32v x.2)).plus (f32v x.1))), rf, false)

/-- The record of pixel i. -/
def pixelOf (chans : Nat) (t : Tile) (i : Nat) : List (BitVec 32) := (List.range chans).map fun c => t.getD (64 * c + i) 0

/-- MERGE of tiles, pixel by pixel, with the ranks that stand for each. -/
def mergeTiles (mode chans : Nat) (a b : Tile) (ra rb : List Nat) : Tile × List Nat × Bool :=
  let px := (List.range 64).map fun i => mergePixel mode (pixelOf chans a i) (pixelOf chans b i) (ra.getD i 0) (rb.getD i 0)
  ((List.range (64 * chans)).map fun j => ((px.getD (j % 64) ([], 0, false)).1).getD (j / 64) 0, px.map (·.2.1), px.any (·.2.2))

/-- The empty image's tile (R59). -/
def emptyTile (mode chans : Nat) : Tile :=
  (List.range (64 * chans)).map fun j => if j < 64 && mode ≠ 2 then 0x7FC00000 else 0

/-! ### Codec (R55) -/

/-- PLANE's pixel (x, y). -/
def planeAt (a b c : BitVec 32) (i : Nat) : BitVec 32 :=
  let bx := f32r (((f32v b).times (natV (i % 8))).plus (f32v a))
  f32r (((f32v c).times (natV (i / 8))).plus (f32v bx))

/-- Whether channel c of a mode is b32. -/
def isB32 (mode chans c : Nat) : Bool := (mode == 0 && decide (1 ≤ c)) || (mode == 2 && c + 1 == chans)

/-- The difference of two values, rounded. -/
def f32diff (a b : BitVec 32) : BitVec 32 := f32r ((f32v a).plus (f32v b).neg)

/-- The block of one channel. -/
def encodeBlock (plane : Bool) (vs : List (BitVec 32)) : List Byte :=
  let v0 := vs.headD 0
  if vs.all (· == v0) then 0 :: leBytes v0.toNat 4
  else
    let b := f32diff (vs.getD 1 0) v0
    let c := f32diff (vs.getD 8 0) v0
    if plane && !(vs.any fun v => (f32v v).isNaN) && (List.range 64).map (planeAt v0 b c) == vs then
      1 :: (leBytes v0.toNat 4 ++ leBytes b.toNat 4 ++ leBytes c.toNat 4)
    else 2 :: vs.flatMap fun v => leBytes v.toNat 4

/-- The block of a rank plane. -/
def encodeRanks (rs : List Nat) : List Byte :=
  let r0 := rs.headD 0
  if rs.all (· == r0) then [0, BitVec.ofNat 8 r0] else 2 :: rs.map (BitVec.ofNat 8)

/-- A tile on the wire: its channels' blocks, then the rank plane in ring jobs. -/
def encodeTile (mode chans : Nat) (t : Tile) (plane : Option (List Nat)) : List Byte :=
  ((List.range chans).flatMap fun c => encodeBlock (!isB32 mode chans c) ((t.drop (64 * c)).take 64)) ++
    (match plane with
      | some rs => encodeRanks rs
      | none => [])

/-- Words of a byte list. -/
def wordsOf : List Byte → Nat → List (BitVec 32)
  | _, 0 => []
  | bs, n + 1 => BitVec.ofNat 32 (leNat (bs.take 4)) :: wordsOf (bs.drop 4) n

/-- One channel's block and what follows it; none when it is malformed or cut short. -/
def decodeBlock (bs : List Byte) : Option (List (BitVec 32) × List Byte) :=
  match bs with
  | [] => none
  | h :: t =>
    if h = 0 then (if t.length < 4 then none else some (List.replicate 64 (BitVec.ofNat 32 (leNat (t.take 4))), t.drop 4))
    else if h = 1 then
      if t.length < 12 then none
      else
        let w := wordsOf t 3
        some ((List.range 64).map (planeAt (w.getD 0 0) (w.getD 1 0) (w.getD 2 0)), t.drop 12)
    else if h = 2 then (if t.length < 256 then none else some (wordsOf t 64, t.drop 256))
    else none

/-- A rank plane's block. -/
def decodeRanks (bs : List Byte) : Option (List Nat × List Byte) :=
  match bs with
  | [] => none
  | h :: t =>
    if h = 0 then (match t with
      | [] => none
      | r :: u => some (List.replicate 64 r.toNat, u))
    else if h = 2 then (if t.length < 64 then none else some ((t.take 64).map (·.toNat), t.drop 64))
    else none

/-- The blocks of `n` channels in order. -/
def decodeBlocks : Nat → List Byte → Option (Tile × List Byte)
  | 0, bs => some ([], bs)
  | n + 1, bs =>
    match decodeBlock bs with
    | none => none
    | some (vs, rest) => (decodeBlocks n rest).map fun y => (vs ++ y.1, y.2)

/-- A tile from the wire: none is TILE_FORMAT. -/
def decodeTile (chans : Nat) (ring : Bool) (bs : List Byte) : Option (Tile × List Nat) :=
  match decodeBlocks chans bs with
  | none => none
  | some (t, rest) =>
    if ring then
      match decodeRanks rest with
      | some (rs, []) => some (t, rs)
      | _ => none
    else if rest.isEmpty then some (t, []) else none

/-! ### Regions and segments (R52) -/

/-- First tile and length of the region that rank r holds at the start of round k. -/
def swapRegion (tiles r : Nat) : Nat → Nat × Nat
  | 0 => (0, tiles)
  | k + 1 =>
    let x := swapRegion tiles r k
    let h := (x.2 + 1) / 2
    if r / 2 ^ k % 2 = 0 then (x.1, h) else (x.1 + h, x.2 - h)

/-- Tiles of a region. -/
def tilesOf (x : Nat × Nat) : List Nat := (List.range x.2).map (· + x.1)

/-- First element and length of segment j among P. -/
def segment (n p j : Nat) : Nat × Nat := (j * n / p, (j + 1) * n / p - j * n / p)

/-- P is allowed by a schedule. -/
def ranksOk (ring : Bool) (p : Nat) : Bool := decide (2 ≤ p ∧ p ≤ 256) && (ring || 2 ^ Nat.log2 p == p)

/-! ### Compensated pairs (R64) -/

def f32sum (a b : BitVec 32) : BitVec 32 := f32r ((f32v a).plus (f32v b))

/-- COMBINE. -/
def combine (a b : BitVec 32 × BitVec 32) : BitVec 32 × BitVec 32 :=
  let s := f32sum a.1 b.1
  let bv := f32diff s a.1
  let av := f32diff s bv
  let t := f32sum (f32diff a.1 av) (f32diff b.1 bv)
  match f32v s with
  | .fin .. => (s, f32sum (f32sum a.2 b.2) t)
  | _ => (s, 0)

/-- FINAL, in the collective's type: 10 f32 or 9 bf16. -/
def finalPair (ty : Nat) (p : BitVec 32 × BitVec 32) : Nat :=
  match f32v p.1 with
  | .nan => (fmtOf ty).nan
  | .inf neg => (fmtOf ty).inf neg
  | .fin .. => ((fmtOf ty).round rne ((f32v p.1).plus (f32v p.2))).1

/-- One round of binary swap on one element: neighbouring sets combine, the lower first. -/
def pairUp : List (BitVec 32 × BitVec 32) → List (BitVec 32 × BitVec 32)
  | a :: b :: t => combine a b :: pairUp t
  | l => l

/-- Binary swap on the ranks' pairs of one element, as many rounds as given. -/
def swapReduce : Nat → List (BitVec 32 × BitVec 32) → List (BitVec 32 × BitVec 32)
  | 0, l => l
  | k + 1, l => swapReduce k (pairUp l)

/-- Ring on the ranks' pairs of one element of segment j: from rank j + 1 around to rank j. -/
def ringReduce (j : Nat) (l : List (BitVec 32 × BitVec 32)) : BitVec 32 × BitVec 32 :=
  let p := l.length
  let at_ (r : Nat) : BitVec 32 × BitVec 32 := l.getD (r % p) (0, 0)
  ((List.range (p - 1)).map (· + j + 2)).foldl (fun acc r => combine acc (at_ r)) (at_ (j + 1))

end Sys2Proof.Machine
end

