-- ==== Sys2Proof/Machine/Selvedge.lean ====
section
/-! DEFINITION. The Selvedge: issue of dockets to the engines (spec/08 R153–R155), compositing jobs
(spec/03_selvedge_and_parcels.md R54, R56–R60), collectives (R61–R65), the borrow cache (R69, R70), and the retirement
of its islands (spec/01 R360). -/

namespace Sys2Proof.Machine

/-! ### Compositing jobs (R56–R60) -/

def State.putJob (s : State) (k : Nat) (j : Job) : State := { s with selv := { s.selv with jobs := FMap.set s.selv.jobs k j } }
def State.countJobFail (s : State) : State := { s with selv := { s.selv with jobfail := satInc s.selv.jobfail } }

/-- Fields of a descriptor that R56 checks without the peer table; no tiles at all is malformed too (log 90). -/
def descOk (x : Nat) (d : Docket) : Bool :=
  let b := fld x 0 1
  let mode := b % 4
  let chans := b / 8 % 16
  let p := fld x 2 1 + 1
  let f := fld x 0x2C 4
  mode != 3 && fld x 1 1 == 0 && f / 4 == 0 && fld x 0x30 16 == 0 && decide (chans ≤ 8) &&
    decide ((if mode = 0 then 1 else if mode = 1 then 3 else 2) ≤ chans) && ranksOk (b / 4 % 2 == 1) p && decide (fld x 3 1 < p) &&
    fld x 4 2 != 0 && (f % 2 == 1) == d.subv && (f % 2 == 0 || d.subhdr.toNat == fld x 8 8) &&
    (f / 2 == 0 || d.outhdr.toNat == fld x 0x10 8)

/-- A job before its first pass. -/
def newJob (k x : Nat) (peers : List Nat) : Job :=
  let b := fld x 0 1
  { docket := k, mode := b % 4, ring := b / 4 % 2 == 1, chans := b / 8 % 16, gather := b / 128 == 1, ranks := fld x 2 1 + 1
    me := fld x 3 1, tiles := fld x 4 2, tag := fld x 6 2, src := BitVec.ofNat 64 (fld x 8 8), dst := BitVec.ofNat 64 (fld x 0x10 8)
    stat := BitVec.ofNat 64 (fld x 0x20 8), tmo := max 10000 (min 10000000 (fld x 0x28 4)), sub := fld x 0x2C 4 % 2 == 1
    dsthdr := fld x 0x2C 4 / 2 == 1, peers := peers, pass := 0, running := false, round := 0, srcPost := 0, sealed := false
    allSealed := false, sat := false, part := [], planes := [], arrived := [], posted := false }

/-- What reading a job's descriptor and peer table gives: no descriptor; a code and cause with the status address and DSTHDR; or the job. -/
inductive DescRes where
  | lost
  | bad (code : Nat) (cause : BitVec 8) (stat : BitVec 64) (dsthdr : Bool)
  | ok (j : Job)
deriving DecidableEq, Repr

/-- Entries of a peer table: package numbers; none when a reserved field is nonzero. -/
def peersOf (bs : List Byte) : Nat → Option (List Nat)
  | 0 => some []
  | n + 1 => if leNat ((bs.drop 2).take 2) ≠ 0 then none else (peersOf (bs.drop 4) n).map (leNat (bs.take 2) :: ·)

/-- Read the descriptor and peer table of a compositing docket (R56). -/
def State.readDesc (s : State) (k : Nat) (d : Docket) : DescRes × State :=
  match s.readVA d.part d.ctx 2 (bf d.args 0 64) 64 with
  | (none, s1) => (.lost, s1)
  | (some bs, s1) =>
    let x := leNat bs
    let stat : BitVec 64 := BitVec.ofNat 64 (fld x 0x20 8)
    let p := fld x 2 1 + 1
    let dh := fld x 0x2C 4 / 2 % 2 == 1
    if s.mgmt.selvDown then (.bad 7 0 stat dh, s1)
    else if !descOk x d then (.bad 5 0 stat dh, s1)
    else
      match s1.readVA d.part d.ctx 2 (fld x 0x18 8) (4 * p) with
      | (none, s2) => (.bad 6 (s1.rangeCause d.part d.ctx (fld x 0x18 8) (4 * p) .rd) stat dh, s2)
      | (some tab, s2) => match peersOf tab p with
        | none => (.bad 5 0 stat dh, s2)
        | some l => (.ok (newJob k x l), s2)

/-- The docket of a job that has no record to report in (R57): ABANDONED, FAULTED, JOBFAIL, TASK_FAULT. -/
def State.jobFault (s : State) (k : Nat) (counted : Bool) : State :=
  match FMap.get? s.dockets k with
  | none => s.dropJob k
  | some d =>
    let s1 := (s.dropJob k).finishDocket k 6 6
    (if counted then s1 else s1.countJobFail).notify d.part 11 0 d.ctx (taskDetail d)

/-- Write the status record (R57): whether that was possible. -/
def State.putStatus (s : State) (d : Docket) (stat : BitVec 64) (code : Nat) (sat final : Bool) (cause : BitVec 8) (pass : Nat) :
    Bool × State :=
  s.wroteVA d.part d.ctx 2 stat.toNat (leBytes (code + (if sat then 2 ^ 8 else 0) + (if final then 2 ^ 9 else 0) +
    cause.toNat * 2 ^ 16 + pass % 2 ^ 32 * 2 ^ 32) 16)

/-- First round, and the number after the last merging round, which numbers the gather. -/
def Job.first (j : Job) : Nat := if j.ring then 1 else 0
def Job.last (j : Job) : Nat := if j.ring then j.ranks else Nat.log2 j.ranks

/-- Whether the pass is final (R59): its rounds are over, and every source of a postmarked tile was sealed. -/
def Job.final (j : Job) : Bool := j.sub && j.allSealed && decide (j.last < j.round)

/-- A job ends with a code other than OK (R57, R58): its status, JOBFAIL, its docket's completion. `dsthdr` is its DSTHDR where there is
no job yet. -/
def State.failJob (s : State) (k : Nat) (stat : BitVec 64) (j : Option Job) (code : Nat) (cause : BitVec 8) (dsthdr : Bool := false) :
    State :=
  match FMap.get? s.dockets k with
  | none => s.dropJob k
  | some d =>
    let sat := (j.map (·.sat)).getD false
    let pass := (j.map (·.pass)).getD 0
    let own := (j.map (·.sealed)).getD false
    match s.putStatus d stat code sat (j.any Job.final) cause pass with
    | (false, s1) => s1.countJobFail.jobFault k true
    | (true, s1) =>
      (s1.countJobFail.dropJob k).completeRun k (!(j.map (·.dsthdr)).getD dsthdr) (if d.subv then some (own, true) else none)

/-- Tiles that rank q holds after the merges (R52). -/
def Job.held (j : Job) (q : Nat) : List Nat :=
  if j.ring then tilesOf (segment j.tiles j.ranks q) else tilesOf (swapRegion j.tiles q (Nat.log2 j.ranks))

/-- What a round sends: the rank and the tiles. -/
def Job.sends (j : Job) (r : Nat) : Option (Nat × List Nat) :=
  if r = j.last then (if j.gather && j.me != 0 then some (0, j.held j.me) else none)
  else if j.ring then some ((j.me + 1) % j.ranks, tilesOf (segment j.tiles j.ranks ((j.me + j.ranks - r) % j.ranks)))
  else
    let q := j.me ^^^ 2 ^ r
    some (q, tilesOf (swapRegion j.tiles q (r + 1)))

/-- What a round receives: senders and tiles. -/
def Job.receives (j : Job) (r : Nat) : List (Nat × Nat) :=
  if r = j.last then
    (if j.gather && j.me == 0 then ((List.range (j.ranks - 1)).map (· + 1)).flatMap fun q => (j.held q).map fun t => (q, t) else [])
  else if r < j.first || j.last < r then []
  else if j.ring then
    (tilesOf (segment j.tiles j.ranks ((j.me + 2 * j.ranks - r - 1) % j.ranks))).map fun t => ((j.me + j.ranks - 1) % j.ranks, t)
  else (tilesOf (swapRegion j.tiles j.me (r + 1))).map fun t => (j.me ^^^ 2 ^ r, t)

/-- MODE, ALG, CHANS, P, TILES and TAG as the model packs them (R56 gives the digest no form). -/
def Job.digest (j : Job) : BitVec 64 :=
  BitVec.ofNat 64 (j.mode + (if j.ring then 4 else 0) + j.chans * 2 ^ 3 + (j.ranks - 1) * 2 ^ 8 + j.tiles * 2 ^ 16 + j.tag * 2 ^ 32)

def Job.tile (j : Job) (t : Nat) : Tile := ((j.part.find? fun x => x.1 == t).map (·.2)).getD []
def Job.plane (j : Job) (t : Nat) : List Nat := ((j.planes.find? fun x => x.1 == t).map (·.2)).getD []

/-- The tiles of a round on the wire. -/
def Job.messages (j : Job) (r : Nat) : List NetMsg :=
  match j.sends r with
  | none => []
  | some (q, ts) => ts.map fun t =>
    ⟨j.peers.getD q 0, 1, [j.tag, j.pass, r, t, if j.allSealed then 1 else 0, j.digest.toNat, j.me],
      encodeTile j.mode j.chans (j.tile t) (if j.ring then some (j.plane t) else none)⟩

/-- Whether every expected tile of a round has arrived. -/
def Job.complete (j : Job) (r : Nat) : Bool :=
  (j.receives r).all fun x => j.arrived.any fun m => m.pass == j.pass && m.round == r && m.sender == x.1 && m.tile == x.2

/-- Merge one arrived tile (R51, R52). -/
def Job.mergeOne (j : Job) (m : TileMsg) : Job :=
  match decodeTile j.chans j.ring m.bytes with
  | none => j
  | some (t, rs) =>
    let own := j.tile m.tile
    let put (x : Tile) (p : List Nat) (sat : Bool) : Job :=
      { j with
        part := j.part.map fun y => if y.1 = m.tile then (y.1, x) else y
        planes := if j.ring then j.planes.map fun y => if y.1 = m.tile then (y.1, p) else y else []
        sat := j.sat || sat, allSealed := j.allSealed && m.allSealed }
    if m.round = j.last then put t rs false
    else if j.ring then
      let y := mergeTiles j.mode j.chans t own rs (List.replicate 64 j.me)
      put y.1 y.2.1 y.2.2
    else
      let b := 2 ^ m.round
      let mine := List.replicate 64 (j.me / b * b)
      let theirs := List.replicate 64 ((j.me ^^^ b) / b * b)
      let y := if j.me / b % 2 = 0 then mergeTiles j.mode j.chans own t mine theirs else mergeTiles j.mode j.chans t own theirs mine
      put y.1 [] y.2.2

/-- Merge the expected tiles of a complete round, in tile order. -/
def Job.mergeRound (j : Job) : Job :=
  let r := j.round
  let ms := (j.receives r).filterMap fun x =>
    j.arrived.find? fun m => m.pass == j.pass && m.round == r && m.sender == x.1 && m.tile == x.2
  { ms.foldl (fun (j : Job) m => j.mergeOne m) j with round := r + 1 }

/-- A tile that has arrived for the next pass takes an idle docket out of IDLE (R59). -/
def State.wakeJob (s : State) (k : Nat) : State :=
  match FMap.get? s.dockets k, FMap.get? s.selv.jobs k with
  | some d, some j =>
    if d.state = 4 && !j.running && (j.arrived.any fun m => m.pass == j.pass + 1) then s.putDocket k { d with state := 2 } else s
  | _, _ => s

/-- Write tiles at their positions, tile t at 256·C·t (R50; log 100); the cause met. -/
def State.putTiles (s : State) (d : Docket) (j : Job) (base : Nat) : List Nat → Except (BitVec 8) Unit × State
  | [] => (.ok (), s)
  | t :: ts =>
    let a := base + 256 * j.chans * t
    match s.wroteVA d.part d.ctx 3 a ((j.tile t).flatMap fun w => leBytes w.toNat 4) with
    | (false, s1) => (.error (s.rangeCause d.part d.ctx a (256 * j.chans) .wr), s1)
    | (true, s1) => s1.putTiles d j base ts

/-- What the delivery of an image comes to: it is done; it waits, for the readers of the slot or, `posted`, for the borrowers of the
header; or a cause. -/
inductive Delivery where
  | done (s : State)
  | waits (posted : Bool) (s : State)
  | bad (c : BitVec 8) (s : State)
deriving DecidableEq, Repr

/-- After the POST of a destination's header (R60, R70): its notices' acknowledgements, then the SEAL of the final pass. -/
def State.sealImage (s : State) (d : Docket) (j : Job) (final : Bool) : Delivery :=
  let loc := HLoc.g d.part d.ctx j.dst
  if s.noticed loc then .waits true s
  else if !final then .done s
  else
    match s.sealHdr loc with
    | some s1 => .done s1
    | none => .bad (s.rangeCause d.part d.ctx j.dst.toNat 64 .rmw) s

/-- The destination, its POST and SEAL (R54, R60). -/
def State.deliverImage (s : State) (d : Docket) (j : Job) (final : Bool) : Delivery :=
  let ts := if j.gather then List.range j.tiles else j.held j.me
  if j.gather && j.me ≠ 0 then .done s
  else if !j.dsthdr then
    match s.putTiles d j j.dst.toNat ts with
    | (.error c, s1) => .bad c s1
    | (.ok _, s1) => .done s1
  else if j.posted then s.sealImage d j final
  else
    let loc := HLoc.g d.part d.ctx j.dst
    let s0 := s.walkHdr loc
    match s0.readHdr loc with
    | none => .bad (s.rangeCause d.part d.ctx j.dst.toNat 64 .rd) s0
    | some h =>
      if hReaders h (hPost h + 1) ≠ 0 then .waits false s0
      else
        match s0.putTiles d j (hSlot h (hPost h + 1)).toNat ts with
        | (.error c, s1) => .bad c s1
        | (.ok _, s1) =>
          match s1.postHdr loc with
          | .ok s2 => s2.sealImage d j final
          | .lost => .bad (s1.rangeCause d.part d.ctx j.dst.toNat 64 .rmw) s1
          | _ => .bad cPOSTMARK s1

/-- The end of a pass whose merges are done (R54, R57, R59, R60). -/
def State.closePass (s : State) (k : Nat) (j : Job) : State :=
  match FMap.get? s.dockets k with
  | none => s.dropJob k
  | some d =>
    let final := j.final
    match s.deliverImage d j final with
    | .bad c s1 => s1.failJob k j.stat (some j) 6 c
    | .waits p s1 => s1.putJob k { j with posted := p }
    | .done s1 =>
      match s1.putStatus d j.stat 1 j.sat final 0 j.pass with
      | (false, s2) => s2.jobFault k false
      | (true, s2) =>
        if j.sub && !final then
          let j1 := { j with running := false, posted := false, part := [], planes := [], arrived := j.arrived.filter fun m => decide (j.pass < m.pass) }
          ((s2.putJob k j1).completeRun k (!j.dsthdr) (some (j.sealed, false))).wakeJob k
        else (s2.dropJob k).completeRun k (!j.dsthdr) (if j.sub then some (j.sealed, true) else none)

/-- Go as far as the tiles that have arrived allow: a digest that differs, a malformed tile, merges and sends, the end. -/
def State.advanceJob (s : State) (k : Nat) : Nat → State
  | 0 => s
  | fuel + 1 =>
    match FMap.get? s.selv.jobs k with
    | none => s
    | some j =>
      let now := j.arrived.filter fun m => m.pass == j.pass
      if !j.running then s
      else if now.any fun m => m.digest != j.digest then s.failJob k j.stat (some j) 4 0
      else if now.any fun m => (decodeTile j.chans j.ring m.bytes).isNone then s.failJob k j.stat (some j) 3 0
      else if j.last < j.round then s.closePass k j
      else if !j.complete j.round then s
      else
        let j1 := j.mergeRound
        let out := if j1.round ≤ j.last then j1.messages j1.round else []
        State.advanceJob ({ s with netOut := s.netOut ++ out }.putJob k j1) k fuel

/-- Steps a pass can take. -/
def Job.fuel (j : Job) : Nat := j.last + 3

/-- A pass starts (R59): the rank's contribution and the first tiles. -/
def State.startPass (s : State) (k : Nat) (d : Docket) (j : Job) : State :=
  let n := 256 * j.chans
  let h := if j.sub then s.readHdr (.g d.part d.ctx j.src) else none
  let post := d.last.getD 0
  let go (s : State) (img : List (Nat × Tile)) (own : Bool) : State :=
    let j1 := { j with
      pass := j.pass + 1, running := true, round := j.first, srcPost := post, sealed := own, allSealed := own, sat := false, part := img
      planes := if j.ring then img.map fun (x : Nat × Tile) => (x.1, List.replicate 64 j.me) else [] }
    ({ s with netOut := s.netOut ++ j1.messages j1.round }.putJob k j1).advanceJob k j1.fuel
  let read (base : Nat) (own : Bool) : State :=
    match s.readVA d.part d.ctx (n * j.tiles / 65536 + 2) base (n * j.tiles) with
    | (none, s1) => s1.failJob k j.stat (some { j with pass := j.pass + 1, sealed := own }) 6 (s.rangeCause d.part d.ctx base (n * j.tiles) .rd)
    | (some bs, s1) => go s1 ((List.range j.tiles).map fun t => (t, wordsOf ((bs.drop (n * t)).take n) (64 * j.chans))) own
  if !j.sub then read j.src.toNat false
  else
    match h with
    | none => s.failJob k j.stat (some { j with pass := j.pass + 1 }) 6 (s.rangeCause d.part d.ctx j.src.toNat 64 .rd)
    | some x =>
      if post = 0 then go s ((List.range j.tiles).map fun t => (t, emptyTile j.mode j.chans)) (hSealed x)
      else read (hSlot x post).toNat (hSealed x)

/-- The issue of a compositing docket that has started its run: its first pass, after the descriptor is read, or the next. -/
def State.issueJob (s : State) (k : Nat) : State :=
  match FMap.get? s.dockets k with
  | none => s
  | some d =>
    let old := FMap.get? s.selv.jobs k
    match old.filter fun j => decide (0 < j.pass) && !s.mgmt.selvDown with
    | some j => s.startPass k d j
    | none =>
      match s.readDesc k d with
      | (.lost, s1) => s1.jobFault k false
      | (.bad code cause stat dsthdr, s1) => s1.failJob k stat none code cause dsthdr
      | (.ok j, s1) => s1.startPass k d { j with arrived := ((old.map (·.arrived)).getD []).filter fun m =>
          m.digest != j.digest || (j.receives m.round).contains (m.sender, m.tile) }

/-- COMPOSITING_TILE_ARRIVAL (R53, R58, R59): a tile of the pass in progress, or of the next, which is held; others, and
tiles that are not expected, are discarded. Before the docket's first issue there is no descriptor to judge a tile by (R56): those of
the first pass are held as they come. -/
def execCompositingTileArrival (job sender pass round tile : Nat) (allSealed : Bool) (digest : BitVec 64) (bytes : List (BitVec 8))
    (s : State) : Out :=
  .next (match FMap.get? s.dockets job with
    | none => s
    | some d =>
      if d.kind ≠ 3 || d.state = 5 || d.state = 6 then s
      else
        let j := (FMap.get? s.selv.jobs job).getD (newJob job 0 [])
        let cur := if j.running then j.pass else j.pass + 1
        let m : TileMsg := ⟨sender, pass, round, tile, allSealed, digest, bytes⟩
        let dup := j.arrived.any fun x => x.pass == pass && x.round == round && x.sender == sender && x.tile == tile
        let ahead := pass == cur || (j.sub && j.running && pass == cur + 1)
        if !ahead || dup then s
        else if j.pass ≠ 0 && digest = j.digest &&
            ((round < j.round && j.running && pass == cur) || !(j.receives round).contains (sender, tile)) then s
        else ((s.putJob job { j with arrived := j.arrived ++ [m] }).wakeJob job).advanceJob job j.fuel)

/-- PEER_TIMEOUT (R58). -/
def execPeerTimeout (job : Nat) (s : State) : Out :=
  .next (match FMap.get? s.selv.jobs job with
    | none => s
    | some j => if j.running && decide (j.round ≤ j.last) then s.failJob job j.stat (some j) 2 0 else s)

/-- Jobs whose destination slot had readers go on once it has none (R60). -/
def State.retryJobs (s : State) : State :=
  s.selv.jobs.foldl (fun (s : State) x => if x.2.running && decide (x.2.last < x.2.round) then s.advanceJob x.1 1 else s) s

/-! ### Issue (R153, R154, R175) -/

/-- A Loom task's list joins a core's Loom, and its bank request the core's queue (R175). -/
def State.issueLoom (s : State) (k : Nat) (d : Docket) (core : Nat) : State :=
  let n := bf d.args 0 5
  let ok : Bool := decide (1 ≤ n ∧ n ≤ 16)
  let c := s.core core
  let l : LoomList := { addr := d.entry, part := d.part, ctx := d.ctx, wg := none, docket := some k, banks := []
                        acc := if ok then none else some ⟨[], [], []⟩, cmd := 0, step := 0, fmt := false, ended := false, code := 0 }
  let s1 := s.putCore core { c with loom := c.loom ++ [l], bankQueue := if ok then c.bankQueue ++ [(docketOwner k, n)] else c.bankQueue }
  s1.grantBanks core 17

/-- A docket is taken by an engine (R151, R153). -/
def State.takeDocket (s : State) (k : Nat) (d : Docket) (die engine : Nat) : State :=
  let s0 := if engineClass d.kind = 0 then s.passOver die (some d) else s
  let s1 := { s0 with lastHole := FMap.set s0.lastHole (4 * die + d.prio) d.hole }.startRun k d
  match d.kind with
  | 0 | 4 => s1.placeDocket k
  | 1 => s1.issueLoom k d engine
  | 3 => s1.issueJob k
  | _ => s1

/-- DOCKET_ISSUE (R154): the READY docket whose turn it is. -/
def execDocketIssue (die kind engine : Nat) (s : State) : Out :=
  .next (match s.pickDocket die kind engine with
    | none => if kind = 0 then s.passOver die none else s
    | some (k, d) => s.takeDocket k d die engine)

/-- COMPOSITING_PASS_START (R59, R154): a docket starts its pass when the Selvedge takes it. -/
def execCompositingPassStart (job : Nat) (s : State) : Out :=
  let die := job / 2 ^ 32 / 64
  .next (match s.pickDocket die 3 0 with
    | none => s
    | some (k, d) => if k = job then s.takeDocket k d die 0 else s)

/-- ISLAND_RETIRE (R15, R360): running jobs end when the Selvedge's islands go. -/
def execIslandRetire (island : Nat) (s : State) : Out :=
  let s1 := s.retireIsland island
  .next (if s.mgmt.selvDown || !s1.mgmt.selvDown then s1
    else (s1.selv.jobs.filter fun (x : Nat × Job) => x.2.running).foldl (fun (s : State) x => s.failJob x.1 x.2.stat (some x.2) 7 0) s1)

/-! ### Collectives (R61–R65) -/

/-- Key of a collective of a context. -/
def collKey (part ctx cid : Nat) : Nat := (64 * part + ctx) * 4096 + cid

/-- The entry that the staging image describes; none for BAD_ENTRY. -/
def stagedColl (v : Selv) : Option Coll :=
  let x := v.entry.toNat
  let w := fld x 0 2
  let ring := w / 2 % 2 == 1
  let p := fld x 2 1 + 1
  let n := fld x 4 4
  if w / 8 ≠ 0 || !ranksOk ring p || p ≤ fld x 3 1 || n = 0 || 2 ^ 28 < n then none
  else some
    { part := v.cpart.toNat, ctx := v.cctx.toNat, cid := v.cid.toNat, bf16 := w % 2 == 1, ring := ring, offload := w / 4 % 2 == 1
      ranks := p, me := fld x 3 1, elems := n, base := BitVec.ofNat 64 (fld x 8 8), peers := BitVec.ofNat 64 (fld x 0x10 8)
      done := BitVec.ofNat 64 (fld x 0x18 8), docket := BitVec.ofNat 64 (fld x 0x20 8), gen := 0, marks := [], busy := false
      held := [], leaving := false }

def State.setCst (s : State) (c : BitVec 3) : State := { s with selv := { s.selv with cst := c } }

/-- The packages of a peer table but this rank's own; none where it cannot be read or a reserved field of it is nonzero (log 53). -/
def State.collPeers (s : State) (c : Coll) : Option (List Nat) × State :=
  match s.readVA c.part c.ctx 2 c.peers.toNat (4 * c.ranks) with
  | (none, s1) => (none, s1)
  | (some bs, s1) => ((peersOf bs c.ranks).map fun l => (l.take c.me) ++ l.drop (c.me + 1), s1)

/-- COLLECTIVE_SETUP (R62): the checks, then the set-up messages. A peer table without use, or a full collective table, fails the set-up
(log 53). -/
def execCollectiveSetup (s : State) : Out :=
  let v := s.selv
  .next (if v.cst = 1 || s.mgmt.selvDown then s
    else
      match stagedColl v with
      | none => s.setCst 4
      | some c =>
        if (FMap.get? v.colls (collKey c.part c.ctx c.cid)).isSome then s.setCst 5
        else if 4096 ≤ v.colls.length then s.setCst 3
        else
          match s.collPeers c with
          | (none, s1) => s1.setCst 3
          | (some ps, s1) =>
            let nums := [c.cid, if c.bf16 then 1 else 0, if c.ring then 1 else 0, c.ranks, c.elems]
            { s1 with
              selv := { v with cst := 1, pend := some c }
              netOut := s1.netOut ++ ps.map fun p => ⟨p, 2, nums, []⟩ })

/-- COLLECTIVE_SETUP_DONE (R62, R65): every peer matches, or one disagrees or does not answer. `plain`: none where the collective's
traffic is encrypted, else whether the switch advertised ordered combination. An OFFLOAD that encryption rules out is counted. -/
def execCollectiveSetupDone (agreed : Bool) (plain : Option Bool) (s : State) : Out :=
  let v := s.selv
  .next (match v.pend with
    | none => s
    | some c =>
      if !agreed then { s with selv := { v with cst := 3, pend := none } }
      else
        { s with selv := { v with
            cst := 2, pend := none
            colls := FMap.set v.colls (collKey c.part c.ctx c.cid) { c with offload := c.offload && plain == some true }
            offign := if c.offload && plain.isNone then satInc v.offign else v.offign } })

/-- The entry that CID, PART and CTX name. -/
def Selv.named (v : Selv) : Nat := collKey v.cpart.toNat v.cctx.toNat v.cid.toNat

/-- COLLECTIVE_TEARDOWN (R62). -/
def execCollectiveTeardown (s : State) : Out :=
  let v := s.selv
  .next (if v.cst = 1 || s.mgmt.selvDown then s
    else
      match FMap.get? v.colls v.named with
      | none => s.setCst 6
      | some c =>
        if c.busy then { s with selv := { v with cst := 1, colls := FMap.set v.colls v.named { c with leaving := true } } }
        else { s with selv := { v with cst := 2, colls := FMap.erase v.colls v.named } })

/-- COLLECTIVE_TEARDOWN_DONE (R62): no generation is in exchange any more. -/
def execCollectiveTeardownDone (s : State) : Out :=
  let v := s.selv
  .next (match v.colls.find? fun x => x.2.leaving && !x.2.busy with
    | none => s
    | some (k, _) => { s with selv := { v with cst := 2, colls := FMap.erase v.colls k } })

/-- Bytes of an element. -/
def Coll.width (c : Coll) : Nat := if c.bf16 then 2 else 4
def Coll.ty (c : Coll) : Nat := if c.bf16 then 9 else 10

/-- A contribution as a pair (R64): bf16 is widened exactly. -/
def Coll.pair (c : Coll) (x : Nat) : BitVec 32 × BitVec 32 := (BitVec.ofNat 32 (if c.bf16 then x * 2 ^ 16 else x), 0)

/-- The result of element i from every rank's pair (R64). -/
def Coll.result (c : Coll) (i : Nat) (l : List (BitVec 32 × BitVec 32)) : Nat :=
  let y := if c.ring then
      let j := ((List.range c.ranks).find? fun j =>
        decide ((segment c.elems c.ranks j).1 ≤ i ∧ i < (segment c.elems c.ranks j).1 + (segment c.elems c.ranks j).2)).getD 0
      ringReduce j l
    else (swapReduce (Nat.log2 c.ranks) l).headD (0, 0)
  finalPair c.ty y

/-- A held store is performed: in local memory, or by its request through its window, which fails where it finds no path and is queued
where it finds no room. -/
def State.performHeld (s : State) (h : HeldStore) : State :=
  match h.req with
  | none => { s with mem := Memory.writeBytes s.mem h.pa h.bytes }
  | some q =>
    match s.emit q with
    | .sent s1 => s1
    | .noPath => s.failReq q 3 none
    | .full => { s with reqs := s.reqs ++ [q] }

/-- The elements that a held store to local memory contributes: of those that its whole store writes in full, the ones that end in its own
bytes. One through a window marks its own when its request goes out. -/
def Coll.markHeld (c : Coll) (h : HeldStore) : Coll :=
  if h.req.isSome then c else c.mark h.ext.1 h.ext.2 h.va.toNat (h.va.toNat + if h.bytes.isEmpty then 64 else h.bytes.length)

/-- The held stores are performed and counted in the next generation, until an exchange starts again (R63); exits that waited for them
complete. -/
def State.releaseHeld (s : State) (k : Nat) : List HeldStore → State
  | [] => s
  | h :: t =>
    match FMap.get? s.selv.colls k with
    | none => ((s.performHeld h).reapGang (h.path / 4096)).releaseHeld k t
    | some c =>
      if c.busy then s.putColl k { c with held := h :: t }
      else (((s.putColl k (c.markHeld h)).performHeld h).reapGang (h.path / 4096)).releaseHeld k t

/-- REDUCTION_EXCHANGE (R63, R64): the other ranks' pairs, all of them; the results, the marks, GEN, DONE, DOCKET, and the
stores held. An exchange whose elements cannot be read or written does not complete. -/
def execReductionExchange (coll : Nat) (others : List (Nat × List (BitVec 32 × BitVec 32))) (s : State) : Out :=
  .next (match FMap.get? s.selv.colls coll with
    | none => s
    | some c =>
      let n := c.elems * c.width
      let rank (r : Nat) : Option (List (BitVec 32 × BitVec 32)) := (others.find? fun x => x.1 == r && x.2.length == c.elems).map (·.2)
      if !c.busy || s.mgmt.selvDown || !((List.range c.ranks).all fun r => r == c.me || (rank r).isSome) then s
      else
        match s.readVA c.part c.ctx (n / 65536 + 2) c.base.toNat n with
        | (none, s1) => s1
        | (some bs, s1) =>
          let own := (List.range c.elems).map fun i => c.pair (leNat ((bs.drop (c.width * i)).take c.width))
          let rows := (List.range c.ranks).map fun r => if r = c.me then own else (rank r).getD []
          let out := (List.range c.elems).flatMap fun i => leBytes (c.result i (rows.map fun l => l.getD i (0, 0))) c.width
          match s1.wroteVA c.part c.ctx (n / 65536 + 2) c.base.toNat out with
          | (false, s2) => s2
          | (true, s2) =>
            let s3 := s2.putColl coll { c with marks := [], busy := false, gen := c.gen + 1, held := [] }
            let s4 := (s3.wroteVA c.part c.ctx 2 c.done.toNat (leBytes (c.gen + 1).toNat 4)).2
            let s5 := if c.docket = 0 then s4 else s4.decDep c.part c.ctx c.docket
            (s5.releaseHeld coll c.held).drainReqs)

/-! ### The borrow cache (R69, R70, R302) -/

/-- Set of a line. -/
def lineSet (ia : Nat) : Nat := ia / 256 % 8192

/-- Place a line, most recently used last; the least recently used of 16 goes. -/
def insertLine (l : List BLine) (x : BLine) : List BLine :=
  let rest := l.filter fun y => !(y.ia == x.ia && y.pkg == x.pkg && y.header == x.header)
  let same := rest.filter fun y => y.ia % 8192 == x.ia % 8192
  if same.length < 16 then rest ++ [x] else rest.erase (same.headD x) ++ [x]

/-- A postmark of a header becomes known (R69). -/
def State.learn (s : State) (pkg : Nat) (header : BitVec 64) (p : BitVec 32) : State :=
  let k := newerKey pkg header
  let old := CMap.get s.selv.newer k
  { s with selv := { s.selv with newer := CMap.set s.selv.newer k (if old.toNat < p.toNat then p else old) } }

/-- Whether a lane of a read has failed as stale already. -/
def State.staleLane (s : State) (r : BRead) : Bool :=
  (s.loadPath (r.path / 32) r.load r.lane).any fun k => (FMap.get? s.paths k).any fun p => p.loads.any fun l =>
    l.id == r.load && l.lanes.any fun y => y.lane == r.lane && y.code == 8

/-- BORROW_GATHER_RESPONSE (R69, R302): the line is cached, and the read tests the postmark returned; a read that fails counts once. -/
def execBorrowGatherResponse (id : Nat) (postmark : BitVec 32) (unwatched : Bool) (line : BitVec 2048) (s : State) : Out :=
  .next (match s.selv.reads.find? fun r => r.id == id with
    | none => s
    | some r =>
      let pkg := Config.borrowPkg r.ia
      let hdr := Config.borrowHeader r.ia
      let s1 := { s with selv := { s.selv with reads := s.selv.reads.filter fun x => x.id != id } }.learn pkg hdr postmark
      let s2 := if s1.borrowOn then
          { s1 with selv := { s1.selv with lines := insertLine s1.selv.lines ⟨pkg, r.ia / 256, hdr, postmark, unwatched, line⟩ } }
        else s1
      if postmark = r.expect && !s2.newerKnown r.ia r.expect then
        s2.laneArrived (r.path / 32) r.load r.lane r.off 0 (lineBytes line r.ia r.len)
      else (if s2.staleLane r then s2 else s2.countStale).laneArrived (r.path / 32) r.load r.lane r.off 8 0)

/-- BORROW_GATHER_TIMEOUT (R302): TIMEOUT_UNKNOWN. -/
def execBorrowGatherTimeout (id : Nat) (s : State) : Out :=
  .next (match s.selv.reads.find? fun r => r.id == id with
    | none => s
    | some r =>
      { s with selv := { s.selv with reads := s.selv.reads.filter fun x => x.id != id } }.laneArrived (r.path / 32) r.load r.lane r.off 1 0)

/-- POSTMARK_NOTICE (R70): the borrower notes the postmark and acknowledges. -/
def execPostmarkNotice (source : Nat) (header : BitVec 64) (postmark : BitVec 32) (s : State) : Out :=
  let s1 := s.learn source header postmark
  .next (if s.mgmt.selvDown then s else { s1 with netOut := s1.netOut ++ [⟨source, 9, [header.toNat], []⟩] })

/-- A notice is no longer outstanding; held POSTs go on when the paths are tested. -/
def State.dropNotice (s : State) (header borrower : Nat) : State :=
  { s with selv := { s.selv with notices := s.selv.notices.erase (header, borrower) } }

/-- NOTICE_ACK (R70); `header` is the header's key in the lender's tables. -/
def execNoticeAck (header borrower : Nat) (s : State) : Out := .next (s.dropNotice header borrower)

/-- NOTICE_TIMEOUT (R70, R85). -/
def execNoticeTimeout (header borrower : Nat) (s : State) : Out :=
  .next (if !s.selv.notices.contains (header, borrower) then s
    else
      let s1 := s.dropNotice header borrower
      ({ s1 with selv := { s1.selv with notefail := satInc s1.selv.notefail } }).notify 0 6 0 0 0)

/-- The first context of a partition that reads a header, and the header's postmark (log 21). -/
def State.lentPost (s : State) (part : Nat) (header : BitVec 64) : Option (Nat × BitVec 32) :=
  (List.range 64).findSome? fun c => (s.readHdr (.g part c header)).map fun h => (c, hPost h)

/-- BORROW_GATHER_REQUEST (R70): a borrower's gather is served and the pair recorded, unless the Selvedge has stopped
(R360); a full lender table leaves the line unwatched. -/
def execBorrowGatherRequest (borrower part : Nat) (ia : BitVec 64) (header : BitVec 64) (s : State) : Out :=
  let a := ia.toNat / 256 * 256
  .next (if s.mgmt.selvDown then s
    else
      match s.walk part a .rd, s.lentPost part header with
      | (.ok pa _ _, s1), some (c, p) =>
        let pair := (lendKey part c header, borrower)
        let known := s1.selv.lender.any fun x => x.2 == borrower && s1.lentAs part c header x.1
        let full := decide (Config.lenderPairs ≤ s1.selv.lender.length)
        let s1 := s1.walkHdr (.g part c header)
        let s2 := if known || full then s1 else { s1 with selv := { s1.selv with lender := s1.selv.lender ++ [pair] } }
        { s2 with netOut := s2.netOut ++ [⟨borrower, 7, [ia.toNat, p.toNat, if !known && full then 1 else 0], Memory.bytes s2.mem pa 256⟩] }
      | (_, s1), _ => s1)

end Sys2Proof.Machine
end

