-- ==== Sys2Proof/Machine/Debug.lean ====
section
/-! DEFINITION. The debug window's commands (spec/04_host_interface.md R88, R89, spec/10_traps_faults_preemption.md R192). -/

namespace Sys2Proof.Machine

/-- Codes of STATUS. -/
abbrev dOK : BitVec 3 := 0
abbrev dBUSY : BitVec 3 := 1
abbrev dNOTHALTED : BitVec 3 := 2
abbrev dBADSELECT : BitVec 3 := 3
abbrev dREADONLY : BitVec 3 := 4
abbrev dNOTRESIDENT : BitVec 3 := 5
abbrev dPENDING : BitVec 3 := 6

/-- Set STATUS of a context's window. -/
def State.dbgStatus (s : State) (part ctx : Nat) (c : BitVec 3) : State :=
  let x := s.ctx part ctx
  s.putCtx part ctx { x with dbg := { x.dbg with status := c } }

/-- The gang that GANG names. -/
def State.dbgGang (s : State) (part ctx : Nat) : Nat := 2 ^ 32 * ctxKey part ctx + (s.ctx part ctx).dbg.gang.toNat

/-- The path that WG, GRP, SPLIT, FRAG and FNUM name; none when it does not exist. -/
def State.dbgPath (s : State) (part ctx : Nat) : Option Run :=
  let d := (s.ctx part ctx).dbg
  if d.frag && 28 ≤ d.fnum then none
  else s.runAt (32 * (16 * (8 * s.dbgGang part ctx + d.wg) + d.grp) + (if d.frag then 4 + d.fnum else d.split))

/-- A command while STATUS is PENDING is ignored; one for a gang that does not exist gets its code. -/
def debugCmd (part ctx : Nat) (s : State) (act : Nat → Gang → State) : Out :=
  let d := (s.ctx part ctx).dbg
  .next (if d.status = dPENDING || !s.hosted part then s
    else
      match FMap.get? s.gangs (s.dbgGang part ctx) with
      | none => s.dbgStatus part ctx dBADSELECT
      | some q =>
        if q.status = 4 || q.status = 5 then s.dbgStatus part ctx dBADSELECT
        else act (s.dbgGang part ctx) q)

/-- The completion counters of every split of a gang are zero, of those that have exited too, and nothing that it has made will raise one
while it is halted (R35, R192 item 5, R347, log 101). -/
def State.counted (s : State) (gid : Nat) : Bool :=
  !(s.allReqs.any fun q => q.path / 4096 == gid && decide (q.kind < 5) && q.kind != 0 && (q.sent || q.kind != 4))

/-- Whether a gang's halt has taken effect (R89, R286, R347). -/
def State.haltedNow (s : State) (gid : Nat) (q : Gang) : Bool := q.halted && s.counted gid

/-- HALT (R89, R192): the gang stops at once; STATUS is PENDING until its counters are zero. -/
def execHalt (part ctx : Nat) (s : State) : Out :=
  debugCmd part ctx s fun gid q =>
    if q.status = 2 then s.dbgStatus part ctx dNOTRESIDENT
    else (if q.halted then s else s.haltGang gid none).dbgStatus part ctx (if s.counted gid then dOK else dPENDING)

/-- Halts that waited for their counters. -/
def State.haltsDone (s : State) : State :=
  s.ctxs.foldl (fun (s : State) x =>
    if x.2.dbg.status = dPENDING && x.2.dbg.step.isNone && s.counted (s.dbgGang (x.1 / 64) (x.1 % 64)) then
      s.dbgStatus (x.1 / 64) (x.1 % 64) dOK
    else s) s

/-- A path goes on: past its BRK, with STOP zero, or 0x23 while its gang is off its cores (R187). -/
def Path.resumed (p : Path) (aper : CMap 64) (off : Bool := false) : Path :=
  let q := if p.stop = 0x21 then p.pastSwitch aper (p.pc + 4) else p
  { q with stop := if off then 0x23 else 0 }

/-- RESUME (R89, R286); a load that met a failure while the gang was halted reports it. -/
def execResume (part ctx : Nat) (s : State) : Out :=
  debugCmd part ctx s fun gid q =>
    if !s.haltedNow gid q then s.dbgStatus part ctx dNOTHALTED
    else
      let ap := (s.ctx part ctx).aper
      let s1 := { s.putGang gid { q with halted := false } with
        paths := s.paths.map fun (x : Nat × Path) => if x.1 / 4096 = gid then (x.1, x.2.resumed ap (q.status != 0)) else x }
      let s2 := (s1.paths.filter fun (x : Nat × Path) => x.1 / 4096 == gid).foldl (fun (s : State) x =>
        (x.2.loads.filter fun l => l.hold).foldl (fun (s : State) l => s.completeLoad x.1 l.id) s) s1
      s2.dbgStatus part ctx dOK

/-! ### Registers -/

/-- A register of the window. -/
inductive DReg where
  | v (n : Nat)
  | s (n : Nat)
  | fw (n : Nat)
  | p (n : Nat)
  | gm
  | pc
  | sys (n : Nat)
deriving DecidableEq, Repr

/-- The register that REG names. -/
def dregOf (n : Nat) : Option DReg :=
  if n < 0x80 then some (.v n)
  else if n < 0xA0 then some (.s (n - 0x80))
  else if n < 0xA4 then some (.fw (n - 0xA0))
  else if 0xB0 ≤ n && n < 0xB8 then some (.p (n - 0xB0))
  else if n = 0xC0 then some .gm
  else if n = 0xC1 then some .pc
  else if 0x1000 ≤ n && sysKnown (n - 0x1000) then some (.sys (n - 0x1000))
  else none

/-- Wider than 32 bits. -/
def DReg.wide : DReg → Bool
  | .pc => true
  | .sys n => sysWide n
  | _ => false

/-- Its value. -/
def State.dread (s : State) (r : Run) (lane : Nat) : DReg → BitVec 64
  | .v n => (r.group.vreg n lane).setWidth 64
  | .s n => (r.group.sreg n).setWidth 64
  | .fw n => (r.path.latch n lane).setWidth 64
  | .p n => (r.group.pred n).setWidth 64
  | .gm => r.path.gm.setWidth 64
  | .pc => r.path.pc
  | .sys n => s.sysRead r n

/-- Bits that no write may change: RO fields. -/
def DReg.fixed : DReg → BitVec 64
  | .sys n =>
    if n = 0x002 then 0xFFFE0000 else if n = 0x003 then 0xFFFFE000 else if n = 0x004 then 0xFFFF8000
    else if n = 0x00A then 0xFFFFFF80 else if n = 0x030 then 0xFFFFFFFC
    else if 0x010 ≤ n && n ≤ 0x017 then 0xF800000000000000 else 0
  | _ => 0

/-- p0 and the RO system registers. -/
def DReg.readOnly : DReg → Bool
  | .p 0 => true
  | .sys n => sysAccess n == 2
  | _ => false

/-- Whether a load in flight writes the register in this lane. -/
def Load.targets (l : Load) (lane : Nat) : DReg → Bool
  | .v n => l.wr && l.lanes.any fun x => x.lane == lane && decide (x.reg ≤ n ∧ n < x.reg + x.nreg) && !x.skip.contains n
  | .p n => l.status && !l.mute && n == 7
  | .sys n => l.status && !l.mute && n == 3
  | _ => false

/-- The register is the target of a load in flight of the group, LSTAT of one of the path. -/
def State.dbusy (s : State) (r : Run) (lane : Nat) (d : DReg) : Bool :=
  (s.pathsOf r.gk).any fun x => (x.1 == r.key || (match d with | .sys _ => false | _ => true)) && x.2.loads.any fun l => l.targets lane d

/-- Write a register; a latch is then live in the lane (R234); a gm that is not accepted is left unchanged. -/
def State.dwrite (s : State) (r : Run) (lane : Nat) (x : BitVec 64) : DReg → State
  | .v n => s.putGroup r.gk { r.group with v := CMap.set r.group.v (32 * n + lane) (x.setWidth 32) }
  | .s n => s.putGroup r.gk { r.group with s := CMap.set r.group.s n (x.setWidth 32) }
  | .fw n => s.putPath r.key { r.path with
      fw := CMap.set r.path.fw (32 * n + lane) (x.setWidth 32), live := CMap.set r.path.live n (CMap.get r.path.live n ||| 1#32 <<< lane) }
  | .p n => s.putGroup r.gk { r.group with p := CMap.set r.group.p n (x.setWidth 32) }
  | .gm => if gmOk (x.setWidth 32) then s.putPath r.key { r.path with gm := x.setWidth 32 } else s
  | .pc => s.putPath r.key { r.path with pc := x }
  | .sys n => if n = 1 && !gmOk (x.setWidth 32) then s else s.sysWrite r r.path n x

/-- A load's writeback to the register is cancelled. -/
def Load.cancel (l : Load) (lane : Nat) : DReg → Load
  | .v n => { l with lanes := l.lanes.map fun x => if x.lane = lane then { x with skip := x.skip ++ [n] } else x }
  | _ => { l with mute := true }

/-- Cancel the writebacks of the loads that target a register. -/
def State.cancelLoads (s : State) (r : Run) (lane : Nat) (d : DReg) : State :=
  { s with paths := s.paths.map fun (x : Nat × Path) =>
      if x.1 / 32 = r.gk then
        (x.1, { x.2 with loads := x.2.loads.map fun l => if l.targets lane d = true then l.cancel lane d else l })
      else x }

/-- The selected register of a halted gang: the path, lane, register and word, or STATUS. -/
def State.dbgSelect (s : State) (part ctx : Nat) (q : Gang) : Except (BitVec 3) (Run × Nat × DReg × Nat) :=
  let d := (s.ctx part ctx).dbg
  if !s.haltedNow (s.dbgGang part ctx) q then .error dNOTHALTED
  else
    match s.dbgPath part ctx, dregOf d.reg with
    | some r, some x =>
      if 2 ≤ d.word || (d.word = 1 && !x.wide) then .error dBADSELECT else .ok (r, d.lane, x, d.word)
    | _, _ => .error dBADSELECT

/-- READ (R89). -/
def execRead (part ctx : Nat) (s : State) : Out :=
  debugCmd part ctx s fun _ q =>
    match s.dbgSelect part ctx q with
    | .error c => s.dbgStatus part ctx c
    | .ok (r, lane, x, w) =>
      if s.dbusy r lane x then s.dbgStatus part ctx dBUSY
      else
        let c := s.ctx part ctx
        s.putCtx part ctx { c with dbg := { c.dbg with data := BitVec.ofNat 32 (bf (s.dread r lane x) (32 * w) 32), status := dOK } }

/-- WRITE and FORCE (R89): the checks, then the word. -/
def debugWrite (part ctx : Nat) (force : Bool) (s : State) : Out :=
  debugCmd part ctx s fun _ q =>
    match s.dbgSelect part ctx q with
    | .error c => s.dbgStatus part ctx c
    | .ok (r, lane, x, w) =>
      let data := (s.ctx part ctx).dbg.data
      let old := s.dread r lane x
      let new := setF old (32 * w) 32 data.toNat
      if w = 0 && (x == .pc || x == .sys 5) && data.toNat % 4 ≠ 0 then s.dbgStatus part ctx dBADSELECT
      else if x.readOnly || (old ^^^ new) &&& x.fixed ≠ 0 then s.dbgStatus part ctx dREADONLY
      else if s.dbusy r lane x && !force then s.dbgStatus part ctx dBUSY
      else
        let s1 := s.dwrite r lane new x
        (if force then s1.cancelLoads r lane x else s1).dbgStatus part ctx dOK

/-- WRITE (R89). -/
def execWrite (part ctx : Nat) (s : State) : Out := debugWrite part ctx false s
/-- FORCE (R89). -/
def execForce (part ctx : Nat) (s : State) : Out := debugWrite part ctx true s

/-- STEP (R89): STATUS is PENDING until the machine has run one instruction of the path. A path that waits has none to
run: the command has then taken effect. A path stopped at BRK steps from the instruction after it. -/
def execStep (part ctx : Nat) (s : State) : Out :=
  debugCmd part ctx s fun gid q =>
    if !s.haltedNow gid q then s.dbgStatus part ctx dNOTHALTED
    else
      match s.dbgPath part ctx with
      | none => s.dbgStatus part ctx dBADSELECT
      | some r =>
        let c := s.ctx part ctx
        if r.path.wait == .ready || r.path.wait == .retry then
          (s.putCtx part ctx { c with dbg := { c.dbg with status := dPENDING, step := some r.key } }).putPath r.key
            (r.path.resumed c.aper)
        else s.dbgStatus part ctx dOK

/-- The path that a STEP runs, with its context: once its gang is on its cores, or at once where the path is gone. -/
def State.stepping (s : State) : Option (Nat × Nat) :=
  s.ctxs.findSome? fun x => (x.2.dbg.step.filter fun k => match FMap.get? s.gangs (k / 4096) with
    | some q => (q.status == 0 && x.2.swapst == 0 && !s.onDraining (k / 4096) q && !s.mgmt.needsReset) || (FMap.get? s.paths k).isNone
    | none => true).map fun k => (x.1, k)

/-- The end of a STEP: the path is halted again, out of a PAUSE (R338); STATUS is PENDING until the gang's counters are zero (R35). -/
def State.endStep (s : State) (ck : Nat) : State :=
  let c := s.ctx (ck / 64) (ck % 64)
  match c.dbg.step with
  | none => s
  | some k =>
    let s1 := s.putCtx (ck / 64) (ck % 64)
      { c with dbg := { c.dbg with status := if s.counted (k / 4096) then dOK else dPENDING, step := none } }
    s1.modPath k fun p => { p.unpaused c.aper with stop := if p.stop = 0x21 then 0x21 else 0x23 }

end Sys2Proof.Machine
end

