-- ==== Sys2Proof/Machine/FloatOps.lean ====
section
/-! DEFINITION. Float and conversion instructions (spec/15_float_and_convert.md R261–R272). -/

namespace Sys2Proof.Machine

/-- Every element by a float operation on the elements of a, b and d (R261). -/
def Run.fltMap (r : Run) (a b : BitVec 8) (d L : Nat) (op : Fmt → Rnd → Nat → Nat → Nat → Nat × Flags) : BitVec 64 × Flags :=
  packElems r.T fun k =>
    op (fmtOf r.T) (gmRnd r.path.gm) (elemU r.T (r.src r.T a L) k) (elemU r.T (r.src r.T b L) k)
      (elemU r.T (r.dval r.T d L) k)

/-! ### Correctly rounded arithmetic (R262, R263) -/

/-- FADD (R262). -/
def execFadd (w : BitVec 1) (d : BitVec 7) (a b : BitVec 8) (s : State) : Out :=
  vOp (.fadd w d a b) s accFloat fun r L => r.fltMap a b d.toNat L fun f n x y _ => f.addOp n false x y
/-- FSUB (R262). -/
def execFsub (w : BitVec 1) (d : BitVec 7) (a b : BitVec 8) (s : State) : Out :=
  vOp (.fsub w d a b) s accFloat fun r L => r.fltMap a b d.toNat L fun f n x y _ => f.addOp n true x y
/-- FMUL (R262). -/
def execFmul (w : BitVec 1) (d : BitVec 7) (a b : BitVec 8) (s : State) : Out :=
  vOp (.fmul w d a b) s accFloat fun r L => r.fltMap a b d.toNat L fun f n x y _ => f.mulOp n x y
/-- FFMA (R262): D is the addend, one rounding. -/
def execFfma (w : BitVec 1) (d : BitVec 7) (a b : BitVec 8) (s : State) : Out :=
  vOp (.ffma w d a b) s accFloat fun r L => r.fltMap a b d.toNat L fun f n x y z => f.fmaOp n false false x y z
/-- FFMS (R262): a·b − d. -/
def execFfms (w : BitVec 1) (d : BitVec 7) (a b : BitVec 8) (s : State) : Out :=
  vOp (.ffms w d a b) s accFloat fun r L => r.fltMap a b d.toNat L fun f n x y z => f.fmaOp n false true x y z
/-- FNMA (R262): −(a·b) + d. -/
def execFnma (w : BitVec 1) (d : BitVec 7) (a b : BitVec 8) (s : State) : Out :=
  vOp (.fnma w d a b) s accFloat fun r L => r.fltMap a b d.toNat L fun f n x y z => f.fmaOp n true false x y z
/-- FDIV (R262). -/
def execFdiv (w : BitVec 1) (d : BitVec 7) (a b : BitVec 8) (s : State) : Out :=
  vOp (.fdiv w d a b) s accFloat fun r L => r.fltMap a b d.toNat L fun f n x y _ => f.divOp n x y
/-- FSQRT (R262). -/
def execFsqrt (w : BitVec 1) (d : BitVec 7) (a : BitVec 8) (s : State) : Out :=
  vOp (.fsqrt w d a) s accFloat fun r L => r.fltMap a 0xA4 d.toNat L fun f n x _ _ => f.sqrtOp n x

/-! ### Minimum, maximum, sign (R264) -/

/-- FMIN (R264). -/
def execFmin (w : BitVec 1) (d : BitVec 7) (a b : BitVec 8) (s : State) : Out :=
  vOp (.fmin w d a b) s accFloat fun r L => r.fltMap a b d.toNat L fun f n x y _ => (f.minMaxOp n.ftz false x y, 0)
/-- FMAX (R264). -/
def execFmax (w : BitVec 1) (d : BitVec 7) (a b : BitVec 8) (s : State) : Out :=
  vOp (.fmax w d a b) s accFloat fun r L => r.fltMap a b d.toNat L fun f n x y _ => (f.minMaxOp n.ftz true x y, 0)
/-- FABS (R264): the sign bit cleared, on bits alone. -/
def execFabs (w : BitVec 1) (d : BitVec 7) (a : BitVec 8) (s : State) : Out :=
  vOp (.fabs w d a) s accFloat fun r L => r.fltMap a 0xA4 d.toNat L fun f _ x _ _ => (x % f.signBit, 0)
/-- FNEG (R264): the sign bit inverted, on bits alone. -/
def execFneg (w : BitVec 1) (d : BitVec 7) (a : BitVec 8) (s : State) : Out :=
  vOp (.fneg w d a) s accFloat fun r L => r.fltMap a 0xA4 d.toNat L fun f _ x _ _ =>
    (if f.signBit ≤ x then x - f.signBit else x + f.signBit, 0)

/-! ### Approximating functions (R265, R266) -/

/-- The class of the six: f64 is ILLEGAL. -/
def accApprox (t : Nat) : Bool := decide (8 ≤ t) && decide (t ≤ 10)

/-- An approximating function of opcode `op` on every element. -/
def approxMap (i : Sys2Proof.Instr) (op : Nat) (a : BitVec 8) (s : State) : Out :=
  vOp i s accApprox fun r L =>
    packElems r.T fun k => approxOp op r.T (gmRnd r.path.gm) r.path.gm (elemU r.T (r.src r.T a L) k)

/-- FRCP (R265). -/
def execFrcp (w : BitVec 1) (d : BitVec 7) (a : BitVec 8) (s : State) : Out := approxMap (.frcp w d a) 0x5A a s
/-- FRSQ (R265). -/
def execFrsq (w : BitVec 1) (d : BitVec 7) (a : BitVec 8) (s : State) : Out := approxMap (.frsq w d a) 0x5B a s
/-- FEXP2 (R265). -/
def execFexp2 (w : BitVec 1) (d : BitVec 7) (a : BitVec 8) (s : State) : Out := approxMap (.fexp2 w d a) 0x5E a s
/-- FLOG2 (R265). -/
def execFlog2 (w : BitVec 1) (d : BitVec 7) (a : BitVec 8) (s : State) : Out := approxMap (.flog2 w d a) 0x5F a s
/-- FSINP (R265). -/
def execFsinp (w : BitVec 1) (d : BitVec 7) (a : BitVec 8) (s : State) : Out := approxMap (.fsinp w d a) 0x60 a s
/-- FCOSP (R265). -/
def execFcosp (w : BitVec 1) (d : BitVec 7) (a : BitVec 8) (s : State) : Out := approxMap (.fcosp w d a) 0x61 a s

/-! ### Parts of a number (R267–R269) -/

/-- FFLR (R267). -/
def execFflr (w : BitVec 1) (d : BitVec 7) (a : BitVec 8) (s : State) : Out :=
  vOp (.fflr w d a) s accFloat fun r L => r.fltMap a 0xA4 d.toNat L fun f n x _ _ => (f.integral n.ftz 3 x, 0)
/-- FCEIL (R267). -/
def execFceil (w : BitVec 1) (d : BitVec 7) (a : BitVec 8) (s : State) : Out :=
  vOp (.fceil w d a) s accFloat fun r L => r.fltMap a 0xA4 d.toNat L fun f n x _ _ => (f.integral n.ftz 2 x, 0)
/-- FRND (R267). -/
def execFrnd (w : BitVec 1) (d : BitVec 7) (a : BitVec 8) (s : State) : Out :=
  vOp (.frnd w d a) s accFloat fun r L => r.fltMap a 0xA4 d.toNat L fun f n x _ _ => (f.integral n.ftz n.rm x, 0)
/-- FFRC (R267). -/
def execFfrc (w : BitVec 1) (d : BitVec 7) (a : BitVec 8) (s : State) : Out :=
  vOp (.ffrc w d a) s accFloat fun r L => r.fltMap a 0xA4 d.toNat L fun f n x _ _ => f.fracOp n x
/-- FCLS (R268). -/
def execFcls (w : BitVec 1) (d : BitVec 7) (a : BitVec 8) (s : State) : Out :=
  vOp (.fcls w d a) s accFloat fun r L => r.fltMap a 0xA4 d.toNat L fun f _ x _ _ => (f.classOp x, 0)
/-- FSCL (R269): b holds a two's-complement integer of the element's width. -/
def execFscl (w : BitVec 1) (d : BitVec 7) (a b : BitVec 8) (s : State) : Out :=
  vOp (.fscl w d a b) s accFloat fun r L => r.fltMap a b d.toNat L fun f n x y _ => f.scaleOp n x (toSigned (tyBits r.T) y)
/-- FGETE (R269). -/
def execFgete (w : BitVec 1) (d : BitVec 7) (a : BitVec 8) (s : State) : Out :=
  vOp (.fgete w d a) s accFloat fun r L => r.fltMap a 0xA4 d.toNat L fun f n x _ _ => f.getExp n x

/-- FDOT2's lane (R270): c + x0·y0 + x1·y1 exactly, rounded once to f32 under gm. -/
def dot2 (f : Fmt) (n : Rnd) (c : Nat) (ab : List (Nat × Nat)) : Nat × Flags :=
  let (isNan, invalid, v) := dotExact n.rm (fmtF32.read n.ftz c) (ab.map fun x => (f.read n.ftz x.1, f.read n.ftz x.2))
  if isNan then (fmtF32.nan, 0) else if invalid then (fmtF32.nan, fNV) else fmtF32.round n v

/-- FDOT2 (R270). -/
def execFdot2 (w : BitVec 1) (d : BitVec 7) (a b : BitVec 8) (s : State) : Out :=
  vOp (.fdot2 w d a b) s (fun t => t == 8 || t == 9) fun r L =>
    packElems 10 fun _ =>
      dot2 (fmtOf r.T) (gmRnd r.path.gm) (r.group.vreg d.toNat L).toNat
        ((List.range 2).map fun k => (elemU r.T (r.src r.T a L) k, elemU r.T (r.src r.T b L) k))

/-! ### Conversions (R271, R272) -/

/-- Element k of a source of type s as a value; q4x with scale byte 0x7F and its FMT flag (R271). -/
def convElem (s : Nat) (ftz : Bool) (x : BitVec 64) (k : Nat) : CSrc × Flags :=
  if s = 14 then
    let v := q4xVal (fun j => bf x (4 * j) 4) 0x7F k
    (.flt v.1, if v.2 then fFMT else 0)
  else (convSrc s ftz (elemU s x k), 0)

/-- One element converted from gm.S to gm.T (R124). -/
def Run.conv1 (r : Run) (x : BitVec 64) (k : Nat) : Nat × Flags :=
  let c := convElem (gmS r.path.gm) (gmRnd r.path.gm).ftz x k
  let y := convert (gmRnd r.path.gm) r.T c.1
  (y.1, y.2 ||| c.2)

/-- A conversion: S 0–14, T 0–13, pairs by S and by T, a condition on the element counts. -/
def convOp (i : Sys2Proof.Instr) (s : State) (counts : Nat → Nat → Bool) (f : Run → Nat → BitVec 64 × Flags) : Out :=
  vOpW i s
    (fun r => decide (r.T ≤ 13) && decide (gmS r.path.gm ≤ 14) && counts (tyElems (gmS r.path.gm)) (tyElems r.T))
    (fun r => (tyIs64 r.T, tyIs64 (gmS r.path.gm), tyIs64 (gmS r.path.gm))) f

/-- CVT (R271). -/
def execCvt (w : BitVec 1) (d : BitVec 7) (a : BitVec 8) (s : State) : Out :=
  convOp (.cvt w d a) s (fun ns nt => ns == nt) fun r L =>
    packElems r.T fun k => r.conv1 (r.src (gmS r.path.gm) a L) k
/-- CVPK (R272). -/
def execCvpk (w : BitVec 1) (d : BitVec 7) (a b : BitVec 8) (s : State) : Out :=
  convOp (.cvpk w d a b) s (fun ns nt => decide (ns < nt)) fun r L =>
    let n := tyElems (gmS r.path.gm)
    packElems r.T fun k =>
      if k < n then r.conv1 (r.src (gmS r.path.gm) a L) k
      else if k < 2 * n then r.conv1 (r.src (gmS r.path.gm) b L) (k - n)
      else (elemU r.T (r.dval r.T d.toNat L) (k - 2 * n), 0)
/-- CVLO (R271). -/
def execCvlo (w : BitVec 1) (d : BitVec 7) (a : BitVec 8) (s : State) : Out :=
  convOp (.cvlo w d a) s (fun ns nt => decide (nt < ns)) fun r L =>
    packElems r.T fun k => r.conv1 (r.src (gmS r.path.gm) a L) k
/-- CVHI (R271). -/
def execCvhi (w : BitVec 1) (d : BitVec 7) (a : BitVec 8) (s : State) : Out :=
  convOp (.cvhi w d a) s (fun ns nt => decide (nt < ns)) fun r L =>
    packElems r.T fun k => r.conv1 (r.src (gmS r.path.gm) a L) (k + tyElems (gmS r.path.gm) / 2)

end Sys2Proof.Machine
end

