-- ==== Sys2Proof/Machine/Integer.lean ====
section
/-! DEFINITION. Basic and integer instructions (spec/14_integer_and_lane.md R243–R253). -/

namespace Sys2Proof.Machine

/-! ### Basic (R243–R245) -/

/-- NOP (R243): nothing but the pc. -/
def execNop (s : State) : Out :=
  withRun s fun r => checked s r (r.legal .nop accAny false false false) 0 fun _ =>
    .next (s.putPath r.key r.path.past)

/-- MODE (R236): gm[18:0] ← imm[18:0]. -/
def execMode (i : BitVec 19) (s : State) : Out :=
  withRun s fun r => checked s r (r.legal (.mode i) accAny false false false) 0 fun _ =>
    .next (s.putPath r.key { r.path.past with gm := r.path.gm.extractLsb' 19 13 ++ i })

/-- MSHAPE (R236): gm[26:19] ← imm[7:0]. -/
def execMshape (m : BitVec 2) (n : BitVec 6) (s : State) : Out :=
  withRun s fun r => checked s r (r.legal (.mshape m n) accAny false false false) 0 fun _ =>
    .next (s.putPath r.key { r.path.past with gm := 0#5 ++ m ++ n ++ r.path.gm.extractLsb' 0 19 })

/-- LIT (R244): the sign-extended immediate into fw0. -/
def execLit (i : BitVec 24) (s : State) : Out :=
  withRun s fun r => checked s r (r.legal (.lit i) accAny false false false) 0 fun _ =>
    .next (s.putPath r.key (r.path.shift1 r.active fun _ => i.signExtend 32).past)

/-- LITH (R244): the upper half of fw0 in place. -/
def execLith (i : BitVec 16) (s : State) : Out :=
  withRun s fun r =>
    checked s r (r.legal (.lith i) accAny false false false) (r.active &&& ~~~(CMap.get r.path.live 0)) fun _ =>
      .next (s.putPath r.key { r.path.past with
        fw := CMap.setMany r.path.fw ((lanesOf r.active).map fun L => (L, i ++ (r.path.latch 0 L).extractLsb' 0 16)) })

/-- MOV (R243). -/
def execMov (w : BitVec 1) (d : BitVec 7) (a : BitVec 8) (s : State) : Out :=
  vOp (.mov w d a) s accAny fun r L => (r.src r.T a L, 0)

/-- MOVS (R245): the lowest ACTIVE lane's value. -/
def execMovs (w : BitVec 1) (d : BitVec 7) (a : BitVec 8) (s : State) : Out :=
  sOpW (.movs w d a) s (fun r => accAny r.T) (fun r => (tyIs64 r.T, tyIs64 r.T)) fun r =>
    (r.src r.T a (lowLane r.active), 0)

/-- SEL (R245): element by element, by the old bits of D. -/
def execSel (w : BitVec 1) (d : BitVec 7) (a b : BitVec 8) (s : State) : Out :=
  vOp (.sel w d a b) s accAny fun r L =>
    packElems r.T fun k =>
      (if elemU r.T (r.dval r.T d.toNat L) k ≠ 0 then elemU r.T (r.src r.T a L) k else elemU r.T (r.src r.T b L) k, 0)

/-! ### Integer arithmetic (R246, R247) -/

/-- One element's result: clamped under SAT where the instruction saturates, else wrapped (R115, R246). -/
def narrowInt (sat : Bool) (t : Nat) (e : Int) : Nat × Flags :=
  if sat then (wrapTo (tyBits t) (clampTo t e), if clampTo t e = e then 0 else fSAT) else (wrapTo (tyBits t) e, 0)

/-- Every element by an exact integer operation on the elements of a, b and d (R246). -/
def Run.intMap (r : Run) (saturates : Bool) (a b : BitVec 8) (d L : Nat) (op : Int → Int → Int → Int) : BitVec 64 × Flags :=
  packElems r.T fun k =>
    narrowInt (saturates && gmSat r.path.gm) r.T
      (op (intVal r.T (elemU r.T (r.src r.T a L) k)) (intVal r.T (elemU r.T (r.src r.T b L) k))
        (intVal r.T (elemU r.T (r.dval r.T d L) k)))

/-- Every element by an operation on bit patterns (R248, R249). -/
def Run.bitMap (r : Run) (a b : BitVec 8) (L : Nat) (op : Nat → Nat → Nat) : BitVec 64 × Flags :=
  packElems r.T fun k => (op (elemU r.T (r.src r.T a L) k) (elemU r.T (r.src r.T b L) k), 0)

/-- ADD (R247). -/
def execAdd (w : BitVec 1) (d : BitVec 7) (a b : BitVec 8) (s : State) : Out :=
  vOp (.add w d a b) s accInt fun r L => r.intMap true a b d.toNat L fun x y _ => x + y

/-- SUB (R247). -/
def execSub (w : BitVec 1) (d : BitVec 7) (a b : BitVec 8) (s : State) : Out :=
  vOp (.sub w d a b) s accInt fun r L => r.intMap true a b d.toNat L fun x y _ => x - y

/-- MUL (R247). -/
def execMul (w : BitVec 1) (d : BitVec 7) (a b : BitVec 8) (s : State) : Out :=
  vOp (.mul w d a b) s accInt fun r L => r.intMap true a b d.toNat L fun x y _ => x * y

/-- MULH (R247): the high half of the product; never saturates. -/
def execMulh (w : BitVec 1) (d : BitVec 7) (a b : BitVec 8) (s : State) : Out :=
  vOp (.mulh w d a b) s accInt fun r L => r.intMap false a b d.toNat L fun x y _ => x * y / 2 ^ tyBits r.T

/-- MAD (R247). -/
def execMad (w : BitVec 1) (d : BitVec 7) (a b : BitVec 8) (s : State) : Out :=
  vOp (.mad w d a b) s accInt fun r L => r.intMap true a b d.toNat L fun x y z => x * y + z

/-- MIN (R247). -/
def execMin (w : BitVec 1) (d : BitVec 7) (a b : BitVec 8) (s : State) : Out :=
  vOp (.min w d a b) s accInt fun r L => r.intMap false a b d.toNat L fun x y _ => min x y

/-- MAX (R247). -/
def execMax (w : BitVec 1) (d : BitVec 7) (a b : BitVec 8) (s : State) : Out :=
  vOp (.max w d a b) s accInt fun r L => r.intMap false a b d.toNat L fun x y _ => max x y

/-- ABS (R247). -/
def execAbs (w : BitVec 1) (d : BitVec 7) (a : BitVec 8) (s : State) : Out :=
  vOp (.abs w d a) s accInt fun r L => r.intMap true a 0xA4 d.toNat L fun x _ _ => x.natAbs

/-- NEG (R247). -/
def execNeg (w : BitVec 1) (d : BitVec 7) (a : BitVec 8) (s : State) : Out :=
  vOp (.neg w d a) s accInt fun r L => r.intMap true a 0xA4 d.toNat L fun x _ _ => -x

/-! ### Logic and shifts (R248, R249) -/

/-- AND (R248). -/
def execAnd (w : BitVec 1) (d : BitVec 7) (a b : BitVec 8) (s : State) : Out :=
  vOp (.and w d a b) s accInt fun r L => r.bitMap a b L fun x y => x &&& y

/-- OR (R248). -/
def execOr (w : BitVec 1) (d : BitVec 7) (a b : BitVec 8) (s : State) : Out :=
  vOp (.or w d a b) s accInt fun r L => r.bitMap a b L fun x y => x ||| y

/-- XOR (R248). -/
def execXor (w : BitVec 1) (d : BitVec 7) (a b : BitVec 8) (s : State) : Out :=
  vOp (.xor w d a b) s accInt fun r L => r.bitMap a b L fun x y => x ^^^ y

/-- ANDN (R248). -/
def execAndn (w : BitVec 1) (d : BitVec 7) (a b : BitVec 8) (s : State) : Out :=
  vOp (.andn w d a b) s accInt fun r L => r.bitMap a b L fun x y => x &&& (2 ^ tyBits r.T - 1 - y)

/-- NOT (R248). -/
def execNot (w : BitVec 1) (d : BitVec 7) (a : BitVec 8) (s : State) : Out :=
  vOp (.not w d a) s accInt fun r L => r.bitMap a 0xA4 L fun x _ => 2 ^ tyBits r.T - 1 - x

/-- SHL (R248). -/
def execShl (w : BitVec 1) (d : BitVec 7) (a b : BitVec 8) (s : State) : Out :=
  vOp (.shl w d a b) s accInt fun r L => r.bitMap a b L fun x n => if tyBits r.T ≤ n then 0 else x * 2 ^ n

/-- SHR (R248): zeros in whatever the signedness. -/
def execShr (w : BitVec 1) (d : BitVec 7) (a b : BitVec 8) (s : State) : Out :=
  vOp (.shr w d a b) s accInt fun r L => r.bitMap a b L fun x n => if tyBits r.T ≤ n then 0 else x / 2 ^ n

/-- SAR (R248): a as two's complement. -/
def execSar (w : BitVec 1) (d : BitVec 7) (a b : BitVec 8) (s : State) : Out :=
  vOp (.sar w d a b) s accInt fun r L => r.bitMap a b L fun x n => wrapTo (tyBits r.T) (toSigned (tyBits r.T) x / 2 ^ min n (tyBits r.T))

/-- ROT (R248): left by n mod w. -/
def execRot (w : BitVec 1) (d : BitVec 7) (a b : BitVec 8) (s : State) : Out :=
  vOp (.rot w d a b) s accInt fun r L => r.bitMap a b L fun x n => x * 2 ^ (n % tyBits r.T) ||| x / 2 ^ (tyBits r.T - n % tyBits r.T)

/-- The number of leading zeros of a w-bit pattern. -/
def clzW (w x : Nat) : Nat := if x = 0 then w else w - 1 - Nat.log2 x
/-- The number of one bits. -/
def popW (w x : Nat) : Nat := ((List.range w).filter fun i => x.testBit i).length
/-- The pattern with its bits in reverse order. -/
def revW (w x : Nat) : Nat := (List.range w).foldl (fun a i => a + if x.testBit i then 2 ^ (w - 1 - i) else 0) 0
/-- The number of trailing zeros. -/
def ctzW (w x : Nat) : Nat := clzW w (revW w x)
/-- The pattern with its bytes in reverse order. -/
def bswapW (w x : Nat) : Nat :=
  (List.range (w / 8)).foldl (fun a j => a + x / 2 ^ (8 * j) % 256 * 2 ^ (w - 8 - 8 * j)) 0

/-- CLZ (R249). -/
def execClz (w : BitVec 1) (d : BitVec 7) (a : BitVec 8) (s : State) : Out :=
  vOp (.clz w d a) s accInt fun r L => r.bitMap a 0xA4 L fun x _ => clzW (tyBits r.T) x

/-- CTZ (R249). -/
def execCtz (w : BitVec 1) (d : BitVec 7) (a : BitVec 8) (s : State) : Out :=
  vOp (.ctz w d a) s accInt fun r L => r.bitMap a 0xA4 L fun x _ => ctzW (tyBits r.T) x

/-- POPC (R249). -/
def execPopc (w : BitVec 1) (d : BitVec 7) (a : BitVec 8) (s : State) : Out :=
  vOp (.popc w d a) s accInt fun r L => r.bitMap a 0xA4 L fun x _ => popW (tyBits r.T) x

/-- BREV (R249). -/
def execBrev (w : BitVec 1) (d : BitVec 7) (a : BitVec 8) (s : State) : Out :=
  vOp (.brev w d a) s accInt fun r L => r.bitMap a 0xA4 L fun x _ => revW (tyBits r.T) x

/-- BSWAP (R249). -/
def execBswap (w : BitVec 1) (d : BitVec 7) (a : BitVec 8) (s : State) : Out :=
  vOp (.bswap w d a) s accInt fun r L => r.bitMap a 0xA4 L fun x _ => bswapW (tyBits r.T) x

/-! ### Fields, addresses, dot products, packing (R250–R253) -/

/-- The field of BFX and BFI: position and length, kept within w bits (R250). -/
def bfField (w : Nat) (y : BitVec 64) : Nat × Nat :=
  let pos := min (bf y 0 8) w
  (pos, min (bf y 8 8) (w - pos))

/-- BFX (R250). -/
def execBfx (w : BitVec 1) (d : BitVec 7) (a b : BitVec 8) (s : State) : Out :=
  vOp (.bfx w d a b) s accWord fun r L =>
    let (pos, len) := bfField (tyBits r.T) (r.src r.T b L)
    let f := bf (r.src r.T a L) pos len
    packElems r.T fun _ => (if len = 0 then 0 else if tyIsI r.T then wrapTo (tyBits r.T) (toSigned len f) else f, 0)

/-- BFI (R250): D is the base. -/
def execBfi (w : BitVec 1) (d : BitVec 7) (a b : BitVec 8) (s : State) : Out :=
  vOp (.bfi w d a b) s accWord fun r L =>
    let (pos, len) := bfField (tyBits r.T) (r.src r.T b L)
    (setF (r.dval r.T d.toNat L) pos len (bf (r.src r.T a L) 0 len), 0)

/-- LEA (R251): x + y · 2^m; B is always one 32-bit source, sign-extended for i64. -/
def leaOp (i : Sys2Proof.Instr) (m : Nat) (a b : BitVec 8) (s : State) : Out :=
  vOpW i s (fun r => accWord r.T) (fun r => (tyIs64 r.T, tyIs64 r.T, false)) fun r L =>
    let y : BitVec 64 := if r.T = 7 then (r.src32 b L).signExtend 64 else (r.src32 b L).setWidth 64
    packElems r.T fun _ => ((r.src r.T a L).toNat + y.toNat * 2 ^ m, 0)

/-- LEA1 (R251). -/
def execLea1 (w : BitVec 1) (d : BitVec 7) (a b : BitVec 8) (s : State) : Out := leaOp (.lea1 w d a b) 1 a b s
/-- LEA2 (R251). -/
def execLea2 (w : BitVec 1) (d : BitVec 7) (a b : BitVec 8) (s : State) : Out := leaOp (.lea2 w d a b) 2 a b s
/-- LEA3 (R251). -/
def execLea3 (w : BitVec 1) (d : BitVec 7) (a b : BitVec 8) (s : State) : Out := leaOp (.lea3 w d a b) 3 a b s
/-- LEA4 (R251). -/
def execLea4 (w : BitVec 1) (d : BitVec 7) (a b : BitVec 8) (s : State) : Out := leaOp (.lea4 w d a b) 4 a b s

/-- ABSD (R247): |a − b| as an unsigned value; never saturates. -/
def execAbsd (w : BitVec 1) (d : BitVec 7) (a b : BitVec 8) (s : State) : Out :=
  vOp (.absd w d a b) s accInt fun r L => r.intMap false a b d.toNat L fun x y _ => (x - y).natAbs

/-- AVG (R247). -/
def execAvg (w : BitVec 1) (d : BitVec 7) (a b : BitVec 8) (s : State) : Out :=
  vOp (.avg w d a b) s accInt fun r L => r.intMap false a b d.toNat L fun x y _ => (x + y + 1) / 2

/-- Fields of n bits of a word, signed or not. -/
def fieldsOf (n : Nat) (signed : Bool) (x : BitVec 64) : List Int :=
  (List.range (32 / n)).map fun k => if signed then toSigned n (bf x (n * k) n) else (bf x (n * k) n : Nat)

/-- DOT4 and DOTQ (R252): d + Σ a·b into one 32-bit value. -/
def dotInt (i : Sys2Proof.Instr) (n : Nat) (d : BitVec 7) (a b : BitVec 8) (s : State) : Out :=
  vOp i s (fun t => t == 0 || t == 4) fun r L =>
    let sg := r.T == 4
    let t := if sg then 6 else 2
    let e := ((fieldsOf n sg (r.src r.T a L)).zip (fieldsOf n sg (r.src r.T b L))).foldl (fun c x => c + x.1 * x.2)
      (intVal t (r.dval r.T d.toNat L).toNat)
    packElems t fun _ => narrowInt (gmSat r.path.gm) t e

/-- DOT4 (R252). -/
def execDot4 (w : BitVec 1) (d : BitVec 7) (a b : BitVec 8) (s : State) : Out := dotInt (.dot4 w d a b) 8 d a b s
/-- DOTQ (R252). -/
def execDotq (w : BitVec 1) (d : BitVec 7) (a b : BitVec 8) (s : State) : Out := dotInt (.dotq w d a b) 4 d a b s

/-- PACK2 (R253): two whole 32-bit values narrowed to 16 bits each. -/
def execPack2 (w : BitVec 1) (d : BitVec 7) (a b : BitVec 8) (s : State) : Out :=
  vOp (.pack2 w d a b) s (fun t => t == 1 || t == 5) fun r L =>
    packElems r.T fun k =>
      narrowInt (gmSat r.path.gm) r.T
        (intVal (r.T + 1) (if k = 0 then r.src32 a L else r.src32 b L).toNat)

/-- PRMB (R253): bytes chosen by D. -/
def execPrmb (w : BitVec 1) (d : BitVec 7) (a b : BitVec 8) (s : State) : Out :=
  vOp (.prmb w d a b) s (fun t => t == 2) fun r L =>
    let src := r.src32 b L ++ r.src32 a L
    let sel := r.group.vreg d.toNat L
    packElems 0 fun j =>
      let c := bf sel (4 * j) 4
      let y := bf src (8 * (c % 8)) 8
      (if c < 8 then y else if 128 ≤ y then 255 else 0, 0)

end Sys2Proof.Machine
end

