-- ==== Sys2Proof/Machine/Lane.lean ====
section
/-! DEFINITION. Lane instructions (spec/14_integer_and_lane.md R257–R260). -/

namespace Sys2Proof.Machine

/-- The bit pattern of a source at the width of gm.T. -/
def Run.pat (r : Run) (a : BitVec 8) (L : Nat) : BitVec 64 := r.src r.T a L

/-- A shuffle (R258): the source lane's value if it is ACTIVE, else the lane's own. -/
def shuffle (i : Sys2Proof.Instr) (a b : BitVec 8) (s : State) (q : Nat → Nat → Option Nat) : Out :=
  vOp i s accAny fun r L =>
    match q L (bf (r.pat b L) 0 32) with
    | some Q => (if r.active.getLsbD Q then r.pat a Q else r.pat a L, 0)
    | none => (r.pat a L, 0)

/-- SHFLI (R258). -/
def execShfli (w : BitVec 1) (d : BitVec 7) (a b : BitVec 8) (s : State) : Out :=
  shuffle (.shfli w d a b) a b s fun _ y => some (y % 32)
/-- SHFLX (R258). -/
def execShflx (w : BitVec 1) (d : BitVec 7) (a b : BitVec 8) (s : State) : Out :=
  shuffle (.shflx w d a b) a b s fun L y => some (L ^^^ (y % 32))
/-- SHFLB (R258). -/
def execShflb (w : BitVec 1) (d : BitVec 7) (a b : BitVec 8) (s : State) : Out :=
  shuffle (.shflb w d a b) a b s fun L y => if y ≤ L then some (L - y) else none
/-- SHFLF (R258). -/
def execShflf (w : BitVec 1) (d : BitVec 7) (a b : BitVec 8) (s : State) : Out :=
  shuffle (.shflf w d a b) a b s fun L y => if L + y ≤ 31 then some (L + y) else none

/-- The ACTIVE lanes whose source has a nonzero bit (R259). -/
def Run.nz (r : Run) (a : BitVec 8) : BitVec 32 := r.active &&& laneMask fun L => r.pat a L != 0

/-- A mask is one 32-bit register whatever gm.T is (R259), yet an odd D is ILLEGAL under a 64-bit gm.T (R227). -/
def accMask (d : BitVec 7) (r : Run) : Bool := accAny r.T && !(tyIs64 r.T && d.getLsbD 0)

/-- BALLOT (R259). -/
def execBallot (w : BitVec 1) (d : BitVec 7) (a : BitVec 8) (s : State) : Out :=
  sOpW (.ballot w d a) s (accMask d) (fun r => (false, tyIs64 r.T)) fun r => ((r.nz a).setWidth 64, 0)
/-- VANY (R259). -/
def execVany (d : BitVec 3) (a : BitVec 8) (s : State) : Out :=
  pOp (.vany d a) s accAny fun r => if r.nz a = 0 then 0 else 0xFFFFFFFF
/-- VALL (R259). -/
def execVall (d : BitVec 3) (a : BitVec 8) (s : State) : Out :=
  pOp (.vall d a) s accAny fun r => if r.nz a = r.active then 0xFFFFFFFF else 0
/-- VEQ (R259). -/
def execVeq (d : BitVec 3) (a : BitVec 8) (s : State) : Out :=
  pOp (.veq d a) s accAny fun r =>
    if (lanesOf r.active).all fun L => r.pat a L == r.pat a (lowLane r.active) then 0xFFFFFFFF else 0
/-- MATCH (R259). -/
def execMatchL (w : BitVec 1) (d : BitVec 7) (a : BitVec 8) (s : State) : Out :=
  vOpW (.matchL w d a) s (accMask d) (fun r => (false, tyIs64 r.T, false)) fun r L =>
    ((r.active &&& laneMask fun Q => r.pat a Q == r.pat a L).setWidth 64, 0)
/-- ACTM (R259). -/
def execActm (w : BitVec 1) (d : BitVec 7) (s : State) : Out :=
  sOpW (.actm w d) s (accMask d) (fun _ => (false, false)) fun r => (r.active.setWidth 64, 0)
/-- ELECT (R259). -/
def execElect (d : BitVec 3) (s : State) : Out :=
  pOp (.elect d) s accAny fun r => 1#32 <<< lowLane r.active

def accScan (t : Nat) : Bool := decide (t ≤ 11)

/-- ADDOP (R260). -/
def addOp (gm : BitVec 32) (t acc v : Nat) : Nat × Flags :=
  if tyIsInt t then narrowInt (gmSat gm) t (intVal t acc + intVal t v) else (fmtOf t).addOp (gmRnd gm) false acc v

/-- The lesser or greater element (R260): integers as MIN and MAX, floats as FMIN and FMAX order. -/
def extremeOp (gm : BitVec 32) (greatest : Bool) (t acc v : Nat) : Nat × Flags :=
  if tyIsInt t then
    (if greatest == decide (intVal t acc < intVal t v) then v else acc, 0)
  else ((fmtOf t).minMaxOp (gmRnd gm).ftz greatest acc v, 0)

/-- The first element of a sum as an operand of ADDOP: a float is read under gm.FTZ (R121), and a NaN gives the
canonical NaN (R117). -/
def firstOp (gm : BitVec 32) (t x : Nat) : Nat × Flags :=
  if tyIsInt t then (x, 0)
  else if ((fmtOf t).decode x).isNaN then ((fmtOf t).nan, 0) else ((fmtOf t).flush (gmRnd gm).ftz x, 0)

/-- The fold of element k over lanes in ascending order; zero for no lane (R260). -/
def Run.fold (r : Run) (a : BitVec 8) (k : Nat) (op : Nat → Nat → Nat × Flags) (first : Nat → Nat × Flags) :
    List Nat → Nat × Flags
  | [] => (0, 0)
  | q :: t => t.foldl (fun c Q =>
      let x := op c.1 (elemU r.T (r.pat a Q) k)
      (x.1, c.2 ||| x.2)) (first (elemU r.T (r.pat a q) k))

/-- SCAN (R260). -/
def execScan (w : BitVec 1) (d : BitVec 7) (a : BitVec 8) (s : State) : Out :=
  vOp (.scan w d a) s accScan fun r L =>
    packElems r.T fun k => r.fold a k (addOp r.path.gm r.T) (firstOp r.path.gm r.T) ((lanesOf r.active).filter (· ≤ L))
/-- SCANX (R260). -/
def execScanx (w : BitVec 1) (d : BitVec 7) (a : BitVec 8) (s : State) : Out :=
  vOp (.scanx w d a) s accScan fun r L =>
    packElems r.T fun k => r.fold a k (addOp r.path.gm r.T) (firstOp r.path.gm r.T) ((lanesOf r.active).filter (· < L))

/-- A reduction into a scalar, packed element by element (R260). -/
def redOp (i : Sys2Proof.Instr) (a : BitVec 8) (s : State) (op : BitVec 32 → Nat → Nat → Nat → Nat × Flags)
    (first : Run → Nat → Nat × Flags) : Out :=
  sOpW i s (fun r => accScan r.T) (fun r => (tyIs64 r.T, tyIs64 r.T)) fun r =>
    packElems r.T fun k => r.fold a k (op r.path.gm r.T) (first r) (lanesOf r.active)

/-- REDA (R260). -/
def execReda (w : BitVec 1) (d : BitVec 7) (a : BitVec 8) (s : State) : Out :=
  redOp (.reda w d a) a s addOp fun r x => firstOp r.path.gm r.T x
/-- REDMN (R260): NaNs ignored, the canonical NaN only when every element is one. -/
def execRedmn (w : BitVec 1) (d : BitVec 7) (a : BitVec 8) (s : State) : Out :=
  redOp (.redmn w d a) a s (fun gm => extremeOp gm false) fun r x => extremeOp r.path.gm false r.T x x
/-- REDMX (R260). -/
def execRedmx (w : BitVec 1) (d : BitVec 7) (a : BitVec 8) (s : State) : Out :=
  redOp (.redmx w d a) a s (fun gm => extremeOp gm true) fun r x => extremeOp r.path.gm true r.T x x

end Sys2Proof.Machine
end

