-- ==== Sys2Proof/Machine/Dispatch.lean ====
section
/-! DEFINITION. The meaning of every row of the opcode table: path instructions and events of the device. -/

namespace Sys2Proof.Machine

/-- One instruction or event at a state. -/
def exec (i : Instr) (s : State) : Host.Outcome State Fault Refusal :=
  match i with
  | .nop => Sys2Proof.Machine.execNop s
  | .mode i_ => Sys2Proof.Machine.execMode i_ s
  | .mshape m n => Sys2Proof.Machine.execMshape m n s
  | .lit i_ => Sys2Proof.Machine.execLit i_ s
  | .lith i_ => Sys2Proof.Machine.execLith i_ s
  | .mov w d a => Sys2Proof.Machine.execMov w d a s
  | .movs w d a => Sys2Proof.Machine.execMovs w d a s
  | .sel w d a b => Sys2Proof.Machine.execSel w d a b s
  | .add w d a b => Sys2Proof.Machine.execAdd w d a b s
  | .sub w d a b => Sys2Proof.Machine.execSub w d a b s
  | .mul w d a b => Sys2Proof.Machine.execMul w d a b s
  | .mulh w d a b => Sys2Proof.Machine.execMulh w d a b s
  | .mad w d a b => Sys2Proof.Machine.execMad w d a b s
  | .min w d a b => Sys2Proof.Machine.execMin w d a b s
  | .max w d a b => Sys2Proof.Machine.execMax w d a b s
  | .abs w d a => Sys2Proof.Machine.execAbs w d a s
  | .neg w d a => Sys2Proof.Machine.execNeg w d a s
  | .and w d a b => Sys2Proof.Machine.execAnd w d a b s
  | .or w d a b => Sys2Proof.Machine.execOr w d a b s
  | .xor w d a b => Sys2Proof.Machine.execXor w d a b s
  | .andn w d a b => Sys2Proof.Machine.execAndn w d a b s
  | .not w d a => Sys2Proof.Machine.execNot w d a s
  | .shl w d a b => Sys2Proof.Machine.execShl w d a b s
  | .shr w d a b => Sys2Proof.Machine.execShr w d a b s
  | .sar w d a b => Sys2Proof.Machine.execSar w d a b s
  | .rot w d a b => Sys2Proof.Machine.execRot w d a b s
  | .clz w d a => Sys2Proof.Machine.execClz w d a s
  | .ctz w d a => Sys2Proof.Machine.execCtz w d a s
  | .popc w d a => Sys2Proof.Machine.execPopc w d a s
  | .brev w d a => Sys2Proof.Machine.execBrev w d a s
  | .bswap w d a => Sys2Proof.Machine.execBswap w d a s
  | .bfx w d a b => Sys2Proof.Machine.execBfx w d a b s
  | .bfi w d a b => Sys2Proof.Machine.execBfi w d a b s
  | .lea1 w d a b => Sys2Proof.Machine.execLea1 w d a b s
  | .lea2 w d a b => Sys2Proof.Machine.execLea2 w d a b s
  | .lea3 w d a b => Sys2Proof.Machine.execLea3 w d a b s
  | .lea4 w d a b => Sys2Proof.Machine.execLea4 w d a b s
  | .absd w d a b => Sys2Proof.Machine.execAbsd w d a b s
  | .avg w d a b => Sys2Proof.Machine.execAvg w d a b s
  | .dot4 w d a b => Sys2Proof.Machine.execDot4 w d a b s
  | .dotq w d a b => Sys2Proof.Machine.execDotq w d a b s
  | .pack2 w d a b => Sys2Proof.Machine.execPack2 w d a b s
  | .prmb w d a b => Sys2Proof.Machine.execPrmb w d a b s
  | .ceq d a b => Sys2Proof.Machine.execCeq d a b s
  | .cne d a b => Sys2Proof.Machine.execCne d a b s
  | .clt d a b => Sys2Proof.Machine.execClt d a b s
  | .cle d a b => Sys2Proof.Machine.execCle d a b s
  | .cgt d a b => Sys2Proof.Machine.execCgt d a b s
  | .cge d a b => Sys2Proof.Machine.execCge d a b s
  | .cun d a b => Sys2Proof.Machine.execCun d a b s
  | .ctst d a b => Sys2Proof.Machine.execCtst d a b s
  | .pand d n a m b => Sys2Proof.Machine.execPand d n a m b s
  | .por d n a m b => Sys2Proof.Machine.execPor d n a m b s
  | .pxor d n a m b => Sys2Proof.Machine.execPxor d n a m b s
  | .pnot d n a => Sys2Proof.Machine.execPnot d n a s
  | .pmov d n a => Sys2Proof.Machine.execPmov d n a s
  | .pget w d => Sys2Proof.Machine.execPget w d s
  | .fadd w d a b => Sys2Proof.Machine.execFadd w d a b s
  | .fsub w d a b => Sys2Proof.Machine.execFsub w d a b s
  | .fmul w d a b => Sys2Proof.Machine.execFmul w d a b s
  | .ffma w d a b => Sys2Proof.Machine.execFfma w d a b s
  | .ffms w d a b => Sys2Proof.Machine.execFfms w d a b s
  | .fnma w d a b => Sys2Proof.Machine.execFnma w d a b s
  | .fmin w d a b => Sys2Proof.Machine.execFmin w d a b s
  | .fmax w d a b => Sys2Proof.Machine.execFmax w d a b s
  | .fabs w d a => Sys2Proof.Machine.execFabs w d a s
  | .fneg w d a => Sys2Proof.Machine.execFneg w d a s
  | .frcp w d a => Sys2Proof.Machine.execFrcp w d a s
  | .frsq w d a => Sys2Proof.Machine.execFrsq w d a s
  | .fsqrt w d a => Sys2Proof.Machine.execFsqrt w d a s
  | .fdiv w d a b => Sys2Proof.Machine.execFdiv w d a b s
  | .fexp2 w d a => Sys2Proof.Machine.execFexp2 w d a s
  | .flog2 w d a => Sys2Proof.Machine.execFlog2 w d a s
  | .fsinp w d a => Sys2Proof.Machine.execFsinp w d a s
  | .fcosp w d a => Sys2Proof.Machine.execFcosp w d a s
  | .fflr w d a => Sys2Proof.Machine.execFflr w d a s
  | .fceil w d a => Sys2Proof.Machine.execFceil w d a s
  | .frnd w d a => Sys2Proof.Machine.execFrnd w d a s
  | .ffrc w d a => Sys2Proof.Machine.execFfrc w d a s
  | .fcls w d a => Sys2Proof.Machine.execFcls w d a s
  | .fscl w d a b => Sys2Proof.Machine.execFscl w d a b s
  | .fgete w d a => Sys2Proof.Machine.execFgete w d a s
  | .fdot2 w d a b => Sys2Proof.Machine.execFdot2 w d a b s
  | .cvt w d a => Sys2Proof.Machine.execCvt w d a s
  | .cvpk w d a b => Sys2Proof.Machine.execCvpk w d a b s
  | .cvlo w d a => Sys2Proof.Machine.execCvlo w d a s
  | .cvhi w d a => Sys2Proof.Machine.execCvhi w d a s
  | .shfli w d a b => Sys2Proof.Machine.execShfli w d a b s
  | .shflx w d a b => Sys2Proof.Machine.execShflx w d a b s
  | .shflb w d a b => Sys2Proof.Machine.execShflb w d a b s
  | .shflf w d a b => Sys2Proof.Machine.execShflf w d a b s
  | .ballot w d a => Sys2Proof.Machine.execBallot w d a s
  | .vany d a => Sys2Proof.Machine.execVany d a s
  | .vall d a => Sys2Proof.Machine.execVall d a s
  | .veq d a => Sys2Proof.Machine.execVeq d a s
  | .scan w d a => Sys2Proof.Machine.execScan w d a s
  | .scanx w d a => Sys2Proof.Machine.execScanx w d a s
  | .reda w d a => Sys2Proof.Machine.execReda w d a s
  | .redmn w d a => Sys2Proof.Machine.execRedmn w d a s
  | .redmx w d a => Sys2Proof.Machine.execRedmx w d a s
  | .matchL w d a => Sys2Proof.Machine.execMatchL w d a s
  | .actm w d => Sys2Proof.Machine.execActm w d s
  | .elect d => Sys2Proof.Machine.execElect d s
  | .bra c o => Sys2Proof.Machine.execBra c o s
  | .call c o => Sys2Proof.Machine.execCall c o s
  | .calli a => Sys2Proof.Machine.execCalli a s
  | .jmpi a => Sys2Proof.Machine.execJmpi a s
  | .ret => Sys2Proof.Machine.execRet s
  | .join o => Sys2Proof.Machine.execJoin o s
  | .exit => Sys2Proof.Machine.execExit s
  | .yield => Sys2Proof.Machine.execYield s
  | .waitc a b => Sys2Proof.Machine.execWaitc a b s
  | .brk b => Sys2Proof.Machine.execBrk b s
  | .loop c o => Sys2Proof.Machine.execLoop c o s
  | .ldl w d a b => Sys2Proof.Machine.execLdl w d a b s
  | .stl d a b => Sys2Proof.Machine.execStl d a b s
  | .lds w d a b => Sys2Proof.Machine.execLds w d a b s
  | .sts d a b => Sys2Proof.Machine.execSts d a b s
  | .ldc w d a b => Sys2Proof.Machine.execLdc w d a b s
  | .stc d a b => Sys2Proof.Machine.execStc d a b s
  | .ldk w d a b => Sys2Proof.Machine.execLdk w d a b s
  | .stk d a b => Sys2Proof.Machine.execStk d a b s
  | .ldg w d a b => Sys2Proof.Machine.execLdg w d a b s
  | .stg d a b => Sys2Proof.Machine.execStg d a b s
  | .ldgs w d a b => Sys2Proof.Machine.execLdgs w d a b s
  | .stgs d a b => Sys2Proof.Machine.execStgs d a b s
  | .ldsq w d a b => Sys2Proof.Machine.execLdsq w d a b s
  | .stsq d a b => Sys2Proof.Machine.execStsq d a b s
  | .ldgq w d a b => Sys2Proof.Machine.execLdgq w d a b s
  | .stgq d a b => Sys2Proof.Machine.execStgq d a b s
  | .ldga w d a b => Sys2Proof.Machine.execLdga w d a b s
  | .stgr d a b => Sys2Proof.Machine.execStgr d a b s
  | .atsAdd w d a b => Sys2Proof.Machine.execAtsAdd w d a b s
  | .atsMin w d a b => Sys2Proof.Machine.execAtsMin w d a b s
  | .atsMax w d a b => Sys2Proof.Machine.execAtsMax w d a b s
  | .atsAnd w d a b => Sys2Proof.Machine.execAtsAnd w d a b s
  | .atsOr w d a b => Sys2Proof.Machine.execAtsOr w d a b s
  | .atsXor w d a b => Sys2Proof.Machine.execAtsXor w d a b s
  | .atsXch w d a b => Sys2Proof.Machine.execAtsXch w d a b s
  | .atsCas w d a b => Sys2Proof.Machine.execAtsCas w d a b s
  | .atgAdd w d a b => Sys2Proof.Machine.execAtgAdd w d a b s
  | .atgMin w d a b => Sys2Proof.Machine.execAtgMin w d a b s
  | .atgMax w d a b => Sys2Proof.Machine.execAtgMax w d a b s
  | .atgAnd w d a b => Sys2Proof.Machine.execAtgAnd w d a b s
  | .atgOr w d a b => Sys2Proof.Machine.execAtgOr w d a b s
  | .atgXor w d a b => Sys2Proof.Machine.execAtgXor w d a b s
  | .atgXch w d a b => Sys2Proof.Machine.execAtgXch w d a b s
  | .atgCas w d a b => Sys2Proof.Machine.execAtgCas w d a b s
  | .atcAdd w d a b => Sys2Proof.Machine.execAtcAdd w d a b s
  | .atcCas w d a b => Sys2Proof.Machine.execAtcCas w d a b s
  | .atgsAdd w d a b => Sys2Proof.Machine.execAtgsAdd w d a b s
  | .atgsCas w d a b => Sys2Proof.Machine.execAtgsCas w d a b s
  | .reds d a b => Sys2Proof.Machine.execReds d a b s
  | .redg d a b => Sys2Proof.Machine.execRedg d a b s
  | .fence k m s_ => Sys2Proof.Machine.execFence k m s_ s
  | .gath w d a b => Sys2Proof.Machine.execGath w d a b s
  | .scat d a b => Sys2Proof.Machine.execScat d a b s
  | .stgc d a b => Sys2Proof.Machine.execStgc d a b s
  | .ldge w d a b => Sys2Proof.Machine.execLdge w d a b s
  | .pfg a b => Sys2Proof.Machine.execPfg a b s
  | .cstep a => Sys2Proof.Machine.execCstep a s
  | .cstat w d => Sys2Proof.Machine.execCstat w d s
  | .binit a b => Sys2Proof.Machine.execBinit a b s
  | .barv a b => Sys2Proof.Machine.execBarv a b s
  | .bexp a b => Sys2Proof.Machine.execBexp a b s
  | .bwait a b => Sys2Proof.Machine.execBwait a b s
  | .btest d a b => Sys2Proof.Machine.execBtest d a b s
  | .binv a b => Sys2Proof.Machine.execBinv a b s
  | .rrot a b => Sys2Proof.Machine.execRrot a b s
  | .sppin a b => Sys2Proof.Machine.execSppin a b s
  | .sprel a b => Sys2Proof.Machine.execSprel a b s
  | .spawn a b => Sys2Proof.Machine.execSpawn a b s
  | .tdep a b => Sys2Proof.Machine.execTdep a b s
  | .tsig a => Sys2Proof.Machine.execTsig a s
  | .post a k f => Sys2Proof.Machine.execPost a k f s
  | .seal a k => Sys2Proof.Machine.execSeal a k s
  | .pmrk w d a k => Sys2Proof.Machine.execPmrk w d a k s
  | .subs a b => Sys2Proof.Machine.execSubs a b s
  | .settle a f => Sys2Proof.Machine.execSettle a f s
  | .lque a => Sys2Proof.Machine.execLque a s
  | .lmma d a b => Sys2Proof.Machine.execLmma d a b s
  | .aalloc a => Sys2Proof.Machine.execAalloc a s
  | .afree => Sys2Proof.Machine.execAfree s
  | .adrn w d a b => Sys2Proof.Machine.execAdrn w d a b s
  | .afil a b => Sys2Proof.Machine.execAfil a b s
  | .trace w d a b => Sys2Proof.Machine.execTrace w d a b s
  | .psend a b => Sys2Proof.Machine.execPsend a b s
  | .comp w d a b => Sys2Proof.Machine.execComp w d a b s
  | .trap i_ => Sys2Proof.Machine.execTrap i_ s
  | .rte => Sys2Proof.Machine.execRte s
  | .srd w d s_ => Sys2Proof.Machine.execSrd w d s_ s
  | .swr d s_ => Sys2Proof.Machine.execSwr d s_ s
  | .mapack a => Sys2Proof.Machine.execMapack a s
  | .icinv => Sys2Proof.Machine.execIcinv s
  | .cyc w d => Sys2Proof.Machine.execCyc w d s
  | .pause a => Sys2Proof.Machine.execPause a s
  | .pauseExpiry p => Sys2Proof.Machine.execPauseExpiry p s
  | .loadReturn p k => Sys2Proof.Machine.execLoadReturn p k s
  | .fenceComplete p => Sys2Proof.Machine.execFenceComplete p s
  | .mapackAnswer p => Sys2Proof.Machine.execMapackAnswer p s
  | .powerOn verified => Sys2Proof.Machine.execPowerOn verified s
  | .clusterWake => Sys2Proof.Machine.execClusterWake s
  | .loomRampStage core => Sys2Proof.Machine.execLoomRampStage core s
  | .fwcmd => Sys2Proof.Machine.execFwcmd s
  | .fwVerifyDone component complete => Sys2Proof.Machine.execFwVerifyDone component complete s
  | .attcmd => Sys2Proof.Machine.execAttcmd s
  | .attestReportDone images => Sys2Proof.Machine.execAttestReportDone images s
  | .laneSpare core subpipe => Sys2Proof.Machine.execLaneSpare core subpipe s
  | .coreDrain core => Sys2Proof.Machine.execCoreDrain core s
  | .coreRetire core => Sys2Proof.Machine.execCoreRetire core s
  | .channelSpare stack chan => Sys2Proof.Machine.execChannelSpare stack chan s
  | .channelCopyDone stack chan => Sys2Proof.Machine.execChannelCopyDone stack chan s
  | .linkLaneFailure link lane => Sys2Proof.Machine.execLinkLaneFailure link lane s
  | .linkRetrainDone link ok => Sys2Proof.Machine.execLinkRetrainDone link ok s
  | .l2Way slice way => Sys2Proof.Machine.execL2Way slice way s
  | .portDown port => Sys2Proof.Machine.execPortDown port s
  | .islandRetire island => Sys2Proof.Machine.execIslandRetire island s
  | .mapchgDelivery p => Sys2Proof.Machine.execMapchgDelivery p s
  | .deferredFaultDelivery p => Sys2Proof.Machine.execDeferredFaultDelivery p s
  | .graceExpiry part ctx => Sys2Proof.Machine.execGraceExpiry part ctx s
  | .hostack part ctx v => Sys2Proof.Machine.execHostack part ctx v s
  | .timeoutUnknown id => Sys2Proof.Machine.execTimeoutUnknown id s
  | .remoteResponse link tag gen code data => Sys2Proof.Machine.execRemoteResponse link tag gen code data s
  | .orderedFlagRelease id => Sys2Proof.Machine.execOrderedFlagRelease id s
  | .flitReceive link slot counter authentic franking nak seq acked => Sys2Proof.Machine.execFlitReceive link slot counter authentic franking nak seq acked s
  | .flitNak link seq => Sys2Proof.Machine.execFlitNak link seq s
  | .keyLoad link slot => Sys2Proof.Machine.execKeyLoad link slot s
  | .keySwitch link slot => Sys2Proof.Machine.execKeySwitch link slot s
  | .frankingAck link => Sys2Proof.Machine.execFrankingAck link s
  | .uudPacketDrop => Sys2Proof.Machine.execUudPacketDrop s
  | .compositingPassStart job => Sys2Proof.Machine.execCompositingPassStart job s
  | .compositingTileArrival job sender pass round tile allSealed digest bytes => Sys2Proof.Machine.execCompositingTileArrival job sender pass round tile allSealed digest bytes s
  | .peerTimeout job => Sys2Proof.Machine.execPeerTimeout job s
  | .reductionExchange coll others => Sys2Proof.Machine.execReductionExchange coll others s
  | .collectiveSetup => Sys2Proof.Machine.execCollectiveSetup s
  | .collectiveSetupDone agreed plain => Sys2Proof.Machine.execCollectiveSetupDone agreed plain s
  | .collectiveTeardown => Sys2Proof.Machine.execCollectiveTeardown s
  | .collectiveTeardownDone => Sys2Proof.Machine.execCollectiveTeardownDone s
  | .parcelArrival part ctx sender parcel => Sys2Proof.Machine.execParcelArrival part ctx sender parcel s
  | .receiveSlotGrant dest slots fresh => Sys2Proof.Machine.execReceiveSlotGrant dest slots fresh s
  | .preg part ctx v => Sys2Proof.Machine.execPreg part ctx v s
  | .pregWithdrawDone part ctx => Sys2Proof.Machine.execPregWithdrawDone part ctx s
  | .borrowGatherResponse id postmark unwatched line => Sys2Proof.Machine.execBorrowGatherResponse id postmark unwatched line s
  | .borrowGatherTimeout id => Sys2Proof.Machine.execBorrowGatherTimeout id s
  | .postmarkNotice source header postmark => Sys2Proof.Machine.execPostmarkNotice source header postmark s
  | .noticeAck header borrower => Sys2Proof.Machine.execNoticeAck header borrower s
  | .noticeTimeout header borrower => Sys2Proof.Machine.execNoticeTimeout header borrower s
  | .tail part queue v => Sys2Proof.Machine.execTail part queue v s
  | .launchRecordFetch part queue => Sys2Proof.Machine.execLaunchRecordFetch part queue s
  | .kill part queue index => Sys2Proof.Machine.execKill part queue index s
  | .launchComplete launch => Sys2Proof.Machine.execLaunchComplete launch s
  | .gangPlace source isDocket => Sys2Proof.Machine.execGangPlace source isDocket s
  | .gangPreempt gang => Sys2Proof.Machine.execGangPreempt gang s
  | .gangMigrate gang cluster pos => Sys2Proof.Machine.execGangMigrate gang cluster pos s
  | .gangResume gang => Sys2Proof.Machine.execGangResume gang s
  | .sysreply part ctx seq value => Sys2Proof.Machine.execSysreply part ctx seq value s
  | .systail part ctx v => Sys2Proof.Machine.execSystail part ctx v s
  | .resclr part ctx => Sys2Proof.Machine.execResclr part ctx s
  | .swapOut part ctx => Sys2Proof.Machine.execSwapOut part ctx s
  | .swapIn part ctx => Sys2Proof.Machine.execSwapIn part ctx s
  | .swapDone part ctx => Sys2Proof.Machine.execSwapDone part ctx s
  | .halt part ctx => Sys2Proof.Machine.execHalt part ctx s
  | .resume part ctx => Sys2Proof.Machine.execResume part ctx s
  | .read part ctx => Sys2Proof.Machine.execRead part ctx s
  | .write part ctx => Sys2Proof.Machine.execWrite part ctx s
  | .force part ctx => Sys2Proof.Machine.execForce part ctx s
  | .step part ctx => Sys2Proof.Machine.execStep part ctx s
  | .partitionEn part en => Sys2Proof.Machine.execPartitionEn part en s
  | .vfEnableChange enable numVfs => Sys2Proof.Machine.execVfEnableChange enable numVfs s
  | .phmask part die mask => Sys2Proof.Machine.execPhmask part die mask s
  | .invalidatePage part => Sys2Proof.Machine.execInvalidatePage part s
  | .invalidateAll part => Sys2Proof.Machine.execInvalidateAll part s
  | .invalidationDone part => Sys2Proof.Machine.execInvalidationDone part s
  | .sealgrp part ctx v => Sys2Proof.Machine.execSealgrp part ctx v s
  | .pigeonholeTail fn hole v => Sys2Proof.Machine.execPigeonholeTail fn hole v s
  | .apertureHostWrite part ctx n v => Sys2Proof.Machine.execApertureHostWrite part ctx n v s
  | .registerWrite fn offset v => Sys2Proof.Machine.execRegisterWrite fn offset v s
  | .sideLogRetry core => Sys2Proof.Machine.execSideLogRetry core s
  | .courierRetry gang => Sys2Proof.Machine.execCourierRetry gang s
  | .docketSlotRetry hole => Sys2Proof.Machine.execDocketSlotRetry hole s
  | .docketAccept hole => Sys2Proof.Machine.execDocketAccept hole s
  | .docketIssue die kind engine => Sys2Proof.Machine.execDocketIssue die kind engine s
  | .runComplete docket => Sys2Proof.Machine.execRunComplete docket s
  | .pagerTransferDone wg page => Sys2Proof.Machine.execPagerTransferDone wg page s
  | .courierInstanceDone gang inst => Sys2Proof.Machine.execCourierInstanceDone gang inst s
  | .mma core => Sys2Proof.Machine.execMma core s
  | .mmaz core => Sys2Proof.Machine.execMmaz core s
  | .drain core => Sys2Proof.Machine.execDrain core s
  | .endList core => Sys2Proof.Machine.execEndList core s
  | .loomRingPhase core => Sys2Proof.Machine.execLoomRingPhase core s
  | .sduDone docket => Sys2Proof.Machine.execSduDone docket s
  | .traceDone gang trace => Sys2Proof.Machine.execTraceDone gang trace s
  | .scoreHalving core => Sys2Proof.Machine.execScoreHalving core s
  | .borrowGatherRequest borrower part ia header => Sys2Proof.Machine.execBorrowGatherRequest borrower part ia header s
  | .retrainingDone link => Sys2Proof.Machine.execRetrainingDone link s
  | .portDisable port => Sys2Proof.Machine.execPortDisable port s
  | .grantRevocation dest => Sys2Proof.Machine.execGrantRevocation dest s

end Sys2Proof.Machine
end

