-- ==== Sys2Proof/Machine/Schedule.lean ====
section
/-! DEFINITION. What a step does around `exec`: the waits that end by themselves, the placement of leading gangs
(spec/07_execution_model.md R141), fetching (spec/16_control_flow.md R274), the interlock on loads (R140), deliveries (R188, R189), the
turns of a group's slot and the fragments in borrowed slots (R135), paths of one group that issue in one cycle (R242), and throttling
(R143–R145). Which of the paths that may issue goes next is the model's own choice where the spec leaves it open (log 10). -/

namespace Sys2Proof.Machine

/-! ### Waits that end by themselves -/

/-- Test one waiting path of a gang that may run. -/
def State.testWait (s : State) (k : Nat) : State :=
  match s.runAt k with
  | none => s
  | some r =>
    if !s.mayRun r.gid r.gang then s
    else
      match r.path.wait with
      | .waitc conds => if r.gang.reached conds then s.doneSwitch r else s
      | .bwait conds => s.bwaitTest r conds
      | .settle g status act => s.settleTest r g status act
      | .spawned h upto => if s.accepted h upto then s.doneSwitch r else s
      | .banks => s.banksTest r
      | .notice h => if s.noticed (.g (h / 2 ^ 70) (h / 2 ^ 64 % 64) (BitVec.ofNat 64 h)) then s else s.pastDone r
      | .fence kind mask ids => if s.fenceDone r kind ids then s.finishFence r kind mask else s
      | .pause till => if till ≤ (s.core r.wg.core).cycles then s.doneSwitch r else s
      | .trapped code args => s.trapTest r code args
      | .performed ids => if ids.any s.pends then s else s.putPath r.key (r.path.pastSwitch (s.rctx r).aper r.path.pc)
      | .join _ => s.joinTest r.gk 33
      | .coll _ => (s.joinTest r.gk 33).collTest r.gk
      | _ => s

/-- Whether a path waits in a way that testWait may end. -/
def Wait.tested : Wait → Bool
  | .ready | .retry | .load _ | .parked _ | .mapack _ | .borrow _ => false
  | _ => true

/-- The leading gang of a launch is resumed, or placed, as soon as it fits (R141); so is one that has left a draining core (R25). -/
def State.placeLeading (s : State) : State :=
  if s.mgmt.needsReset then s
  else
    let s1 := (s.gangs.filter fun x => x.2.status == 1 && ((x.2.launched && s.leading x.2) || x.2.drained)).foldl
      (fun (s : State) x => s.resumeGang x.1) s
    (s1.launches.filter fun x => !(s1.gangs.any fun y => y.2.src == .launch x.1 && y.2.status != 4)).foldl
      (fun (s : State) x => s.placeLaunch x.1) s1

/-- Requests that wait for earlier ones, waiting paths, jobs that wait for a destination slot, halts that wait for counters and slots whose
pigeonhole's TAIL was written (R152) are tested; a SEALGRP goes on (R161), draining cores empty, leading gangs are placed. -/
def State.refresh (s0 : State) : State :=
  let s := s0.drainReqs
  let s1 := (s.paths.filter fun x => x.2.wait.tested).foldl (fun (s : State) x => s.testWait x.1) s
  let s2 := s1.retryJobs.haltsDone
  let s3 := (s2.holes.filter fun x => x.2.again).foldl (fun (s : State) x => s.acceptNext x.1) s2
  let s4 := (s3.ctxs.filter fun x => x.2.sealing.isSome).foldl (fun (s : State) x => s.sealStep (x.1 / 64) (x.1 % 64)) s3
  s4.drainStep.placeLeading

/-! ### Switch points -/

/-- The switch-point instructions (R233). -/
def Instr.switchPoint (i : Sys2Proof.Instr) : Bool :=
  match encode i with
  | none => false
  | some w =>
    let op := bf w 24 8
    (decide (0x90 ≤ op) && decide (op ≤ 0x9A)) || (decide (0xA0 ≤ op) && decide (op ≤ 0xCD)) || (decide (0xD0 ≤ op) && decide (op ≤ 0xEB)) ||
      op == 0xF0 || op == 0xF4 || op == 0xF5 || op == 0xF7

/-- What a path meets when it has executed a switch point, or completed one that waited: the stop of its task (R158), whatever its mode,
then a deferred fault, then MAPCHG. -/
def State.switchDone (s : State) (k : Nat) : State :=
  match FMap.get? s.gangs (k / 4096) with
  | none => s
  | some q =>
    let stop := match q.src with
      | .docket d => if q.status = 0 && !q.halted && (FMap.get? s.dockets d).any (·.stopping) then some d else none
      | .launch _ => none
    match stop with
    | some d => s.stopRun d
    | none => if s.atDelivery k then s.deliver k else s

/-- The paths that waited before and wait no more have completed theirs. -/
def State.waitsDone (old new : State) : State :=
  (old.paths.filter fun x => x.2.wait != .ready && x.2.wait != .retry).foldl (fun (s : State) x =>
    if (FMap.get? s.paths x.1).any fun p => p.wait == .ready then s.switchDone x.1 else s) new

/-- Paths between two instructions take the deferred faults of their own stores (R188). -/
def State.ownFaults (s : State) : State :=
  (s.gangs.flatMap fun x => x.2.dq.filterMap (·.path)).foldl (fun (s : State) x => if s.atDelivery x.1 then s.deliverOwn x.1 else s) s

/-- After an event. -/
def State.settleDown (old new : State) : State := (old.waitsDone new.refresh).ownFaults

/-! ### Fetch (R274) -/

/-- What a fetch finds: a cause, a word that is no instruction, or the instruction. -/
inductive Fetched where
  | fault (c : BitVec 8)
  | illegal
  | instr (i : Sys2Proof.Instr)
deriving DecidableEq, Repr

/-- The physical address that a path's pc is fetched from; a window other than local memory is refused without a walk. -/
def State.fetchAt (s : State) (r : Run) : Except (BitVec 8) Nat × State :=
  let pc := r.path.pc.toNat
  if decide (pc < 2 ^ 57) && (aperFind r.path.aper pc).any (fun x => x.1 != 0) then (.error cPERMISSION, s)
  else match s.piece r.path.aper r.gang.part r.path.pc.toNat 4 .rd with
  | (.loc _ pa _ _, s1) => (.ok pa, s1)
  | (.bad c _ _ _ _, s1) => (.error c, s1)
  | (_, s1) => (.error cPERMISSION, s1)

/-- Fetch and decode (R274, R225); fetches read memory directly (log 11). -/
def State.fetch (s : State) (r : Run) : Fetched × State :=
  match s.fetchAt r with
  | (.error c, s1) => (.fault c, s1)
  | (.ok pa, s1) =>
    match decodeBytes (Memory.bytes s1.mem pa 4) with
    | .ok i => (.instr i, s1)
    | .error _ => (.illegal, s1)

/-! ### Issue policies (R143-R145) -/

/-- The groups with paths left on a sub-pipe of a core. -/
def State.residentGroups (s : State) (core sp : Nat) : List Nat :=
  (s.groups.map (·.1)).filter fun gk => gk % 4 == sp && ((FMap.get? s.wgs (gk / 16)).any fun w => w.core == core) &&
    s.paths.any fun p => p.1 / 32 == gk

/-- Age orders by linear gang index, then by rank and group index (R143); gangs of two launches with one index by number. -/
def State.older (s : State) (a b : Nat) : Bool :=
  let lin := fun k : Nat => ((FMap.get? s.gangs (k / 128)).map (·.linear)).getD 0
  if lin a ≠ lin b then decide (lin a < lin b)
  else if a % 128 ≠ b % 128 then decide (a % 128 < b % 128) else decide (a < b)

/-- T of a sub-pipe: 8 less one for each 64 of its groups' scores, and at least 1 (R144). -/
def State.mayAccess (s : State) (core sp : Nat) : Nat :=
  8 - min 7 (((s.residentGroups core sp).map fun gk => (CMap.get (s.core core).scores gk).toNat).sum / 64)

/-- Whether the next instruction of a path is a memory, atomic or fence instruction. -/
def State.accessNext (s : State) (r : Run) : Bool :=
  match (s.fetch r).1 with
  | .instr i => match encode i with
    | some w => decide (0xA0 ≤ bf w 24 8) && decide (bf w 24 8 ≤ 0xCD)
    | none => false
  | _ => false

/-- Whether a path is held back by locality-aware throttling: it is none of the T oldest groups of its sub-pipe and its next
instruction accesses memory (R143). -/
def State.throttled (s : State) (k : Nat) : Bool :=
  match s.runAt k with
  | none => false
  | some r => r.group.pol == 1 &&
      decide (s.mayAccess r.wg.core (r.gk % 4) ≤ ((s.residentGroups r.wg.core (r.gk % 4)).filter fun x => s.older x r.gk).length) &&
      s.accessNext r

/-! ### Turns (R135) -/

/-- Whether a path's next instruction names a register of a load that has not returned (R140). -/
def State.awaits (s : State) (k : Nat) : Bool :=
  match s.runAt k with
  | none => false
  | some r =>
    let out := r.path.loads.filter fun l => l.lanes.any fun x => x.miss != 0
    !out.isEmpty && (match (s.fetch r).1 with
      | .instr i => { r.path with loads := out }.interlocked i
      | _ => false)

/-- Whether a path may issue. -/
def State.canIssue (s : State) (k : Nat) : Bool :=
  match s.runAt k with
  | none => false
  | some r => (r.path.wait == .ready || r.path.wait == .retry) && s.mayRun r.gid r.gang

/-- Whether a path is ready. -/
def State.isReady (s : State) (k : Nat) : Bool := s.canIssue k && !s.throttled k && !s.awaits k

/-- The place of a path in the cyclic order of its group's slot: a split's number, then the fragments in order of creation. -/
def slotKey (x : Nat × Path) : Nat := if x.1 % 32 < 4 then x.1 % 32 else 4 + x.2.born

/-- Insert a path by group and place. -/
def slotIns (x : Nat × Path) : List (Nat × Path) → List (Nat × Path)
  | [] => [x]
  | y :: t =>
    if x.1 / 32 < y.1 / 32 || (x.1 / 32 = y.1 / 32 && slotKey x < slotKey y) then x :: y :: t else y :: slotIns x t

def slotSort (l : List (Nat × Path)) : List (Nat × Path) := l.foldl (fun acc x => slotIns x acc) []

/-- The order starting after a place. -/
def turned (l : List (Nat × Path)) (turn : Nat) : List (Nat × Path) :=
  (l.filter fun x => turn < slotKey x) ++ l.filter fun x => slotKey x ≤ turn

/-- The ready fragments that issue from the free slots of a core (R128, R135): those that are between two switch points in one, then those
that contend for one, the oldest of each group first (log 10); one that is between two switch points in its own group's slot stays there. -/
def State.borrowers (s : State) (core : Nat) : List Nat :=
  let fr := slotSort (s.paths.filter fun x => decide (4 ≤ x.1 % 32) && (FMap.get? s.wgs (x.1 / 512)).any fun w => w.core == core)
  if fr.isEmpty then []
  else
    let used := ([0, 1, 2, 3].map fun sp => (s.residentGroups core sp).length).sum
    let fr := fr.filter fun x => s.isReady x.1
    (((fr.filter (·.2.lent)) ++ fr.filter fun x => !x.2.lent && !x.2.mid).take (32 - used)).map (·.1)

/-- Whether a path issues from a borrowed slot. -/
def State.borrows (s : State) (k : Nat) : Bool :=
  decide (4 ≤ k % 32) && (FMap.get? s.wgs (k / 512)).any fun w => (s.borrowers w.core).contains k

/-- The ready path of a group's own slot whose turn it is: the one between two switch points, else the next in order. -/
def State.slotNext (s : State) (gk : Nat) : Option Nat :=
  match FMap.get? s.groups gk with
  | none => none
  | some g =>
    let l := (turned (slotSort ((s.pathsOf gk).filter fun x => !s.borrows x.1)) g.turn).filter fun x => s.isReady x.1
    ((l.find? (·.2.mid)) <|> l.head?).map (·.1)

/-- Whether it is a ready path's turn: it issues from a borrowed slot, or is the next of its group's own. -/
def State.inTurn (s : State) (k : Nat) : Bool := s.isReady k && (s.slotNext (k / 32) == some k || s.borrows k)

/-- What issues on its own: a group's slot, or a fragment in a borrowed one. -/
def State.issuers (s : State) : List (Nat × Nat) :=
  s.groups.flatMap fun g => (g.1, 0) :: ((s.pathsOf g.1).filter fun x => s.borrows x.1).map fun x => (g.1, x.1)

/-- The next path of the machine: the issuers take turns, starting after a path's. -/
def State.nextPath (s : State) (k : Nat) : Option Nat :=
  let me := (k / 32, if s.borrows k then k else 0)
  let past (x : Nat × Nat) : Bool := decide (me.1 < x.1) || (x.1 == me.1 && decide (me.2 < x.2))
  ((s.issuers.filter past) ++ s.issuers.filter fun x => !past x).findSome? fun x =>
    if x.2 = 0 then s.slotNext x.1 else if s.isReady x.2 then some x.2 else none

/-- The path that issues: one that a debugger steps, else the one issuing already, else the next. -/
def State.pick (s : State) : Option Nat :=
  match s.stepping with
  | some (_, k) => some k
  | none => if s.inTurn s.cur then some s.cur else s.nextPath s.cur

/-- Another path goes next. -/
def State.moveOn (s : State) (k : Nat) : State := { s with cur := (s.nextPath k).getD k }

/-- A path has executed a switch point (R135, R145): its group's slot moves on from its place, if it issued there, and the group takes the
issue policy in force. -/
def State.switched (s : State) (k place : Nat) (own : Bool) : State :=
  match FMap.get? s.groups (k / 32), FMap.get? s.gangs (k / 4096) with
  | some g, some q => s.putGroup (k / 32) { g with
      turn := if own then place else g.turn, pol := (s.ctx q.part q.ctx).policy q.policy }
  | _, _ => s

/-! ### One issue -/

/-- The cycle an issue takes on its core (log 12). -/
def State.tick (s : State) (core : Nat) : State := s.putCore core { s.core core with cycles := (s.core core).cycles + 1 }

/-- Whether a path is in handler mode. -/
def State.inHandler (s : State) (k : Nat) : Bool := (FMap.get? s.paths k).any (·.inH)

/-- What follows the instruction that path k executed on a core, given the state before it; one that enters the handler by a fault has
not been executed. -/
def State.after (old new : State) (k core : Nat) (sw : Bool) : State :=
  let faulted := !old.inHandler k && new.inHandler k
  let s1 := if faulted then new.tick core else (new.tick core).modPath k fun p => { p with mid := !sw, lent := !sw && old.borrows k }
  let s2 := match s1.stepping with
    | some (ck, j) => if j = k then s1.endStep ck else s1
    | none => s1
  let s3 := old.settleDown s2
  if sw && !faulted then
    (((s3.switchDone k).switched k (((FMap.get? old.paths k).map fun p => slotKey (k, p)).getD 0) (!old.borrows k))).moveOn k
  else if s3.isReady k then s3 else s3.moveOn k

/-! ### What other lanes and the Loom see of stores to the on-chip memories (R177, R205, log 1) -/

/-- What an instruction of path k does to late stores before it executes: arithmetic, control, and loads and stores on chip show none; an
arrival at a barrier shows its lanes' stores to all lanes; any other shows all. -/
def State.shows (s : State) (k : Nat) (i : Sys2Proof.Instr) : State :=
  if s.stale.isEmpty then s
  else
    match encode i with
    | none => s.seenAll
    | some w =>
      let op := bf w 24 8
      if op < 0x96 || (0x97 ≤ op && op < 0xA8) || op = 0xAC || op = 0xAD || op = 0xD5 || op = 0xD6 then s
      else if op = 0xD3 || op = 0xD4 then match FMap.get? s.paths k with
        | some p => s.seenByLanes (k / 32) p.mask
        | none => s
      else s.seenAll

/-- Whether an event lets late stores stay unseen: the steps of the Loom that reads the rings. -/
def Instr.loomStep : Sys2Proof.Instr → Bool
  | .mma .. | .mmaz .. | .loomRingPhase .. => true
  | _ => false

/-- The loads in flight that a path's next instruction waits for return (R140). -/
def State.returnFor (s : State) (k : Nat) (i : Sys2Proof.Instr) : State :=
  match FMap.get? s.paths k with
  | none => s
  | some p => if p.interlocked i then p.loads.foldl (fun (s : State) l => s.returnLoad k l.id) s else s

/-- Whether the path still waits for a load its instruction names. -/
def State.stalled (s : State) (k : Nat) (i : Sys2Proof.Instr) : Bool := (FMap.get? s.paths k).any fun p => p.interlocked i

/-- Path k issues. -/
def State.issue (s : State) (k : Nat) : Out :=
  match s.runAt k with
  | none => .next (match s.stepping with
    | some (ck, _) => s.endStep ck
    | none => s)
  | some r =>
    let s0 := { s with cur := k }
    match s0.fetch r with
    | (.fault c, s1) =>
      .next (s.after (s1.raise r c (lowLane r.path.mask) r.path.pc r.path.mask) k r.wg.core false)
    | (.illegal, s1) => .next (s.after (s1.illegal r) k r.wg.core false)
    | (.instr i, s1) =>
      let s2 := s1.returnFor k i
      if s2.stalled k i then .next ((s.settleDown s2).moveOn k)
      else
        match exec i (s2.shows k i) with
        | .next t => .next (s.after t k r.wg.core (Instr.switchPoint i))
        | .fault f => .fault f
        | .refused f => .refused f

/-- Nothing can issue: a MAPACK is answered, or the cycles of a core pass up to the end of its first pause. -/
def State.idle (s : State) : State :=
  match s.paths.find? fun x => match x.2.wait with | .mapack _ => true | _ => false with
  | some x => s.settleDown (match execMapackAnswer x.1 s with
    | .next t => t
    | _ => s)
  | none =>
    let ends := s.paths.filterMap fun x => match x.2.wait, s.runAt x.1 with
      | .pause till, some r => if s.mayRun r.gid r.gang then some (till, r.wg.core) else none
      | _, _ => none
    match ends with
    | [] => s.settleDown s
    | (till, core) :: _ =>
      let t := s.putCore core { s.core core with cycles := max till (s.core core).cycles }
      s.settleDown t

/-- The place of an event's cause in the order of R24: the section of R21, then the entry's index. -/
def causePlace : Sys2Proof.Instr → Nat × Nat
  | .laneSpare core _ => (0, core)
  | .coreDrain core => (0, core)
  | .coreRetire core => (0, core)
  | .channelSpare stack chan => (1, 34 * stack + chan)
  | .linkLaneFailure link _ => (2, link)
  | .linkRetrainDone link _ => (2, link)
  | .portDown port => (3, port)
  | .islandRetire island => (4, island)
  | .l2Way slice _ => (5, slice)
  | _ => (6, 0)

/-- Whether a cause comes before another. -/
def causeFirst (a b : Sys2Proof.Instr) : Bool :=
  decide ((causePlace a).1 < (causePlace b).1) || ((causePlace a).1 == (causePlace b).1 && decide ((causePlace a).2 < (causePlace b).2))

/-- The first of causes that are detected together, and the others. -/
def firstCause (i : Sys2Proof.Instr) : List Sys2Proof.Instr → Sys2Proof.Instr × List Sys2Proof.Instr
  | [] => (i, [])
  | j :: t => if causeFirst j i then ((firstCause j t).1, i :: (firstCause j t).2) else ((firstCause i t).1, j :: (firstCause i t).2)

/-- An event happens; an instruction of a path is no event and is passed over. -/
def State.happen (i : Sys2Proof.Instr) (s : State) : Out :=
  if (encode i).isSome then .next s
  else
    match exec i (if Instr.loomStep i then s else s.seenAll) with
    | .next t => .next (s.settleDown t)
    | .fault f => .fault f
    | .refused f => .refused f

/-! ### Paths of one group that issue in one cycle (R242) -/

/-- The s registers that an instruction of type t writes: the first, and whether it is a pair. -/
def Instr.writesS (t : Nat) (i : Sys2Proof.Instr) : Option (Nat × Bool) :=
  let h := Instr.shape i
  match i with
  | .loop c _ => some (c.toNat, false)
  | .srd _ _ n => if h.w = 0 then some (h.d, sysWide n.toNat) else none
  | .cyc .. => if h.w = 0 then some (h.d, true) else none
  | .ballot .. | .actm .. => if h.w = 0 then some (h.d, false) else none
  | _ => if h.dk = .S && h.w = 0 then some (h.d, tyIs64 t) else none

/-- Whether an instruction reads AFLAGS, and whether it replaces it (R331, R332). -/
def Instr.aflags : Sys2Proof.Instr → Bool × Bool
  | .srd _ _ n => (n == 0x0A, false)
  | .swr _ n => (false, n == 0x0A)
  | _ => (false, false)

/-- Whether an instruction writes its s register whatever ACTIVE is (R281). -/
def Instr.always : Sys2Proof.Instr → Bool
  | .loop .. => true
  | _ => false

/-- Registers of a list taken from one map into another. -/
def copyRegs (src dst : CMap 32) (l : List Nat) : CMap 32 := CMap.setMany dst (l.map fun n => (n, CMap.get src n))

/-- Path k issues in the cycle that began with s registers `pre` and flags `fl`: it reads those, and its writes come after the ones that
the group has. -/
def State.issueAt (s : State) (k cycles : Nat) (pre : CMap 32) (fl : BitVec 32) : Out :=
  match s.runAt k with
  | none => .next s
  | some r =>
    let i := match (s.fetch r).1 with
      | .instr i => i
      | _ => .nop
    let reads := (Instr.aflags i).1
    let s1 := (s.putGroup r.gk { r.group with s := pre, aflags := if reads then fl else 0 }).putCore r.wg.core
      { s.core r.wg.core with cycles := cycles }
    match s1.issue k with
    | .next t =>
      match FMap.get? t.groups r.gk with
      | none => .next t
      | some g =>
        let done := (FMap.get? t.paths k).any fun p => p.inH == r.path.inH
        let wrote := match Instr.writesS r.T i with
          | some (d, wide) => if done && (r.active != 0 || Instr.always i) then (if wide then [d, d + 1] else [d]) else []
          | none => []
        .next (t.putGroup r.gk { g with
          s := copyRegs g.s r.group.s wrote
          aflags := if done && (Instr.aflags i).2 then g.aflags else if reads then r.group.aflags else r.group.aflags ||| g.aflags })
    | .fault f => .fault f
    | .refused f => .refused f

/-- The paths of a list that may issue in one cycle, in the order of their writes: of one group, the one in its own slot first, then those
in borrowed slots, the oldest first. -/
def State.sameCycle (s : State) (ps : List Nat) : List Nat :=
  let l := (ps.eraseDups.filter fun k => k / 32 == ps.headD 0 / 32 && s.inTurn k)
  (l.filter fun k => !s.borrows k) ++ (slotSort ((s.pathsOf (ps.headD 0 / 32)).filter fun x => l.contains x.1 && s.borrows x.1)).map (·.1)

/-- Some paths of a group issue in one cycle (R242). -/
def State.cycle (s : State) (ps : List Nat) : Out :=
  let l := s.sameCycle ps
  match l.head?.bind s.runAt with
  | none => .next s
  | some r =>
    if s.stepping.isSome then .next s
    else
      let n := (s.core r.wg.core).cycles
      l.foldl (fun (o : Out) k => match o with
        | .next t => t.issueAt k n r.group.s r.group.aflags
        | o => o) (.next s)

/-- The next entry of the agenda (log 2). -/
def State.agendaStep (a : Agenda) (s : State) : Out :=
  match a with
  | .event i => s.happen i
  | .together [] => .next s
  | .together (i :: t) =>
    let x := firstCause i t
    State.happen x.1 { s with agenda := if x.2.isEmpty then s.agenda else .together x.2 :: s.agenda }
  | .issue p => .next (if s.inTurn p then { s with cur := p } else s)
  | .elapse core n => .next (s.settleDown (s.putCore core { s.core core with cycles := (s.core core).cycles + n }))
  | .hostBytes a bs => .next (s.settleDown { s with hostMem := Memory.writeBytes s.hostMem a bs })
  | .deviceBytes a bs => .next (s.settleDown { s with mem := Memory.writeBytes s.mem a bs })
  | .drop part page => .next { s with tlb := FMap.erase s.tlb (part * 2 ^ 36 + page) }
  | .hostBus fails => .next { s with hostErr := fails }
  | .lag on => .next { s.seenAll with lag := on }
  | .cycle ps => s.cycle ps

/-- With an empty agenda, a path issues. -/
def State.run (s : State) : Out :=
  match s.pick with
  | some k => s.issue k
  | none => .next s.idle

/-! ### A word where the next step fetches -/

/-- The address from which the next step fetches, if a path issues next. -/
def State.nextFetch (s : State) : Option Nat :=
  if !s.agenda.isEmpty then none
  else
    match s.pick with
    | none => none
    | some k => match s.runAt k with
      | none => none
      | some r => match (s.fetchAt r).1 with
        | .ok pa => some pa
        | .error _ => none

/-- A launch of one gang, one workgroup and one group, that has started. -/
def oneLaunch : Launch where
  part := 0
  queue := 0
  index := 0
  ctx := 0
  record := { kind := 1, after := false, settled := false, policy := 0, mapver := 1, gx := 1, gy := 1, gz := 1, wgs := 1, grps := 1
              stagemap := 0, slice := 1, scratch := 1, cluster := 1, chip := 1, entries := [], sched := [], sgrp := 0, args := 0
              doneAddr := 0, doneVal := 0, doneScope := 3, doneEn := false }
  next := 1
  started := true
  killed := false
  chip := []
  ktags := []
  chipDies := [1, 0, 0, 0]

/-- The machine with one launch running in context 0 of partition 0 at address 0x1000, aperture 0 over local memory, and one
2 MiB page that maps addresses to themselves (log 13). -/
def State.withProgram (s : State) : State :=
  let m := Memory.write (Memory.write (Memory.write s.mem 0x10000 16 (1 + 0x20000 * 2 ^ 64)) 0x20000 16 0xF) 0x20010 16 0
  let s1 := ({ s with mem := m, agenda := [], cur := 0, tlb := [], launches := FMap.set s.launches 0 oneLaunch }.putPart 0 { s.part 0 with
      en := true, pst := 1, pclust := 1, ptroot := 0x10000 }).putCtx 0 0 { s.ctx 0 0 with aper := [(0, 1)], swapst := 0 }
  (s1.putCtx 0 0 { s1.ctx 0 0 with nextSeq := 1 }).startGang 0
    { part := 0, ctx := 0, seq := 0, src := .launch 0, gx := 0, gy := 0, gz := 0, linear := 0, cluster := 0, pos := 0, nwg := 1
      status := 0, halted := false, clunits := 1, policy := 0, cmem := [], ctags := [], stageCtr := 0, evc := [], sched := []
      insts := [], cstat := 0, dq := [], lost := false, traces := [] } 1 1 1 [] [0x1000] []

end Sys2Proof.Machine
end

