-- ==== Sys2Proof/Machine/Step.lean ====
section
/-! DEFINITION. One step of the package: the next entry of the agenda, or the issue of one instruction. -/

namespace Sys2Proof.Machine

/-- One step. -/
def step (s : State) : Host.Outcome State Fault Refusal :=
  match s.agenda with
  | a :: rest => State.agendaStep a { s with agenda := rest }
  | [] => s.run

/-- The state with an instruction word where the next step fetches. -/
def State.withFetchWord (s : State) (nbits w : Nat) : State :=
  match (if nbits ≤ 32 then s.nextFetch else none) with
  | some pa => { s with mem := Memory.write s.mem pa 4 w }
  | none => { s.withProgram with mem := Memory.write s.withProgram.mem 0x1000 4 w }

end Sys2Proof.Machine
end

