-- ==== Sys2Proof/Machine/Registers.lean ====
section
/-! DEFINITION. What a host's read of a device register answers (spec/00_scope.md R5, R6; the layout is R72's). A read changes
nothing: it is a function of the state and no step. A 64-bit register reads as two words, the low one first. Reserved bits and
write-only registers read as zero. -/

namespace Sys2Proof.Machine

/-- Word i of a register. -/
def word32 {n : Nat} (x : BitVec n) (i : Nat) : BitVec 32 := x.extractLsb' (32 * i) 32

/-- A bit field at a place of a word. -/
def fieldAt (x lo : Nat) : BitVec 32 := BitVec.ofNat 32 (x * 2 ^ lo)

/-- A flag at a place of a word. -/
def flagAt (b : Bool) (lo : Nat) : BitVec 32 := fieldAt b.toNat lo

/-- A function's own registers (R85). -/
def Fn.read (f : Fn) : Nat → BitVec 32
  | 0x00 => word32 f.base 0
  | 0x04 => word32 f.base 1
  | 0x08 => fieldAt f.log 0
  | 0x0C => f.head
  | 0x10 => f.tail
  | 0x14 => f.lost
  | _ => 0

/-- A pigeonhole's registers (R148). -/
def Hole.read (h : Hole) : Nat → BitVec 32
  | 0x00 => word32 h.base 0
  | 0x04 => word32 h.base 1
  | 0x08 => fieldAt h.log 0 ||| fieldAt h.ctx 8 ||| flagAt h.hostfed 14
  | 0x0C => h.tail
  | 0x10 => h.head
  | 0x14 => h.err.setWidth 32
  | _ => 0

/-- A launch queue's registers (R75): TAIL and KILL are write-only. -/
def Queue.read (q : Queue) : Nat → BitVec 32
  | 0x00 => word32 q.base 0
  | 0x04 => word32 q.base 1
  | 0x08 => fieldAt q.log 0 ||| fieldAt q.ctx 8 ||| fieldAt q.prio 16
  | 0x10 => q.head
  | 0x14 => flagAt q.err 0
  | _ => 0

/-- The debug registers (R88): CMD is write-only. -/
def Debug.read (d : Debug) : Nat → BitVec 32
  | 0x80 => d.gang
  | 0x84 => fieldAt d.wg 0 ||| fieldAt d.grp 3 ||| fieldAt d.split 7 ||| fieldAt d.lane 9 ||| flagAt d.frag 14 ||| fieldAt d.fnum 15
  | 0x88 => fieldAt d.reg 0 ||| fieldAt d.word 16
  | 0x8C => d.data
  | 0x94 => d.status.setWidth 32
  | _ => 0

/-- A context window's registers (R81, R102, R145, R160, R185), APER0–APER7 from 0xC0: SYSREPLY, RESCLR, SWAPCMD, HOSTACK and SEALGRP are write-only. -/
def Ctx.read (c : Ctx) : Nat → BitVec 32
  | 0x00 => word32 c.mapbuf 0
  | 0x04 => word32 c.mapbuf 1
  | 0x08 => word32 c.sysbase 0
  | 0x0C => word32 c.sysbase 1
  | 0x10 => fieldAt c.syslog 0
  | 0x14 => c.syshead
  | 0x18 => c.systail
  | 0x28 => word32 c.resbase 0
  | 0x2C => word32 c.resbase 1
  | 0x30 => fieldAt c.reslog 0
  | 0x34 => c.reshead
  | 0x38 => c.restail
  | 0x3C => c.resovf
  | 0x48 => c.swapst.setWidth 32 ||| flagAt c.suspmap 2
  | 0x50 => word32 c.savearea 0
  | 0x54 => word32 c.savearea 1
  | 0x58 => word32 c.sgbase 0
  | 0x5C => word32 c.sgbase 1
  | 0x60 => fieldAt c.sgn 0
  | 0x64 => flagAt c.sealing.isSome 16 ||| flagAt c.sealerr 17
  | 0x68 => word32 c.hentry 0
  | 0x6C => word32 c.hentry 1
  | 0x70 => c.issuepol
  | 0x98 => word32 c.preg 0
  | 0x9C => word32 c.preg 1
  | 0xA0 => c.prstat.setWidth 32
  | n => if 0xC0 ≤ n then word32 (CMap.get c.aper ((n - 0xC0) / 8)) (n / 4 % 2) else c.dbg.read n

/-- Firmware and attestation, from 0x3_0800 (R20): FWCMD, NONCE and ATTCMD are write-only. -/
def Mgmt.read (m : Mgmt) : Nat → BitVec 32
  | 0x00 => m.fwstat.setWidth 32
  | 0x08 => word32 m.fwbase 0
  | 0x0C => word32 m.fwbase 1
  | 0x10 => m.fwlen
  | 0x40 => word32 m.attbuf 0
  | 0x44 => word32 m.attbuf 1
  | 0x4C => m.attst.setWidth 32
  | 0x50 => m.attlen.setWidth 32
  | 0x54 => m.leaves.setWidth 32
  | _ => 0

/-- A word of MAP (R20, R21). -/
def Mgmt.mapWord (m : Mgmt) (off : Nat) : BitVec 32 := BitVec.ofNat 32 (leNat ((m.record.drop off).take 4))

/-- A link's registers (R47): the command register, the staging keys and the salts are write-only. -/
def Link.read (l : Link) : Nat → BitVec 32
  | 0x00 => l.tmo.setWidth 32
  | 0x04 => l.signal.setWidth 32 ||| fieldAt l.txslot.toNat 2 ||| flagAt l.frankack 3 ||| flagAt l.keywarn 4 ||| flagAt l.keyheld 5 |||
      flagAt l.keyerr 6
  | 0x08 => word32 (CMap.get l.cnt 0) 0
  | 0x0C => word32 (CMap.get l.cnt 0) 1
  | 0x10 => word32 (CMap.get l.cnt 1) 0
  | 0x14 => word32 (CMap.get l.cnt 1) 1
  | 0x18 => l.warnexp.setWidth 32
  | 0x1C => l.late
  | 0x20 => l.tmocnt
  | 0x24 => l.failcnt
  | _ => 0

/-- The compositing jobs that run (ACTIVE, R71). -/
def Selv.active (x : Selv) : Nat := (x.jobs.filter fun j => j.2.running).length

/-- The Selvedge's registers and collective set-up (R62, R71): ENTRY and CCMD are write-only. -/
def Selv.read (x : Selv) : Nat → BitVec 32
  | 0x00 => x.offign
  | 0x04 => x.uuddrop
  | 0x08 => x.stale
  | 0x0C => x.notefail
  | 0x10 => x.jobfail
  | 0x14 => fieldAt x.active 0
  | 0x18 => x.notetmo
  | 0x100 => x.cid.setWidth 32 ||| fieldAt x.cpart.toNat 16 ||| fieldAt x.cctx.toNat 20
  | 0x144 => x.cst.setWidth 32
  | _ => 0

/-- A partition's control block (R74). -/
def State.readPart (s : State) (n : Nat) : Nat → BitVec 32
  | 0x00 => (s.part n).pclust.setWidth 32 ||| fieldAt (s.part n).home.toNat 24
  | 0x04 => flagAt (s.partEn n) 0
  | 0x08 => (s.partPst n).setWidth 32
  | _ => 0

/-- A partition's translation control block (R109): INVCMD is write-only; SBSIZE reads as written last. -/
def Part.readXlat (p : Part) : Nat → BitVec 32
  | 0x00 => word32 p.ptroot 0
  | 0x04 => word32 p.ptroot 1
  | 0x08 => word32 p.invia 0
  | 0x0C => word32 p.invia 1
  | 0x14 => flagAt p.invbusy 0
  | 0x18 => word32 p.sbbase 0
  | 0x1C => word32 p.sbbase 1
  | 0x20 => p.sbnext
  | 0x28 => word32 p.ftbase 0
  | 0x2C => word32 p.ftbase 1
  | 0x30 => fieldAt p.ftlog 0
  | 0x34 => p.fthead
  | 0x38 => p.fttail
  | _ => 0

/-- PF0's management window (R72). -/
def State.readMgmt (s : State) (off : Nat) : BitVec 32 :=
  if off < 0x30000 then 0
  else if off < 0x30800 then s.mgmt.mapWord (off - 0x30000)
  else if off < 0x30900 then s.mgmt.read (off - 0x30800)
  else if off < 0x40000 then 0
  else if off < 0x41000 then (s.link ((off - 0x40000) / 0x100)).read (off % 0x100)
  else if off < 0x50000 then 0
  else if off < 0x50200 then s.selv.read (off - 0x50000)
  else if off < 0x60000 then 0
  else if off < 0x60120 then s.readPart ((off - 0x60000) / 0x20) (off % 0x20)
  else if off < 0x61000 then 0
  else if off < 0x61240 then (s.part ((off - 0x61000) / 0x40)).readXlat (off % 0x40)
  else if off < 0x62000 then 0
  else if off < 0x62120 then word32 (CMap.get (s.part ((off - 0x62000) / 0x20)).phmask (off % 0x20 / 8)) (off / 4 % 2)
  else 0

/-- The launch queues and context windows of a partition (R72). -/
def State.readHeld (s : State) (n off : Nat) : BitVec 32 :=
  if off < 0x10000 then 0
  else if off < 0x10400 then (s.queue (queueKey n ((off - 0x10000) / 0x40))).read (off % 0x40)
  else if off < 0x20000 then 0
  else if off < 0x24000 then (s.ctx n ((off - 0x20000) / 0x100)).read (off % 0x100)
  else 0

/-- The 32-bit word at a multiple of 4 in a function's BAR0 (R72, R148): what the function does not expose reads as zero, and a
function that does not exist answers nothing. -/
def State.registerRead (s : State) (fn off : Nat) : Option (BitVec 32) :=
  if !s.fnExists fn || off % 4 ≠ 0 then none
  else some (
    if off < 0x1000 then (s.fn fn).read off
    else if fn = 9 then 0
    else if off < 0x3000 then
      let h := (off - 0x1000) / 0x20
      if (s.holeOwner h).isNone || s.holeOwner h ≠ s.fnPart fn then 0 else (s.hole h).read ((off - 0x1000) % 0x20)
    else if off < 0x30000 then
      match s.fnPart fn with
      | some n => s.readHeld n off
      | none => 0
    else if fn = 0 then s.readMgmt off else 0)

end Sys2Proof.Machine
end

