-- ==== Sys2Proof/WellFormed.lean ====
section
/-! DEFINITION. Well-formed instructions: no field makes the instruction ILLEGAL whatever gm and the mode hold
(spec/13_formats_and_opcode_map.md R226-R231, R240). What depends on gm is checked at execution. -/

namespace Sys2Proof

/-- The static conditions of R226-R231 on the fields of an instruction. -/
def Instr.wellFormed (i : Instr) : Bool := Machine.Instr.staticOk i

end Sys2Proof
end

