-- ==== Sys2Proof/Safety.lean ====
section
/-! DEFINITION. The terms in which claims about the machine are stated: runs that go on, the canonical form of memory,
what an instruction of each kind leaves, what an observer reads. -/

namespace Sys2Proof.Machine

/-- The outcome is a next state with a property. -/
def Answers (o : Out) (P : State → Prop) : Prop := ∃ t, o = .next t ∧ P t

/-- The canonical form of both memories. -/
def State.memOk (s : State) : Prop := s.mem.wf = true ∧ s.hostMem.wf = true

/-- A safe run: n steps from a state, each answering a next state whose memories keep their form. -/
def safeRun : Nat → State → Prop
  | 0, s => s.memOk
  | n + 1, s => s.memOk ∧ ∃ t, step s = .next t ∧ safeRun n t

/-! ### Frames -/

/-- Every byte of device memory and of host memory reads as before. -/
def MemSame (s t : State) : Prop :=
  (∀ a, CMap.get t.mem a = CMap.get s.mem a) ∧ ∀ a, CMap.get t.hostMem a = CMap.get s.hostMem a

/-- Nothing of the machine differs but the executing path's record and its group's; every byte reads as before. -/
def OnlyRun (s t : State) (r : Run) (g : Group) (p : Path) : Prop :=
  t = (s.putGroup r.gk g).putPath r.key p ∧ MemSame s t

/-- Nothing of the machine differs but the executing path's record; every byte reads as before. -/
def OnlyPath (s t : State) (r : Run) (p : Path) : Prop := t = s.putPath r.key p ∧ MemSame s t

/-- The path at PC + 4 after an instruction that is no switch point: no other part of it differs. -/
def Advanced (p q : Path) : Prop := q = { p with pc := p.pc + 4, wait := .ready }

/-- The latches of q are those of p after a result (R232): fw0 (and fw1 for a 64-bit one) takes it in the lanes of `act`
and is dead elsewhere, and each older latch moves up in every lane of the path. -/
def Shifted (p q : Path) (act : BitVec 32) (wide : Bool) (val : Nat → BitVec 64) : Prop :=
  CMap.get q.live 0 = act ∧
  (∀ L, L < 32 → act.getLsbD L = true → q.latch 0 L = (val L).setWidth 32) ∧
  (wide = true → CMap.get q.live 1 = act ∧
    ∀ L, L < 32 → act.getLsbD L = true → q.latch 1 L = (val L).extractLsb' 32 32) ∧
  ∀ k, k + (if wide then 2 else 1) < 4 →
    CMap.get q.live (k + (if wide then 2 else 1)) = CMap.get p.live k ∧
    ∀ L, L < 32 → p.mask.getLsbD L = true → q.latch (k + (if wide then 2 else 1)) L = p.latch k L

/-- AFLAGS keeps its bits and takes the flags of the lanes of `act` (R123). -/
def FlagsFrom (old new : BitVec 32) (act : BitVec 32) (fl : Nat → Flags) : Prop :=
  ∀ i, i < 32 → new.getLsbD i = (old.getLsbD i || (lanesOf act).any fun L => (fl L).getLsbD i)

/-- What an instruction of kind V leaves (R228, R232, R241): in the ACTIVE lanes vD, or the pair vD:vD+1, holds the value
unless W is 1; the latches shift; AFLAGS takes the flags; the pc advances by 4; all else stands. -/
def VResult (s t : State) (r : Run) (w : BitVec 1) (d : Nat) (wide : Bool) (val : Nat → BitVec 64) (fl : Nat → Flags) : Prop :=
  ∃ g p, OnlyRun s t r g p ∧
    g = { r.group with v := g.v, aflags := g.aflags } ∧
    (∀ n L, L < 32 → g.vreg n L =
      if w = 0 ∧ r.active.getLsbD L = true ∧ n = d then (val L).setWidth 32
      else if w = 0 ∧ wide = true ∧ r.active.getLsbD L = true ∧ n = d + 1 then (val L).extractLsb' 32 32
      else r.group.vreg n L) ∧
    FlagsFrom r.group.aflags g.aflags r.active fl ∧
    Advanced { r.path with fw := p.fw, live := p.live } p ∧
    Shifted r.path p r.active wide val

/-- What an instruction of kind S leaves (R228, R232, R242): sD, or sD:sD+1, holds the value unless W is 1 or ACTIVE is
empty; fw0 of every ACTIVE lane takes it; AFLAGS takes the flags unless ACTIVE is empty; the pc advances by 4. -/
def SResult (s t : State) (r : Run) (w : BitVec 1) (d : Nat) (wide : Bool) (val : BitVec 64) (fl : Flags) : Prop :=
  ∃ g p, OnlyRun s t r g p ∧
    g = { r.group with s := g.s, aflags := g.aflags } ∧
    (∀ n, g.sreg n =
      if w = 0 ∧ r.active ≠ 0 ∧ n = d then val.setWidth 32
      else if w = 0 ∧ wide = true ∧ r.active ≠ 0 ∧ n = d + 1 then val.extractLsb' 32 32
      else r.group.sreg n) ∧
    FlagsFrom r.group.aflags g.aflags r.active (fun _ => fl) ∧
    Advanced { r.path with fw := p.fw, live := p.live } p ∧
    Shifted r.path p r.active wide fun _ => val

/-- What an instruction of kind P leaves (R231, R254): predicate D holds the value in the ACTIVE lanes and is as before in
the others; the pc advances by 4; no latch, flag or register changes. A predicate p0 is not held: it reads true. -/
def PResult (s t : State) (r : Run) (d : Nat) (val : Nat → Bool) : Prop :=
  ∃ g p, OnlyRun s t r g p ∧
    g = { r.group with p := g.p } ∧
    (∀ n L, L < 32 → (g.pred n).getLsbD L =
      if n = d ∧ n ≠ 0 ∧ r.active.getLsbD L = true then val L else (r.group.pred n).getLsbD L) ∧
    Advanced r.path p

/-- The path past a switch point that does not wait, at an address: its latches dead (R233), the context's apertures seen
(R104), no other part of it different. -/
def Switched (s : State) (r : Run) (q : Path) (at_ : BitVec 64) : Prop :=
  q = { r.path with
    pc := at_, live := [], aper := r.path.held.getD (s.rctx r).aper, held := none, wait := .ready, mid := false }

/-! ### When an instruction runs -/

/-- The path at `cur` executes: it is there with its group, workgroup and gang. -/
def Executing (s : State) (r : Run) : Prop := s.run? = some r

/-- The instruction meets neither ILLEGAL (R240) nor LATCH (R233): its fields are legal for a gm type the class accepts, with
even registers where D, A or B is a pair, and no ACTIVE lane reads a dead latch. -/
def Clear (r : Run) (i : Instr) (acc : Nat → Bool) (wd wa wb : Bool) : Prop :=
  r.legal i acc wd wa wb = true ∧ r.deadOf i wa wb = 0

end Sys2Proof.Machine
end

