-- ==== Sys2Proof/Certificates/Slice0/Obligations.lean ====
section
/-! DEFINITION. The statements for the provers. `Sys2Proof.Claims` holds the tables and terms they are made of, written from
the rules they cite. -/

namespace Sys2Proof.Claims

open Sys2Proof.Machine

/-! ### Operands -/

/-- What a class of instructions accepts: values of gm.T and gm.S (R237), and whether D, A and B are pairs (R230). -/
structure OpClass where
  acc : Nat → Nat → Bool
  wd  : Nat → Nat → Bool
  wa  : Nat → Nat → Bool
  wb  : Nat → Nat → Bool

/-- A class whose D, A and B are all at the width of gm.T. -/
def uniform (acc : Nat → Bool) : OpClass := ⟨fun t _ => acc t, fun t _ => tyIs64 t, fun t _ => tyIs64 t, fun t _ => tyIs64 t⟩

/-- A class whose D is one 32-bit register and whose A and B are at the width of gm.T. -/
def narrowD (acc : Nat → Bool) : OpClass := ⟨fun t _ => acc t, fun _ _ => false, fun t _ => tyIs64 t, fun t _ => tyIs64 t⟩

/-- A conversion: D at the width of gm.T, A and B at that of gm.S (R271). -/
def conversion (counts : Nat → Nat → Bool) : OpClass :=
  ⟨fun t s => decide (t ≤ 13) && decide (s ≤ 14) && counts (tyElems s) (tyElems t),
    fun t _ => tyIs64 t, fun _ s => tyIs64 s, fun _ s => tyIs64 s⟩

/-- The classes of R237 with the narrower lists of the descriptions: the basic, integer, compare, predicate, float,
convert and lane instructions that have a destination. -/
def classOf : Instr → Option OpClass
  | .mov .. | .movs .. | .sel .. => some (uniform fun t => decide (t ≤ 14))
  | .add .. | .sub .. | .mul .. | .mulh .. | .mad .. | .min .. | .max .. | .abs .. | .neg .. | .absd .. | .avg .. =>
    some (uniform fun t => decide (t ≤ 7))
  | .and .. | .or .. | .xor .. | .andn .. | .not .. | .shl .. | .shr .. | .sar .. | .rot .. =>
    some (uniform fun t => decide (t ≤ 7))
  | .clz .. | .ctz .. | .popc .. | .brev .. | .bswap .. => some (uniform fun t => decide (t ≤ 7))
  | .bfx .. | .bfi .. => some (uniform fun t => t == 2 || t == 3 || t == 6 || t == 7)
  | .lea1 .. | .lea2 .. | .lea3 .. | .lea4 .. =>
    some { uniform (fun t => t == 2 || t == 3 || t == 6 || t == 7) with wb := fun _ _ => false }
  | .dot4 .. | .dotq .. => some (uniform fun t => t == 0 || t == 4)
  | .pack2 .. => some (uniform fun t => t == 1 || t == 5)
  | .prmb .. => some (uniform fun t => t == 2)
  | .ceq .. | .cne .. | .clt .. | .cle .. | .cgt .. | .cge .. => some (narrowD fun t => decide (t ≤ 13))
  | .cun .. => some (narrowD fun t => decide (8 ≤ t) && decide (t ≤ 13))
  | .ctst .. => some (narrowD fun t => decide (t ≤ 7))
  | .pand .. | .por .. | .pxor .. | .pnot .. | .pmov .. | .pget .. =>
    some ⟨fun t _ => decide (t ≤ 14), fun _ _ => false, fun _ _ => false, fun _ _ => false⟩
  | .fadd .. | .fsub .. | .fmul .. | .ffma .. | .ffms .. | .fnma .. | .fmin .. | .fmax .. | .fabs .. | .fneg .. =>
    some (uniform fun t => decide (8 ≤ t) && decide (t ≤ 11))
  | .fsqrt .. | .fdiv .. | .fflr .. | .fceil .. | .frnd .. | .ffrc .. | .fcls .. | .fscl .. | .fgete .. =>
    some (uniform fun t => decide (8 ≤ t) && decide (t ≤ 11))
  | .frcp .. | .frsq .. | .fexp2 .. | .flog2 .. | .fsinp .. | .fcosp .. =>
    some (uniform fun t => decide (8 ≤ t) && decide (t ≤ 10))
  | .fdot2 .. => some (uniform fun t => t == 8 || t == 9)
  | .cvt .. => some (conversion fun ns nt => ns == nt)
  | .cvpk .. => some (conversion fun ns nt => decide (ns < nt))
  | .cvlo .. | .cvhi .. => some (conversion fun ns nt => decide (nt < ns))
  | .shfli .. | .shflx .. | .shflb .. | .shflf .. | .ballot .. | .matchL .. | .actm .. => some (uniform fun t => decide (t ≤ 14))
  | .vany .. | .vall .. | .veq .. | .elect .. => some (narrowD fun t => decide (t ≤ 14))
  | .scan .. | .scanx .. | .reda .. | .redmn .. | .redmx .. => some (uniform fun t => decide (t ≤ 11))
  | _ => none

/-- The instruction is legal under the gm that its path holds. -/
def OpClass.legal (c : OpClass) (r : Run) (i : Instr) : Bool :=
  r.legal i (fun t => c.acc t (gmS r.path.gm)) (c.wd r.T (gmS r.path.gm)) (c.wa r.T (gmS r.path.gm)) (c.wb r.T (gmS r.path.gm))

/-- The ACTIVE lanes that read a dead latch. -/
def OpClass.dead (c : OpClass) (r : Run) (i : Instr) : BitVec 32 := r.deadOf i (c.wa r.T (gmS r.path.gm)) (c.wb r.T (gmS r.path.gm))

/-- The instruction executes: it meets neither ILLEGAL nor LATCH. -/
def Runs (r : Run) (i : Instr) : Prop := ∃ c, classOf i = some c ∧ c.legal r i = true ∧ c.dead r i = 0

/-- Lane L of the executing path's ACTIVE set. -/
def On (r : Run) (L : Nat) : Prop := L < 32 ∧ r.active.getLsbD L = true

/-- Element k of a register or pair (R242). -/
def el (n : Nat) (x : BitVec 64) (k : Nat) : BitVec n := x.extractLsb' (n * k) n

/-- Every element of a value. -/
def Elems (t : Nat) (x : BitVec 64) (P : (k : Nat) → BitVec (tyBits t) → Prop) : Prop :=
  ∀ k, k < tyElems t → P k (el (tyBits t) x k)

/-- An element read as a signed or an unsigned number (R114). -/
def ival (t : Nat) (x : BitVec n) : Int := if tyIsI t then x.toInt else (x.toNat : Int)

/-- The range of gm.T (R115). -/
def lowest (t : Nat) : Int := if tyIsI t then -(2 ^ (tyBits t - 1) : Int) else 0
def highest (t : Nat) : Int := if tyIsI t then 2 ^ (tyBits t - 1) - 1 else 2 ^ tyBits t - 1

/-- CLAMP (R115). -/
def clamp (t : Nat) (x : Int) : Int := if x < lowest t then lowest t else if highest t < x then highest t else x

/-- The fields of a kind-V instruction of two sources. -/
structure Ops where
  w : BitVec 1
  d : BitVec 7
  a : BitVec 8
  b : BitVec 8

/-- R247: the exact result of each arithmetic instruction on elements a, b and d of width n, and whether it saturates
under gm.SAT (R246). -/
def arithOf : Instr → Option (Ops × Bool × (Nat → Int → Int → Int → Int))
  | .add w d a b => some (⟨w, d, a, b⟩, true, fun _ x y _ => x + y)
  | .sub w d a b => some (⟨w, d, a, b⟩, true, fun _ x y _ => x - y)
  | .mul w d a b => some (⟨w, d, a, b⟩, true, fun _ x y _ => x * y)
  | .mulh w d a b => some (⟨w, d, a, b⟩, false, fun n x y _ => Int.fdiv (x * y) (2 ^ n))
  | .mad w d a b => some (⟨w, d, a, b⟩, true, fun _ x y z => x * y + z)
  | .min w d a b => some (⟨w, d, a, b⟩, false, fun _ x y _ => if x ≤ y then x else y)
  | .max w d a b => some (⟨w, d, a, b⟩, false, fun _ x y _ => if x ≤ y then y else x)
  | .abs w d a => some (⟨w, d, a, 0xA4⟩, true, fun _ x _ _ => if x < 0 then -x else x)
  | .neg w d a => some (⟨w, d, a, 0xA4⟩, true, fun _ x _ _ => -x)
  | .absd w d a b => some (⟨w, d, a, b⟩, false, fun _ x y _ => if x < y then y - x else x - y)
  | .avg w d a b => some (⟨w, d, a, b⟩, false, fun _ x y _ => Int.fdiv (x + y + 1) 2)
  | _ => none

/-- R248, R249: the relation between the elements of a and b and the result of each instruction on bit patterns. -/
def bitsOf : Instr → Option (Ops × ((n : Nat) → BitVec n → BitVec n → BitVec n → Prop))
  | .and w d a b => some (⟨w, d, a, b⟩, fun _ x y z => z = x &&& y)
  | .or w d a b => some (⟨w, d, a, b⟩, fun _ x y z => z = x ||| y)
  | .xor w d a b => some (⟨w, d, a, b⟩, fun _ x y z => z = x ^^^ y)
  | .andn w d a b => some (⟨w, d, a, b⟩, fun _ x y z => z = x &&& ~~~y)
  | .not w d a => some (⟨w, d, a, 0xA4⟩, fun _ x _ z => z = ~~~x)
  | .shl w d a b => some (⟨w, d, a, b⟩, fun n x y z => z = if n ≤ y.toNat then 0 else x <<< y.toNat)
  | .shr w d a b => some (⟨w, d, a, b⟩, fun n x y z => z = if n ≤ y.toNat then 0 else x >>> y.toNat)
  | .sar w d a b => some (⟨w, d, a, b⟩, fun n x y z =>
      ∀ i, i < n → z.getLsbD i = x.getLsbD (if i + y.toNat < n then i + y.toNat else n - 1))
  | .rot w d a b => some (⟨w, d, a, b⟩, fun n x y z =>
      ∀ i, i < n → z.getLsbD ((i + y.toNat % n) % n) = x.getLsbD i)
  | .clz w d a => some (⟨w, d, a, 0xA4⟩, fun n x _ z =>
      z.toNat ≤ n ∧ (∀ i, i < z.toNat → x.getLsbD (n - 1 - i) = false) ∧
        (z.toNat < n → x.getLsbD (n - 1 - z.toNat) = true))
  | .ctz w d a => some (⟨w, d, a, 0xA4⟩, fun n x _ z =>
      z.toNat ≤ n ∧ (∀ i, i < z.toNat → x.getLsbD i = false) ∧ (z.toNat < n → x.getLsbD z.toNat = true))
  | .popc w d a => some (⟨w, d, a, 0xA4⟩, fun n x _ z => z.toNat = ((List.range n).filter fun i => x.getLsbD i).length)
  | .brev w d a => some (⟨w, d, a, 0xA4⟩, fun n x _ z => ∀ i, i < n → z.getLsbD i = x.getLsbD (n - 1 - i))
  | .bswap w d a => some (⟨w, d, a, 0xA4⟩, fun n x _ z =>
      ∀ j i, j < n / 8 → i < 8 → z.getLsbD (8 * j + i) = x.getLsbD (8 * (n / 8 - 1 - j) + i))
  | _ => none

/-- LEA's scale (R251). -/
def leaOf : Instr → Option (Ops × Nat)
  | .lea1 w d a b => some (⟨w, d, a, b⟩, 1)
  | .lea2 w d a b => some (⟨w, d, a, b⟩, 2)
  | .lea3 w d a b => some (⟨w, d, a, b⟩, 3)
  | .lea4 w d a b => some (⟨w, d, a, b⟩, 4)
  | _ => none

/-- The bits of a field of y (R250): its position and its length, both within w bits. -/
def fieldPos (n : Nat) (y : BitVec 64) : Nat := min (y.extractLsb' 0 8).toNat n
def fieldLen (n : Nat) (y : BitVec 64) : Nat := min (y.extractLsb' 8 8).toNat (n - fieldPos n y)

/-- The sum of R252: d and the products of the n-bit fields of x and y, signed or not. -/
def dotSum (n : Nat) (signed : Bool) (d : Int) (x y : BitVec 32) : Int :=
  (List.range (32 / n)).foldl (fun c k =>
    let p : BitVec n := x.extractLsb' (n * k) n
    let q : BitVec n := y.extractLsb' (n * k) n
    c + (if signed then p.toInt else (p.toNat : Int)) * (if signed then q.toInt else (q.toNat : Int))) d

/-- The field width of DOT4 and DOTQ (R252). -/
def dotOf : Instr → Option (Ops × Nat)
  | .dot4 w d a b => some (⟨w, d, a, b⟩, 8)
  | .dotq w d a b => some (⟨w, d, a, b⟩, 4)
  | _ => none

/-- A result narrowed to n bits under gm.SAT, with the range of a type (R115). -/
def narrowed (sat : Bool) (t : Nat) (n : Nat) (e : Int) : BitVec n := BitVec.ofInt n (if sat = true then clamp t e else e)

/-- The order of two elements (R254): integers by value, floats by value with −0 equal to +0 and subnormals read under FTZ;
none when one is a NaN. -/
def order (t : Nat) (ftz : Bool) (x y : BitVec (tyBits t)) : Option Ordering :=
  if t ≤ 7 then some (compare (ival t x) (ival t y))
  else FV.cmp? ((fmtOf t).read ftz x.toNat) ((fmtOf t).read ftz y.toNat)

/-- The relation of CEQ, CLT, CLE, CGT and CGE (R254). -/
def relOf : Instr → Option (BitVec 3 × BitVec 8 × BitVec 8 × (Option Ordering → Prop))
  | .ceq d a b => some (d, a, b, fun o => o = some .eq)
  | .clt d a b => some (d, a, b, fun o => o = some .lt)
  | .cle d a b => some (d, a, b, fun o => o = some .lt ∨ o = some .eq)
  | .cgt d a b => some (d, a, b, fun o => o = some .gt)
  | .cge d a b => some (d, a, b, fun o => o = some .gt ∨ o = some .eq)
  | _ => none

/-- A predicate operand (R231): p0 is true, the negate bit inverts. -/
def predIn (r : Run) (n : BitVec 1) (a : BitVec 3) (L : Nat) : Bool :=
  (if a = 0 then true else (CMap.get r.group.p a.toNat).getLsbD L) != (n == 1)

/-- PAND, POR, PXOR, PNOT and PMOV (R256). -/
def predOf : Instr → Option (BitVec 3 × (Run → Nat → Bool))
  | .pand d n a m b => some (d, fun r L => predIn r n a L && predIn r m b L)
  | .por d n a m b => some (d, fun r L => predIn r n a L || predIn r m b L)
  | .pxor d n a m b => some (d, fun r L => predIn r n a L != predIn r m b L)
  | .pnot d n a => some (d, fun r L => !predIn r n a L)
  | .pmov d n a => some (d, fun r L => predIn r n a L)
  | _ => none

/-- The source lane of a shuffle (R258), if it exists. -/
def laneOf : Instr → Option (Ops × (Nat → Nat → Option Nat))
  | .shfli w d a b => some (⟨w, d, a, b⟩, fun _ y => some (y % 32))
  | .shflx w d a b => some (⟨w, d, a, b⟩, fun L y => some (L ^^^ (y % 32)))
  | .shflb w d a b => some (⟨w, d, a, b⟩, fun L y => if L < y then none else some (L - y))
  | .shflf w d a b => some (⟨w, d, a, b⟩, fun L y => if 31 < L + y then none else some (L + y))
  | _ => none

/-- ADDOP (R260) on elements of type t. -/
def addop (gm : BitVec 32) (t : Nat) (x y : BitVec (tyBits t)) : BitVec (tyBits t) × Flags :=
  if t ≤ 7 then
    (narrowed (gm.getLsbD 13) t (tyBits t) (ival t x + ival t y),
      if gm.getLsbD 13 = true ∧ clamp t (ival t x + ival t y) ≠ ival t x + ival t y then fSAT else 0)
  else (BitVec.ofNat _ ((fmtOf t).addOp (gmRnd gm) false x.toNat y.toNat).1, ((fmtOf t).addOp (gmRnd gm) false x.toNat y.toNat).2)

/-- An element that no other is added to: an integer's bits, a float as read under FTZ, the canonical NaN for a NaN (R117, R121). -/
def alone (gm : BitVec 32) (t : Nat) (x : BitVec (tyBits t)) : BitVec (tyBits t) :=
  if t ≤ 7 then x
  else if ((fmtOf t).decode x.toNat).isNaN = true then BitVec.ofNat _ (fmtOf t).nan
  else BitVec.ofNat _ ((fmtOf t).flush (gmRnd gm).ftz x.toNat)

/-- The fold of ADDOP over elements in order; 0 for none (R260). -/
def foldAdd (gm : BitVec 32) (t : Nat) : List (BitVec (tyBits t)) → BitVec (tyBits t) × Flags
  | [] => (0, 0)
  | x :: l => l.foldl (fun c y => ((addop gm t c.1 y).1, c.2 ||| (addop gm t c.1 y).2)) (alone gm t x, 0)

/-- Element k of a in the lanes of a list. -/
def column (r : Run) (a : BitVec 8) (k : Nat) (l : List Nat) : List (BitVec (tyBits r.T)) :=
  l.map fun Q => el (tyBits r.T) (r.src r.T a Q) k

/-- Whether x lies below y (R260, R264): by value, −0 below +0. -/
def below (x y : FV) : Prop := FV.cmp? x y = some .lt ∨ (FV.cmp? x y = some .eq ∧ x.sign = true ∧ y.sign = false)

/-- z is the least, or the greatest, of a column (R260): an element of it that no other is beyond; for floats over the
elements that are no NaN, as read under FTZ, and the canonical NaN when each is one. -/
def Extreme (gm : BitVec 32) (t : Nat) (greatest : Bool) (l : List (BitVec (tyBits t))) (z : BitVec (tyBits t)) : Prop :=
  if t ≤ 7 then z ∈ l ∧ ∀ y ∈ l, if greatest = true then ival t y ≤ ival t z else ival t z ≤ ival t y
  else
    let val := fun x : BitVec (tyBits t) => (fmtOf t).read (gmRnd gm).ftz x.toNat
    let kept := fun x : BitVec (tyBits t) => BitVec.ofNat (tyBits t) ((fmtOf t).flush (gmRnd gm).ftz x.toNat)
    ((∀ y ∈ l, (val y).isNaN = true) → z = BitVec.ofNat _ (fmtOf t).nan) ∧
    ((∃ y ∈ l, (val y).isNaN = false) → (∃ y ∈ l, z = kept y ∧ (val y).isNaN = false) ∧
      ∀ y ∈ l, (val y).isNaN = false →
        ¬ if greatest = true then below ((fmtOf t).decode z.toNat) (val y) else below (val y) ((fmtOf t).decode z.toNat))

/-- A finite value as a multiple of 2^e, for an e at most its exponent. -/
def scaled (v : FV) (e : Int) : Int :=
  match v with
  | .fin neg m x => (if neg = true then -1 else 1) * (m : Int) * 2 ^ (x - e).toNat
  | _ => 0

/-- A finite value's exponent. -/
def expo : FV → Int
  | .fin _ _ x => x
  | _ => 0

/-- Whether a value is finite, and whether it is a zero. -/
def FinVal (v : FV) : Prop := ∃ n m x, v = .fin n m x
def ZeroVal (v : FV) : Prop := ∃ n x, v = .fin n 0 x

/-- The real number that a finite value is. -/
def IsReal (v : FV) (x : ℝ) : Prop :=
  match v with
  | .fin n m e => x = (if n = true then -1 else 1) * (m : ℝ) * (2 : ℝ) ^ e
  | _ => False

/-- One unit in the last place of f32 at a real number. -/
def UlpAt (v u : ℝ) : Prop := ∃ k : Int, (2 : ℝ) ^ k ≤ |v| ∧ |v| < (2 : ℝ) ^ (k + 1) ∧ u = (2 : ℝ) ^ max (k - 23) (-149)

/-- An f32 result lies within b of v, or is a subnormal that FTZ has made zero (R121). -/
def Near (r : Rnd) (z : Nat × Flags) (v b : ℝ) : Prop :=
  ∃ y, IsReal (fmtF32.decode z.1) y ∧ (|y - v| ≤ b ∨ (r.ftz = true ∧ y = 0 ∧ z.2 = fUF ||| fNX))

/-- The formats of R117 and R119. -/
def formats : List Fmt := [fmtF16, fmtBF16, fmtF32, fmtF64, fmtF8A, fmtF8B, fmtA80]

/-- The encoding of a sign, an exponent field and a fraction field. -/
def enc (f : Fmt) (s : Bool) (ex fr : Nat) : Nat := (if s = true then f.signBit else 0) + ex * 2 ^ f.fbits + fr

/-- The operation of each float instruction on the elements of a, b and d, as the model's exact functions give it. -/
def floatOf : Instr → Option (Ops × (Nat → BitVec 32 → Nat → Nat → Nat → Nat × Flags))
  | .fadd w d a b => some (⟨w, d, a, b⟩, fun t gm x y _ => (fmtOf t).addOp (gmRnd gm) false x y)
  | .fsub w d a b => some (⟨w, d, a, b⟩, fun t gm x y _ => (fmtOf t).addOp (gmRnd gm) true x y)
  | .fmul w d a b => some (⟨w, d, a, b⟩, fun t gm x y _ => (fmtOf t).mulOp (gmRnd gm) x y)
  | .ffma w d a b => some (⟨w, d, a, b⟩, fun t gm x y z => (fmtOf t).fmaOp (gmRnd gm) false false x y z)
  | .ffms w d a b => some (⟨w, d, a, b⟩, fun t gm x y z => (fmtOf t).fmaOp (gmRnd gm) false true x y z)
  | .fnma w d a b => some (⟨w, d, a, b⟩, fun t gm x y z => (fmtOf t).fmaOp (gmRnd gm) true false x y z)
  | .fdiv w d a b => some (⟨w, d, a, b⟩, fun t gm x y _ => (fmtOf t).divOp (gmRnd gm) x y)
  | .fsqrt w d a => some (⟨w, d, a, 0xA4⟩, fun t gm x _ _ => (fmtOf t).sqrtOp (gmRnd gm) x)
  | .fmin w d a b => some (⟨w, d, a, b⟩, fun t gm x y _ => ((fmtOf t).minMaxOp (gm.getLsbD 14) false x y, 0))
  | .fmax w d a b => some (⟨w, d, a, b⟩, fun t gm x y _ => ((fmtOf t).minMaxOp (gm.getLsbD 14) true x y, 0))
  | .frcp w d a => some (⟨w, d, a, 0xA4⟩, fun t gm x _ _ => approxOp 0x5A t (gmRnd gm) gm x)
  | .frsq w d a => some (⟨w, d, a, 0xA4⟩, fun t gm x _ _ => approxOp 0x5B t (gmRnd gm) gm x)
  | .fexp2 w d a => some (⟨w, d, a, 0xA4⟩, fun t gm x _ _ => approxOp 0x5E t (gmRnd gm) gm x)
  | .flog2 w d a => some (⟨w, d, a, 0xA4⟩, fun t gm x _ _ => approxOp 0x5F t (gmRnd gm) gm x)
  | .fsinp w d a => some (⟨w, d, a, 0xA4⟩, fun t gm x _ _ => approxOp 0x60 t (gmRnd gm) gm x)
  | .fcosp w d a => some (⟨w, d, a, 0xA4⟩, fun t gm x _ _ => approxOp 0x61 t (gmRnd gm) gm x)
  | .fflr w d a => some (⟨w, d, a, 0xA4⟩, fun t gm x _ _ => ((fmtOf t).integral (gm.getLsbD 14) 3 x, 0))
  | .fceil w d a => some (⟨w, d, a, 0xA4⟩, fun t gm x _ _ => ((fmtOf t).integral (gm.getLsbD 14) 2 x, 0))
  | .frnd w d a => some (⟨w, d, a, 0xA4⟩, fun t gm x _ _ => ((fmtOf t).integral (gm.getLsbD 14) (bf gm 10 3) x, 0))
  | .ffrc w d a => some (⟨w, d, a, 0xA4⟩, fun t gm x _ _ => (fmtOf t).fracOp (gmRnd gm) x)
  | .fscl w d a b => some (⟨w, d, a, b⟩, fun t gm x y _ =>
      (fmtOf t).scaleOp (gmRnd gm) x (BitVec.ofNat (tyBits t) y).toInt)
  | .fgete w d a => some (⟨w, d, a, 0xA4⟩, fun t gm x _ _ => (fmtOf t).getExp (gmRnd gm) x)
  | _ => none

/-- Element k of the result of CVT, CVLO and CVHI: which element of A is converted (R271). -/
def widenOf : Instr → Option (BitVec 1 × BitVec 7 × BitVec 8 × (Nat → Nat → Nat))
  | .cvt w d a => some (w, d, a, fun _ k => k)
  | .cvlo w d a => some (w, d, a, fun _ k => k)
  | .cvhi w d a => some (w, d, a, fun n k => k + n / 2)
  | _ => none

/-- Source element k of gm.S converted to gm.T (R124, R118). -/
def conv (gm : BitVec 32) (x : BitVec 64) (k : Nat) : Nat × Flags :=
  let s := gmS gm
  if s = 14 then
    let v := q4xVal (fun j => (el 4 x j).toNat) 0x7F k
    let c := convert (gmRnd gm) (gmT gm) (.flt v.1)
    (c.1, if v.2 = true then c.2 ||| fFMT else c.2)
  else if s ≤ 7 then convert (gmRnd gm) (gmT gm) (.int (ival s (el (tyBits s) x k)))
  else convert (gmRnd gm) (gmT gm) (.flt ((fmtOf s).read (gm.getLsbD 14) (el (tyBits s) x k).toNat))

/-- A path past a switch point (R233, R104), at no address yet. -/
def past (s : State) (r : Run) : Path :=
  { r.path with live := [], aper := r.path.held.getD (s.rctx r).aper, held := none, wait := .ready, mid := false }

/-- A path cut down to some of its lanes (R134): their mask and their loads in flight; gm and return stack as before. -/
def cut (p : Path) (m : BitVec 32) : Path :=
  { p with mask := m
           loads := p.loads.filterMap fun l =>
             if (l.lanes.filter fun x => m.getLsbD x.lane).isEmpty then none
             else some { l with lanes := l.lanes.filter fun x => m.getLsbD x.lane } }

/-- How many lanes a mask has. -/
def lanes (m : BitVec 32) : Nat := ((List.range 32).filter fun L => m.getLsbD L).length

/-- A mask ranks before another (R134): more lanes, or as many and the lower lowest lane. -/
def Before (a b : BitVec 32) : Prop :=
  lanes b < lanes a ∨
    (lanes a = lanes b ∧ ∃ L, L < 32 ∧ a.getLsbD L = true ∧ b.getLsbD L = false ∧ ∀ Q, Q < L → a.getLsbD Q = false ∧ b.getLsbD Q = false)

/-- n is the lowest path number of the group that no path holds: splits first, then fragments (R134). -/
def Free (s : State) (gk n : Nat) : Prop :=
  n < 32 ∧ FMap.get? s.paths (32 * gk + n) = none ∧ ∀ j, j < n → FMap.get? s.paths (32 * gk + j) ≠ none

/-- Every request changed: those in the table, and those that stores held at the Selvedge are to make (R63). -/
def withReqs (s : State) (f : Req → Req) : State :=
  { s with
    reqs := s.reqs.map f
    selv := { s.selv with colls := s.selv.colls.map fun (c : Nat × Coll) => (c.1, { c.2 with
      held := c.2.held.map fun (h : HeldStore) => { h with req := h.req.map f } }) } }

/-- The path goes on as one or two parts (R134, R278): the lanes of `take` as `go` says, the others at PC + 4. A path that is not
divided keeps its number; of two parts the first in rank does, and the other takes the lowest free number; the requests and posted
failures that the path has belong to both (log 22). Nothing else of the machine changes. -/
def Divides (s t : State) (r : Run) (take : BitVec 32) (go : Path → Path) : Prop :=
  let rest := r.path.mask &&& ~~~take
  let fall := fun p : Path => { p with pc := r.path.pc + 4 }
  (take = 0 → t = s.putPath r.key (fall (past s r))) ∧
  (take ≠ 0 → rest = 0 → t = s.putPath r.key (go (past s r))) ∧
  (take ≠ 0 → rest ≠ 0 → ∀ n, Free s r.gk n →
    let A := go (cut (past s r) take)
    let B := fall (cut (past s r) rest)
    let two := fun x y : Path =>
      (withReqs ((s.putPath r.key x).putGroup r.gk { r.group with births := r.group.births + 1 })
        fun q => if q.isOf r.key = true then { q with more := q.more ++ [32 * r.gk + n] } else q).putPath
      (32 * r.gk + n) { y with born := r.group.births }
    (Before take rest → t = two A B) ∧ (Before rest take → t = two B A))

/-- The lanes that take a BRA or CALL (R278). -/
def taken (r : Run) (c : BitVec 4) : BitVec 32 :=
  r.active &&& (if c.toNat < 8 then r.group.pred c.toNat else ~~~ r.group.pred (c.toNat - 8))

/-- An address lies in [b, j]. -/
def Between (b j x : BitVec 64) : Prop := b.toNat ≤ x.toNat ∧ x.toNat ≤ j.toNat

/-- The first address of a JOIN's region, exact (R7, R282). -/
def regionStart (r : Run) (o : BitVec 20) : BitVec 64 := BitVec.ofNat 64 ((r.path.pc.toNat : Int) + 4 * o.toInt).toNat

/-- A path lies inside a region (R136, R282). -/
def Inside (p : Path) (b j : BitVec 64) : Prop :=
  Between b j (if p.inH = true then p.hpc else p.pc) ∨ ∃ e ∈ p.stack, Between b j e

/-- A path waits at a JOIN, at a JOIN or a collective. -/
def JoinWait (p : Path) : Prop := ∃ b, p.wait = .join b
def MeetWait (p : Path) : Prop := JoinWait p ∨ ∃ i, p.wait = .coll i

/-- The paths that W names merge at an address into one (R136): its number, its mask, its gm and return stack, its latches dead; the
group's other paths are as before. -/
def Merged (s t : State) (r : Run) (W : Nat × Path → Prop) (at_ : BitVec 64) : Prop :=
  ∃ k b q, W b ∧ FMap.get? t.paths k = some q ∧
    (∀ x, W x → b.1 % 32 < 4 → x.1 % 32 < 4 → b.1 ≤ x.1) ∧ (∀ x, W x → 4 ≤ b.1 % 32 → 4 ≤ x.1 % 32 ∧ b.2.born ≤ x.2.born) ∧
    (b.1 % 32 < 4 → k = b.1) ∧
    (4 ≤ b.1 % 32 → (∀ n, n < 4 → Free s r.gk n → k = 32 * r.gk + n) ∧
      ((∀ n, n < 4 → FMap.get? s.paths (32 * r.gk + n) ≠ none) → (∃ p, W (k, p)) ∧ ∀ x, W x → k ≤ x.1)) ∧
    q = { b.2 with pc := at_, live := [], aper := b.2.held.getD (s.rctx r).aper, held := none, wait := .ready, mid := false
                   mask := q.mask, smask := q.smask, loads := q.loads, fails := q.fails } ∧
    (∀ L, q.mask.getLsbD L = true ↔ ∃ x, W x ∧ x.2.mask.getLsbD L = true) ∧
    (∀ f, f ∈ q.fails → ∃ x, W x ∧ f ∈ x.2.fails) ∧
    (∀ x, W x → x.1 ≠ k → FMap.get? t.paths x.1 = none) ∧
    ∀ j, j ≠ k → (∀ x, W x → x.1 ≠ j) → FMap.get? t.paths j = FMap.get? s.paths j

/-- PC + 4·SEXT(off). -/
def target (r : Run) (o : BitVec 20) : BitVec 64 := r.path.pc + BitVec.ofInt 64 (4 * o.toInt)

/-- The return stack in use and its limit (R273). -/
def stackOf (p : Path) : List (BitVec 64) := if p.inH = true then p.hstack else p.stack
def stackLimit (p : Path) : Nat := if p.inH = true then 8 else 32
def withStack (p : Path) (l : List (BitVec 64)) : Path := if p.inH = true then { p with hstack := l } else { p with stack := l }

/-- PC + 4 as an entry of a return stack, a 57-bit code address (R273). -/
def returnTo (r : Run) : BitVec 64 := (r.path.pc + 4) &&& 0x01FFFFFFFFFFFFFF

/-- The system registers of R330: number, whether of 64 bits, and the value SRD reads; CORE and CLUSTER of a workgroup off its cores are a free
value (log 102). -/
def sysValue (s : State) (r : Run) : Nat → Option (Bool × BitVec 64)
  | 0x000 => some (false, s.mgmt.mapver.setWidth 64)
  | 0x001 => some (false, r.path.gm.setWidth 64)
  | 0x002 => some (false, r.path.pix.setWidth 64)
  | 0x003 => some (false, r.path.lstat.setWidth 64)
  | 0x004 => some (false, (r.path.stop ++ (if r.path.inH = true then 1#1 else 0#1) ++ r.path.hcause.extractLsb' 0 15).setWidth 64)
  | 0x005 => some (true, r.path.hpc)
  | 0x006 => some (true, r.path.haddr)
  | 0x007 => some (false, r.path.hlanes.setWidth 64)
  | 0x008 => some (false, r.path.hmode.setWidth 64)
  | 0x009 => some (false, r.path.hmask.setWidth 64)
  | 0x00A => some (false, r.group.aflags.setWidth 64)
  | 0x010 => some (true, CMap.get (s.rctx r).aper 0)
  | 0x011 => some (true, CMap.get (s.rctx r).aper 1)
  | 0x012 => some (true, CMap.get (s.rctx r).aper 2)
  | 0x013 => some (true, CMap.get (s.rctx r).aper 3)
  | 0x014 => some (true, CMap.get (s.rctx r).aper 4)
  | 0x015 => some (true, CMap.get (s.rctx r).aper 5)
  | 0x016 => some (true, CMap.get (s.rctx r).aper 6)
  | 0x017 => some (true, CMap.get (s.rctx r).aper 7)
  | 0x020 => some (false, BitVec.ofNat 64 r.gang.ctx)
  | 0x021 => some (false, BitVec.ofNat 64 (r.wk % 8 + 8 * (r.gk % 16)))
  | 0x022 => some (false, r.gang.seq.setWidth 64)
  | 0x023 => some (false, BitVec.ofNat 64 r.wg.stage)
  | 0x024 => some (false, BitVec.ofNat 64 (if r.wg.core < 192 then r.wg.core else Config.offCore r.wk % 192))
  | 0x025 => some (false, BitVec.ofNat 64 ((if r.wg.core < 192 then r.wg.core else Config.offCore r.wk % 192) / 8))
  | 0x026 => some (false, BitVec.ofNat 64 (r.gang.gx % 2 ^ 16 + 2 ^ 16 * (r.gang.gy % 2 ^ 16)))
  | 0x027 => some (false, BitVec.ofNat 64 r.gang.gz)
  | 0x030 => some (false, (s.rctx r).issuepol.setWidth 64)
  | _ => none

/-- The fields of SRD that are legal (R227, R228, R331). -/
def srdFields (w : BitVec 1) (d : BitVec 7) (wide : Bool) : Prop :=
  d.toNat < 32 ∧ (w = 1 → d = 0) ∧ (wide = true → d.toNat % 2 = 0)

/-- The value SWR writes (R332). -/
def swrValue (r : Run) (d : BitVec 7) (wide : Bool) : BitVec 64 :=
  if wide = true then r.group.sreg (d.toNat + 1) ++ r.group.sreg d.toNat else (r.group.sreg d.toNat).setWidth 64

/-- The values gm accepts (R235, R236). -/
def gmAccepts (gm : BitVec 32) : Prop :=
  (gm.extractLsb' 0 5).toNat ≤ 14 ∧ (gm.extractLsb' 5 5).toNat ≤ 14 ∧ (gm.extractLsb' 10 3).toNat ≤ 4 ∧
    gm.extractLsb' 25 2 ≠ 3 ∧ gm.extractLsb' 27 5 = 0

/-- A deferred fault is due at a path (R188): that of its own store at once, a Courier's or one whose path has ended when the last
instruction was a switch point. -/
def DueAt (s : State) (p : Nat) (r : Run) (f : DFault) : Prop :=
  f.path = some (p, r.path.born) ∨ (r.path.mid = false ∧ (f.path = none ∨
    ∃ k b, f.path = some (k, b) ∧ ∀ q, FMap.get? s.paths k = some q → q.born ≠ b))

/-- t differs from s in nothing but the executing path's record, its group's, what the cores record of recency, and the
numbers handed out (log 5). -/
def OnlyPathGroup (s t : State) (r : Run) (g : Group) (p : Path) : Prop :=
  t = { s with groups := t.groups, paths := t.paths, cores := t.cores, uid := t.uid } ∧
  (∀ k, FMap.get? t.groups k = if k = r.gk then some g else FMap.get? s.groups k) ∧
  (∀ k, FMap.get? t.paths k = if k = r.key then some p else FMap.get? s.paths k)

/-- A load's effect (R140, R288, R292, R297): the path goes on past a switch point with dead latches;
with a register or a status to write, a load is in flight under the next number, and when it returns, as it does until an event needs a
package reset (R360), its registers
vD, … of the ACTIVE lanes hold the words of the values, and for a status variant p7 is true in those lanes. AFLAGS takes the flags, with
the return for a status variant, else at once. Every byte of memory and every other register reads as before. -/
def Loads (s t : State) (r : Run) (w : BitVec 1) (d nreg : Nat) (status : Bool) (val : Nat → BitVec 128) (fl : Nat → Flags) : Prop :=
  ∃ q g, Switched s r q (r.path.pc + 4) ∧ g = { r.group with aflags := g.aflags } ∧
    FlagsFrom r.group.aflags g.aflags r.active fl ∧
    ((w = 1 ∧ status = false) ∨ r.active = 0 → OnlyPathGroup s t r g q) ∧
    (w = 0 ∨ status = true → r.active ≠ 0 → ∃ ld, ld.id = s.uid ∧
      OnlyPathGroup s t r (if status = true then r.group else g) { q with loads := r.path.loads ++ [ld] } ∧
      (s.mgmt.needsReset = true → exec (.loadReturn r.key s.uid) t = .next t) ∧
      (s.mgmt.needsReset = false → ∃ u g', exec (.loadReturn r.key s.uid) t = .next u ∧ OnlyPathGroup t u r g' q ∧
        g' = { r.group with v := g'.v, p := g'.p, aflags := g.aflags } ∧
        (∀ n L, L < 32 → g'.vreg n L =
          if w = 0 ∧ r.active.getLsbD L = true ∧ d ≤ n ∧ n < d + nreg then (val L).extractLsb' (32 * (n - d)) 32
          else r.group.vreg n L) ∧
        (∀ n L, L < 32 → (g'.pred n).getLsbD L =
          if status = true ∧ n = 7 ∧ r.active.getLsbD L = true then true else (r.group.pred n).getLsbD L)))

/-- What a store of n bytes by every ACTIVE lane leaves in a memory: where no lane stores, every byte reads as before; where
several do, the highest lane's byte stands (R294: lanes ascending). -/
def Stores (old new : CMap 8) (r : Run) (at_ : Nat → Nat) (n : Nat) (val : Nat → Nat → BitVec 8) : Prop :=
  (∀ x, (∀ L, On r L → ¬ (at_ L ≤ x ∧ x < at_ L + n)) → CMap.get new x = CMap.get old x) ∧
  (∀ L j, On r L → j < n → (∀ Q, On r Q → L < Q → ¬ (at_ Q ≤ at_ L + j ∧ at_ L + j < at_ Q + n)) →
    CMap.get new (at_ L + j) = val L j)

/-- An on-chip access: space, whether of 16 bytes, fields. -/
structure Chip where
  sp : Space
  quad : Bool
  w : BitVec 1
  d : BitVec 7
  a : BitVec 8
  off : BitVec 8

/-- LDL, LDS, LDSQ, LDC, LDK (R287). -/
def chipLoad : Instr → Option Chip
  | .ldl w d a b => some ⟨.L, false, w, d, a, b⟩
  | .lds w d a b => some ⟨.S, false, w, d, a, b⟩
  | .ldsq w d a b => some ⟨.S, true, w, d, a, b⟩
  | .ldc w d a b => some ⟨.C, false, w, d, a, b⟩
  | .ldk w d a b => some ⟨.K, false, w, d, a, b⟩
  | _ => none

/-- STL, STS, STSQ, STC, STK (R287). -/
def chipStore : Instr → Option Chip
  | .stl d a b => some ⟨.L, false, 0, d, a, b⟩
  | .sts d a b => some ⟨.S, false, 0, d, a, b⟩
  | .stsq d a b => some ⟨.S, true, 0, d, a, b⟩
  | .stc d a b => some ⟨.C, false, 0, d, a, b⟩
  | .stk d a b => some ⟨.K, false, 0, d, a, b⟩
  | _ => none

/-- ATS.*, ATC.* and REDS (R287): the access, the operation, whether it returns the old value, the alignment of its
offset (R290). -/
def chipAtomic : Instr → Option (Chip × AOp × Bool × (Nat → Nat))
  | .atsAdd w d a b => some (⟨.S, false, w, d, a, b⟩, .add, true, fun _ => 4)
  | .atsMin w d a b => some (⟨.S, false, w, d, a, b⟩, .min, true, fun _ => 4)
  | .atsMax w d a b => some (⟨.S, false, w, d, a, b⟩, .max, true, fun _ => 4)
  | .atsAnd w d a b => some (⟨.S, false, w, d, a, b⟩, .and, true, fun _ => 4)
  | .atsOr w d a b => some (⟨.S, false, w, d, a, b⟩, .or, true, fun _ => 4)
  | .atsXor w d a b => some (⟨.S, false, w, d, a, b⟩, .xor, true, fun _ => 4)
  | .atsXch w d a b => some (⟨.S, false, w, d, a, b⟩, .xch, true, fun _ => 4)
  | .atsCas w d a b => some (⟨.S, false, w, d, a, b⟩, .cas, true, fun _ => 4)
  | .atcAdd w d a b => some (⟨.C, false, w, d, a, b⟩, .add, true, tyBytes)
  | .atcCas w d a b => some (⟨.C, false, w, d, a, b⟩, .cas, true, tyBytes)
  | .reds d a b => some (⟨.S, false, 0, d, a, b⟩, .add, false, fun _ => 4)
  | _ => none

/-- Bytes an access moves (R289). -/
def chipBytes (r : Run) (c : Chip) : Nat := if c.quad = true then 16 else tyBytes r.T

/-- A lane's effective offset (R91), exact. -/
def offset (r : Run) (c : Chip) (L : Nat) : Int := ((r.src32 c.a L).toNat : Int) + c.off.toInt

/-- Where a lane's bytes lie in its space's memory. -/
def chipAt (r : Run) (c : Chip) (L : Nat) : Nat := r.spBase c.sp L + (offset r c L).toNat

/-- Every ACTIVE lane's access lies in its allocation (R91) at an alignment, and its scratch pages are resident (R93). -/
def InBounds (s : State) (r : Run) (c : Chip) (align : Nat) : Prop :=
  (∀ L, On r L → 0 ≤ offset r c L ∧ offset r c L + chipBytes r c ≤ s.spLimit r c.sp ∧ offset r c L % (align : Int) = 0) ∧
  (c.sp = .S → ∀ L p, On r L → (offset r c L).toNat / 1024 ≤ p → p ≤ ((offset r c L).toNat + chipBytes r c - 1) / 1024 →
    CMap.get r.wg.pages p = 1)

/-- No ACTIVE lane writes a word that holds a barrier (R169). -/
def Untagged (s : State) (r : Run) (c : Chip) : Prop :=
  ∀ L, On r L → tagged (s.slocTags (r.sloc c.sp)) (offset r c L).toNat (chipBytes r c) = false

/-- The fields are legal and no ACTIVE lane reads a dead latch (R240, R233). -/
def ChipLegal (r : Run) (i : Instr) (acc : Nat → Bool) : Prop :=
  r.legal i acc (tyIs64 r.T) false false = true ∧ r.deadOf i false false = 0

/-- Byte j of the data a store takes (R294): the register, pair or quad from vD up. -/
def storeByte (r : Run) (d L j : Nat) : BitVec 8 := (r.group.vreg (d + j / 4) L).extractLsb' (8 * (j % 4)) 8

/-- Bit b of register vD+j of a load (R292): the bytes in memory order, an i8 or i16 element sign-extended, any other
zero-extended. -/
def loadBit (m : CMap 8) (at_ n t j b : Nat) : Bool :=
  let i := 4 * j + b / 8
  if i < n then (CMap.get m (at_ + i)).getLsbD (b % 8)
  else (t == 4 || t == 5) && (CMap.get m (at_ + n - 1)).getLsbD 7

/-- The lanes' atomics one after another, each on what the lanes before it left (R299): the old values and the memory. -/
def rmwAll (op : AOp) (t n : Nat) (at_ v new : Nat → Nat) : List Nat → CMap 8 → (Nat → Nat) × CMap 8
  | [], m => (fun _ => 0, m)
  | L :: l, m =>
    let old := Memory.read m (at_ L) n
    let x := rmwAll op t n at_ v new l (Memory.write m (at_ L) n (op.apply t old (v L) (new L)))
    (fun Q => if Q = L then old else x.1 Q, x.2)

/-- The operand of an atomic and the new value of CAS (R299, R291). -/
def atomicV (r : Run) (d L : Nat) : Nat := (r.dval r.T d L).toNat
def atomicNew (r : Run) (d L : Nat) : Nat :=
  if tyIs64 r.T = true then (r.group.vreg (d + 3) L ++ r.group.vreg (d + 2) L).toNat else (r.group.vreg (d + 1) L).toNat

/-- A fresh number is on no load of the path (log 5). -/
def FreshUid (s : State) (r : Run) : Prop := ∀ l ∈ r.path.loads, l.id ≠ s.uid

/-- The effective address in G (R289): the pair A plus the signed byte offset, modulo 2^64. -/
def gAddr (r : Run) (a off : BitVec 8) (L : Nat) : BitVec 64 := (r.src32 (a + 1) L ++ r.src32 a L) + off.signExtend 64

/-- An address whose n bytes lie in one page of local memory that the partition's cached entries grant: the physical
address and the entry (R103, R107, R108). -/
def Cached (s : State) (r : Run) (nd : Need) (ea : BitVec 64) (n pa : Nat) (e : BitVec 128) : Prop :=
  ea.toNat < 2 ^ 57 ∧ 0 < n ∧ ea.toNat % 65536 + n ≤ 65536 ∧
  ∃ g ia c, aperFind r.path.aper ea.toNat = some (0, g, ia) ∧ FMap.get? s.tlb (tlbKey r.gang.part ia) = some c ∧
    leafOut s.mgmt (c &&& ~~~0x10000000) (c.getLsbD 28) ia nd = .ok pa e (c.getLsbD 28)

/-- A leaf entry has a reserved field, a reserved code, or fields that do not go together (R106, R107). -/
def LeafFormat (e : BitVec 128) (large : Bool) : Prop :=
  e.extractLsb' 28 4 ≠ 0 ∨ e.extractLsb' 116 12 ≠ 0 ∨ e.extractLsb' 4 2 = 3 ∨ 15 ≤ (e.extractLsb' 21 5).toNat ∨ e.extractLsb' 26 2 = 3 ∨
    (e.getLsbD 6 = true ∧ e.getLsbD 7 = true) ∨ (large = true ∧ (e.extractLsb' 32 5 ≠ 0 ∨ e.getLsbD 6 = true))

/-- Nothing of the machine is outstanding: no request, no logged store, no store that the Selvedge holds. -/
def Quiet (s : State) : Prop := s.reqs = [] ∧ s.sidelog = [] ∧ ∀ x ∈ s.selv.colls, x.2.held = []

/-- Every earlier write of the path on the CORE path has been performed (R201): its group has none logged, no STGR to local memory waits,
and the Selvedge holds none. -/
def AllPerformed (s : State) (r : Run) : Prop :=
  (∀ l ∈ s.sidelog, l.group ≠ r.gk) ∧ (∀ q ∈ s.reqs, q.kind ≠ 5) ∧ ∀ x ∈ s.selv.colls, x.2.held = []

/-- No lane of the path has an atomic under way whose read comes before its later writes (R200). -/
def NoAtomics (s : State) (r : Run) : Prop :=
  ∀ q ∈ s.reqs, ¬ (q.kind = 2 ∧ q.uo = false ∧ q.isOf r.key = true ∧ r.path.mask.getLsbD q.lane = true)

/-- LDG, LDGQ, LDGA and LDGS: fields, 16 bytes, acquire, status. -/
def gLoadOf : Instr → Option (Ops × Bool × Bool × Bool)
  | .ldg w d a b => some (⟨w, d, a, b⟩, false, false, false)
  | .ldgq w d a b => some (⟨w, d, a, b⟩, true, false, false)
  | .ldga w d a b => some (⟨w, d, a, b⟩, false, true, false)
  | .ldgs w d a b => some (⟨w, d, a, b⟩, false, false, true)
  | _ => none

/-- STG, STGQ, STGR and STGS: D, A, B, and the bytes stored by a type. -/
def gStoreOf : Instr → Option (BitVec 7 × BitVec 8 × BitVec 8 × (Nat → Nat) × (Nat → Nat) × Bool)
  | .stg d a b => some (d, a, b, tyBytes, fun _ => 1, false)
  | .stgq d a b => some (d, a, b, fun _ => 16, fun _ => 16, false)
  | .stgr d a b => some (d, a, b, tyBytes, tyBytes, false)
  | .stgs d a b => some (d, a, b, tyBytes, fun _ => 1, true)
  | _ => none

/-- ATG.* and ATGS.*: fields, operation, status. -/
def gAtomicOf : Instr → Option (Ops × AOp × Bool)
  | .atgAdd w d a b => some (⟨w, d, a, b⟩, .add, false)
  | .atgMin w d a b => some (⟨w, d, a, b⟩, .min, false)
  | .atgMax w d a b => some (⟨w, d, a, b⟩, .max, false)
  | .atgAnd w d a b => some (⟨w, d, a, b⟩, .and, false)
  | .atgOr w d a b => some (⟨w, d, a, b⟩, .or, false)
  | .atgXor w d a b => some (⟨w, d, a, b⟩, .xor, false)
  | .atgXch w d a b => some (⟨w, d, a, b⟩, .xch, false)
  | .atgCas w d a b => some (⟨w, d, a, b⟩, .cas, false)
  | .atgsAdd w d a b => some (⟨w, d, a, b⟩, .add, true)
  | .atgsCas w d a b => some (⟨w, d, a, b⟩, .cas, true)
  | _ => none

/-- The page's format is moved unchanged under a type (R292): b types, q4x, an equal format, or a b-type page. -/
def Raw (t f : Nat) : Prop := t ≤ 3 ∨ t = 14 ∨ f = t ∨ f ≤ 3

/-- An instruction without a register pair: its fields are legal and no ACTIVE lane reads a dead latch (R240, R233). -/
def Fit (r : Run) (i : Instr) : Prop :=
  r.legal i (fun t => decide (t ≤ 14)) false false false = true ∧ r.deadOf i false false = 0

/-- A uniform operand (R305). -/
def uniOf (r : Run) (a : BitVec 8) : BitVec 32 := r.src32 a (lowLane r.active)

/-- The address a pair of selectors names in a lane (R231). -/
def pairOf (r : Run) (a : BitVec 8) (L : Nat) : BitVec 64 := r.src32 (a + 1) L ++ r.src32 a L

/-- t differs from s in nothing but the bytes and barrier tags of the on-chip spaces, paths, groups, and what the cores record
of recency. -/
def SameButChip (s t : State) : Prop :=
  t = { s with paths := t.paths, groups := t.groups, wgs := t.wgs, gangs := t.gangs, launches := t.launches, cores := t.cores } ∧
  (∀ k, (FMap.get? t.wgs k).map (fun w => { w with scratch := [], tags := [] }) =
    (FMap.get? s.wgs k).map fun w => { w with scratch := [], tags := [] }) ∧
  (∀ k, (FMap.get? t.gangs k).map (fun g => { g with cmem := [], ctags := [] }) =
    (FMap.get? s.gangs k).map fun g => { g with cmem := [], ctags := [] }) ∧
  (∀ k, (FMap.get? t.launches k).map (fun l => { l with chip := [], ktags := [] }) =
    (FMap.get? s.launches k).map fun l => { l with chip := [], ktags := [] })

/-- Groups and paths other than the executing ones are as before. -/
def OnlyHere (s t : State) (r : Run) (g : Group) (q : Path) : Prop :=
  (∀ k, FMap.get? t.groups k = if k = r.gk then some g else FMap.get? s.groups k) ∧
  (∀ k, FMap.get? t.paths k = if k = r.key then some q else FMap.get? s.paths k)

/-- No path waits in BWAIT. -/
def NoWaiters (s : State) : Prop := ∀ k p, (k, p) ∈ s.paths → ∀ c, p.wait ≠ .bwait c

/-- The counter value of release k of a copy entry (R164). -/
def releaseAt (e : CopyEntry) (k : Nat) : Nat := e.release + k * max e.every 1

/-- The word that a barrier operand names (R305): its space and its exact offset. -/
def barAt (a : BitVec 32) (off : BitVec 8) : Space × Int :=
  if a.getLsbD 31 = false then (.S, ((a.extractLsb' 0 31).toNat : Int) + off.toInt)
  else (if a.getLsbD 30 = true then .K else .C, ((a.extractLsb' 0 30).toNat : Int) + off.toInt)

/-- The fields of a barrier word (R168). -/
structure Bar where
  pend  : BitVec 28
  arr   : BitVec 14
  ex    : BitVec 14
  phase : BitVec 7

def barOf (w : BitVec 64) : Bar := ⟨w.extractLsb' 0 28, w.extractLsb' 28 14, w.extractLsb' 42 14, w.extractLsb' 56 7⟩
def Bar.word (b : Bar) : BitVec 64 := 0#1 ++ b.phase ++ b.ex ++ b.arr ++ b.pend

/-- COMPLETE-TEST (R310). -/
def Bar.tested (b : Bar) : Bar := if b.pend = 0 ∧ b.arr = 0 then { b with arr := b.ex, phase := b.phase + 1 } else b

/-- BINIT, BARV, BEXP, BINV (R310, R312): the barrier operand, the update of a word and its tag by a lane, whether it reports
in p7. -/
def barrierOf (r : Run) : Instr → Option (BitVec 8 × BitVec 8 × (Nat → BitVec 64 × Bool → BitVec 64 × Bool) × Bool)
  | .binit a b => some (a, 0, fun L _ =>
      let e := (r.src32 b L).extractLsb' 0 14
      let e := if e = 0 then 1 else e
      ((⟨0, e, e, 0⟩ : Bar).word, true), false)
  | .barv a b => some (a, b, fun _ x =>
      if x.2 = true then (({ barOf x.1 with arr := (barOf x.1).arr - 1 } : Bar).tested.word, true) else x, true)
  | .bexp a b => some (a, 0, fun L x =>
      if x.2 = true then
        (({ barOf x.1 with pend := (barOf x.1).pend + (r.src32 b L).extractLsb' 0 28 } : Bar).tested.word, true)
      else x, true)
  | .binv a b => some (a, b, fun _ x => (x.1, false), false)
  | _ => none

/-- The barrier operand of an instruction and its offset (R305, R310–R312). -/
def barOperand : Instr → Option (BitVec 8 × BitVec 8)
  | .binit a _ => some (a, 0)
  | .barv a b => some (a, b)
  | .bexp a _ => some (a, 0)
  | .binv a b => some (a, b)
  | .bwait a _ => some (a, 0)
  | .btest _ a _ => some (a, 0)
  | _ => none

/-- Where a lane's barrier word lies. -/
def barLoc (r : Run) (a off : BitVec 8) (L : Nat) : SLoc × Nat := (r.sloc (barAt (r.src32 a L) off).1, (barAt (r.src32 a L) off).2.toNat)

/-- Every ACTIVE lane's word is aligned and in bounds (R91), its scratch page resident (R93). -/
def BarsInBounds (s : State) (r : Run) (a off : BitVec 8) : Prop :=
  ∀ L, On r L → let x := barAt (r.src32 a L) off
    0 ≤ x.2 ∧ x.2 + 8 ≤ s.spLimit r x.1 ∧ x.2 % 8 = 0 ∧ (x.1 = .S → CMap.get r.wg.pages (x.2.toNat / 1024) = 1)

/-- The lanes' updates one after another (R310). -/
def barAll (f : Nat → BitVec 64 × Bool → BitVec 64 × Bool) (at_ : Nat → SLoc × Nat) :
    List Nat → (SLoc → Nat → BitVec 64 × Bool) → SLoc → Nat → BitVec 64 × Bool
  | [], m => m
  | L :: l, m => barAll f at_ l fun k o => if (k, o) = at_ L then f L (m k o) else m k o

/-- A lane's word is tagged. -/
def Live (s : State) (x : SLoc × Nat) : Prop := s.barTag x.1 x.2 = true

/-- The word has completed at least t phases, counted modulo 128 (R311). -/
def Reached (s : State) (x : SLoc × Nat) (t : BitVec 7) : Prop := ((barOf (s.barWord x.1 x.2)).phase - t).toNat < 64

/-- Page p of the scratch range [o, o + n). -/
abbrev InPages (o n p : Nat) : Prop := o / 1024 ≤ p ∧ p ≤ (o + n - 1) / 1024

/-- Frames of a core that hold a pinned page (R95, R315). -/
def pinnedFrames (s : State) (core : Nat) : List Nat :=
  s.wgs.flatMap fun x => if x.2.core = core then (x.2.frames.filter fun f => s.pagePinned x.1 x.2 f.1).map (·.2) else []

/-- Pages of a range that a pin would newly pin. -/
def newPins (s : State) (r : Run) (o n : Nat) : List Nat :=
  ((List.range ((o + n - 1) / 1024 - o / 1024 + 1)).map (· + o / 1024)).filter fun p =>
    !(s.pagePinned r.wk r.wg p && (FMap.get? r.wg.frames p).isSome)

/-- SPPIN is refused (R315): fewer than 64 unpinned frames would be left, or fewer than 16 of a phase, or a count would pass
255. -/
def PinRefused (s : State) (r : Run) (o n : Nat) : Prop :=
  (∃ p, InPages o n p ∧ CMap.get r.wg.pins p = 255) ∨
  384 - (pinnedFrames s r.wg.core).length < 64 + (newPins s r o n).length ∨
  ∃ ph, ph < 3 ∧ 128 - ((pinnedFrames s r.wg.core).filter fun f => f % 3 == ph).length <
    16 + ((newPins s r o n).filter fun p => p % 3 == ph).length

/-- Byte x of an operand of LMMA: zero in a lane that does not contribute (R325). -/
def lmmaByte (r : Run) (base x : Nat) : Nat :=
  if r.active.getLsbD (x % 128 / 4) = true then
    ((r.group.vreg (base + x / 128) (x % 128 / 4)).extractLsb' (8 * (x % 4)) 8).toNat
  else 0

/-- Element k of row or column n of an operand of LMMA. -/
def lmmaEl (r : Run) (base n k : Nat) : FV :=
  (fmtOf r.T).decode (if tyBytes r.T = 1 then lmmaByte r base (64 * n + k)
    else lmmaByte r base (64 * n + 2 * k) + 256 * lmmaByte r base (64 * n + 2 * k + 1))

/-- Element e of D after n units (R325): from C, one ADD16 a unit; with the flags met. -/
def lmmaAcc (r : Run) (d a b e : Nat) : Nat → Nat × Flags
  | 0 => (if r.active.getLsbD (e % 32) = true then (r.group.vreg (d + e / 32) (e % 32)).toNat else 0, 0)
  | n + 1 =>
    let x := lmmaAcc r d a b e n
    let y := add16 fmtF32 x.1 ((List.range 16).map fun k => (lmmaEl r a (e % 16) (16 * n + k), lmmaEl r b (e / 16) (16 * n + k)))
    (y.1, x.2 ||| y.2)

/-- Both the context and its path see the same apertures, as they do between switch points without a pending write (R104). -/
def Settled (s : State) (r : Run) : Prop := r.path.aper = (s.rctx r).aper ∧ r.path.held = none

/-- A uniform 64-byte aligned G operand in local memory, its translation cached. -/
def AtPage (s : State) (r : Run) (nd : Need) (va : BitVec 64) (pa : Nat) (e : BitVec 128) : Prop :=
  Cached s r nd va 64 pa e ∧ va.toNat % 64 = 0

/-- A SPAWN to pigeonhole h is refused (R155). -/
def Refused (s : State) (r : Run) (h : Nat) : Prop :=
  256 ≤ h ∨ (s.hole h).log = 0 ∨ (s.hole h).hostfed = true ∨ s.holeOwner h ≠ some r.gang.part ∨ (s.hole h).ctx ≠ r.gang.ctx

/-- The pigeonhole's ring lies in host memory (R359), whole. -/
def HostRing (x : Hole) : Prop := x.base.msb = true ∧ x.base.toNat % 2 ^ 63 + 64 * 2 ^ x.log ≤ 2 ^ 63 ∧ x.log ≤ 16

/-- The slots that n appended dockets take, where they lie (R149, R359): in host memory, or in device memory with their translations cached,
no two overlapping. -/
def Slots (s : State) (r : Run) (x : Hole) (n : Nat) (host : Bool) (at_ : Nat → Nat) : Prop :=
  (host = true ∧ HostRing x ∧ ∀ i, at_ i = x.base.toNat % 2 ^ 63 + 64 * ((x.tail.toNat + i) % 2 ^ x.log)) ∨
  (host = false ∧ Settled s r ∧ x.log ≤ 16 ∧
    (∀ i, i < n → ∃ e, Cached s r .wr (x.base + BitVec.ofNat 64 (64 * ((x.tail.toNat + i) % 2 ^ x.log))) 64 (at_ i) e) ∧
    ∀ i j, i < n → j < n → i ≠ j → at_ i + 64 ≤ at_ j ∨ at_ j + 64 ≤ at_ i)

/-- Where byte j of the docket appended as number i lies in host memory. -/
def slotByte (x : Hole) (i j : Nat) : Nat := x.base.toNat % 2 ^ 63 + 64 * ((x.tail.toNat + i) % 2 ^ x.log) + j

/-- Host memory, or device memory. -/
def memOf (s : State) (host : Bool) : CMap 8 := if host = true then s.hostMem else s.mem

/-- The four bytes of a little-endian word changed by an addend, lanes ascending: the DEP of each lane's docket. -/
def depAll (pa : Nat → Nat) (add : Nat → BitVec 32) : List Nat → CMap 8 → CMap 8
  | [], m => m
  | L :: l, m => depAll pa add l (Memory.write m (pa L + 4) 4 (BitVec.ofNat 32 (Memory.read m (pa L + 4) 4) + add L).toNat)

/-- A header with its POSTMARK advanced and CUR flipped (R157); every other bit as before. -/
def Posted (h t : BitVec 512) : Prop :=
  t.extractLsb' 0 32 = h.extractLsb' 0 32 + 1 ∧ t.getLsbD 33 = (h.extractLsb' 0 32 + 1).getLsbD 0 ∧
  t.getLsbD 32 = h.getLsbD 32 ∧ t.extractLsb' 34 478 = h.extractLsb' 34 478

/-- A header sealed, and as it has no subscriber settled (R157, R159). -/
def SealedNow (h t : BitVec 512) : Prop :=
  t.getLsbD 32 = true ∧ t.getLsbD 34 = true ∧ t.extractLsb' 0 32 = h.extractLsb' 0 32 ∧ t.getLsbD 33 = h.getLsbD 33 ∧
  t.extractLsb' 35 477 = h.extractLsb' 35 477

/-- Memory with 64 bytes replaced. -/
def Replaced (old new : CMap 8) (at_ : Nat) (x : BitVec 512) : Prop :=
  Memory.read new at_ 64 = x.toNat ∧ ∀ a, a < at_ ∨ at_ + 64 ≤ a → CMap.get new a = CMap.get old a

/-- p7 in the ACTIVE lanes, LSTAT on a failure at the lowest ACTIVE lane (R305), past the instruction. -/
def UniStatus (s t : State) (r : Run) (fail : Option Nat) : Prop :=
  ∃ g q, OnlyHere s t r g q ∧ g = { r.group with p := g.p } ∧
    (∀ n L, L < 32 → (g.pred n).getLsbD L = if n = 7 ∧ r.active.getLsbD L = true then fail.isNone else (r.group.pred n).getLsbD L) ∧
    Switched s r { q with lstat := r.path.lstat } (r.path.pc + 4) ∧
    q.lstat = match fail with | none => r.path.lstat | some c => BitVec.ofNat 32 (c + 256 * lowLane r.active)

/-- The lists a core's Loom holds. -/
def loomOf (s : State) (core : Nat) : List LoomList := (s.core core).loom

/-- No list of the workgroup is queued or running. -/
def NoLists (s : State) (r : Run) : Prop := ∀ l ∈ loomOf s r.wg.core, l.wg ≠ some r.wk

/-- Physical banks of a core that nobody owns, ascending. -/
def FreeBanks (s : State) (core : Nat) (l : List Nat) : Prop :=
  l.Pairwise (· < ·) ∧ ∀ b, b ∈ l ↔ b < 16 ∧ FMap.get? (s.core core).bankOwner b = none

/-- The first bank and the count that ADRN's and AFIL's B selects (R324). -/
def bankFirst (r : Run) (b : BitVec 8) : Nat := ((uniOf r b).extractLsb' 0 4).toNat
def bankCount (r : Run) (b : BitVec 8) : Nat := ((uniOf r b).extractLsb' 4 5).toNat

/-- The image of ADRN and AFIL: every unit's 16 bytes lie in local memory, translated from cached entries, no two overlap. -/
def Image (s : State) (r : Run) (nd : Need) (a : BitVec 8) (n : Nat) (pa : Nat → Nat) (e : Nat → BitVec 128) : Prop :=
  (pairOf r a (lowLane r.active)).toNat % 16 = 0 ∧
  (∀ u, u < n → Cached s r nd (pairOf r a (lowLane r.active) + BitVec.ofNat 64 (16 * u)) 16 (pa u) (e u) ∧ (e u).getLsbD 8 = false) ∧
  ∀ u v, u < n → v < n → u ≠ v → pa u + 16 ≤ pa v ∨ pa v + 16 ≤ pa u

/-- t lies in [TMIN, TMAX] of a ray (R180). -/
def Within (ray : BitVec 256) (t : BitVec 32) : Prop :=
  let cmp := fun a b : BitVec 32 => FV.cmp? (fmtF32.decode a.toNat) (fmtF32.decode b.toNat)
  (cmp t (ray.extractLsb' 192 32) = some .gt ∨ cmp t (ray.extractLsb' 192 32) = some .eq) ∧
    (cmp (ray.extractLsb' 224 32) t = some .gt ∨ cmp (ray.extractLsb' 224 32) t = some .eq)

/-- Of two at t and u the first is nearer, or as near with the lower number (R180). -/
def Nearer (t : BitVec 32) (i : BitVec 32) (u : BitVec 32) (j : BitVec 32) : Prop :=
  let c := FV.cmp? (fmtF32.decode t.toNat) (fmtF32.decode u.toNat)
  c = some .lt ∨ (c = some .eq ∧ i.toNat < j.toNat)

/-- The rays of a trace one after another (R179): each lane's record and the code of its failure, and what the reads left. -/
def traceAll (s : State) (part ctx die : Nat) :
    List (Nat × BitVec 256 × BitVec 64) → List (Nat × BitVec 128 × Option (BitVec 8)) × State
  | [] => ([], s)
  | (L, ray, hdr) :: l =>
    let y := s.traceRay part ctx die ray hdr
    let z := traceAll y.2 part ctx die l
    ((L, y.1) :: z.1, z.2)

/-- The ray's header address in a lane (R326). -/
def headerOf (r : Run) (a : BitVec 8) (L : Nat) : BitVec 64 := r.group.vreg (a.toNat + 9) L ++ r.group.vreg (a.toNat + 8) L

/-- The parcel of a lane as it is sent (R66, R327): the 64 bytes of the block with HOPS one higher, the sender's package and two zero bytes. -/
def sentByte (r : Run) (a : BitVec 8) (L m : Nat) : BitVec 8 :=
  let own := (r.group.vreg (a.toNat + m / 4) L).extractLsb' (8 * (m % 4)) 8
  if m = 38 then own + 1 else if m = 48 then Config.package.extractLsb' 0 8 else if m = 49 then Config.package.extractLsb' 8 8
  else if m = 50 ∨ m = 51 then 0 else own

/-- The failure of a lane's parcel (R327, R360): HOPS, NOGRANT, OVERGRANT with the lower lanes to its destination filling the grant; none. -/
def parcelFail (s : State) (r : Run) (a b : BitVec 8) (L : Nat) : Option Nat :=
  let dest := fun Q => ((r.src32 b Q).extractLsb' 0 16).toNat
  let spent := fun Q => (r.group.vreg (a.toNat + 9) Q).extractLsb' 16 8 = 255
  if s.mgmt.selvDown = true then some 0x22
  else if spent L then some 0x21
  else match FMap.get? s.selv.credits (dest L) with
    | none => some 0x22
    | some x => if ((lanesOf r.active).filter fun Q => decide (Q < L) && dest Q == dest L && !decide (spent Q)).length < x.1 then none else some 0x23

/-- The management controller's record alone differs. -/
def OnlyMgmt (s t : State) (m : Mgmt) : Prop := t = { s with mgmt := m }

/-- One event of the Build Map is applied (R24): MAPVER is one higher, CAUSE and SUBJECT name it, and the record otherwise
changes as given. No register of a group or path and no partition, link or gang changes. -/
def MapEvent (s t : State) (cause : BitVec 8) (subject : Nat) (f : Mgmt → Mgmt) : Prop :=
  t.mgmt = { f s.mgmt with mapver := s.mgmt.mapver + 1, cause := cause, subject := BitVec.ofNat 16 subject } ∧
  t.groups = s.groups ∧ t.paths = s.paths ∧ t.gangs = s.gangs ∧ t.links = s.links ∧ t.launches = s.launches ∧ t.selv = s.selv

/-- The Build Map can advance (R24, R360). -/
def Live.package (s : State) : Prop := s.mgmt.needsReset = false ∧ s.mgmt.mapver ≠ 0xFFFFFFFF

/-- The STATE of a core, channel or port entry. -/
def coreState (m : Mgmt) (i : Nat) : Nat := ((m.core i).extractLsb' 0 2).toNat
def chanState (m : Mgmt) (i : Nat) : Nat := ((m.chan i).extractLsb' 0 2).toNat

/-- The entry's STATE replaced. -/
def withState (e : BitVec 32) (x : Nat) : BitVec 32 := (e.extractLsb' 2 30 ++ BitVec.ofNat 2 x).setWidth 32

/-- `n` bytes at an offset of a little-endian record. -/
def field (x off n : Nat) : Nat := x / 2 ^ (8 * off) % 2 ^ (8 * n)

/-- The 64 bytes of the record of a TRAP (R82): its number, its code, the gang, the workgroup, group and path, the address, s0 to s7. -/
def SyscallRecord (r : Run) (seq : BitVec 32) (code : BitVec 24) (bs : List (BitVec 8)) : Prop :=
  let x := leNat bs
  let n := r.key % 32
  bs.length = 64 ∧ field x 0 4 = seq.toNat ∧ field x 4 4 = code.toNat ∧ field x 8 4 = r.gang.seq.toNat ∧
    field x 12 4 = r.wk % 8 + 8 * (r.gk % 16) + (if n < 4 then 128 * n else 512 + 1024 * (n - 4)) ∧ field x 16 8 = r.path.pc.toNat ∧
    (∀ j, j < 8 → field x (24 + 4 * j) 4 = (r.group.sreg j).toNat) ∧ field x 56 8 = 0

/-- The next record of a queue can be fetched (R74, R76, R86). -/
def Fetchable (s : State) (part queue : Nat) : Prop :=
  let q := s.queue (16 * part + queue)
  queue < 16 ∧ q.log ≠ 0 ∧ q.err = false ∧ q.head ≠ q.tail ∧ s.partEn part = true ∧ (s.part part).ending = false ∧
    (s.ctx part q.ctx).swapst = 0

/-- Nothing waits to be sent on a link for the first time: no franking flit, no queued request. -/
def Idle (s : State) (l : Nat) : Prop :=
  (s.link l).frank = false ∧ ∀ q ∈ s.reqs, q.sent = true → q.link = l → q.left = true

/-- The slot in use can count n more flits without a warning and without reaching the limit (R46). -/
def NoWarning (k : Link) (n : Nat) : Prop := 31 ≤ k.warnexp.toNat ∧ (CMap.get k.cnt k.txslot.toNat).toNat + n ≤ 2 ^ 30

/-- Earlier records of the launch's queue are all complete (R77). -/
def EarliestIn (s : State) (l : Launch) : Prop :=
  ∀ x ∈ s.launches, x.2.part = l.part → x.2.queue = l.queue → ¬ (0 < (l.index - x.2.index).toNat ∧ (l.index - x.2.index).toNat < 2 ^ 31)

/-- A function holds the partition (R18, R72): the package has started, and partition 0 is PF0's without virtual functions, partition n
that of VF n. -/
def Hosted (s : State) (part : Nat) : Prop :=
  s.mgmt.started = true ∧ if part = 0 then s.vfEn = false else s.vfEn = true ∧ part ≤ 8 ∧ part ≤ s.numVfs

/-- The place of R131: the lowest cluster, then the lowest position, that qualifies. -/
def Lowest (ok : Nat → Nat → Bool) (cls : List Nat) (cl p : Nat) : Prop :=
  cl ∈ cls ∧ p < 8 ∧ ok cl p = true ∧ ∀ c x, c ∈ cls → x < 8 → c < cl ∨ (c = cl ∧ x < p) → ok c x = false

/-- What a gang of a launch asks of a place. -/
def launchNeeds (l : Launch) : GReq := ⟨l.part, l.record.wgs, l.record.grps, l.record.slice, l.record.scratch, l.record.cluster⟩

/-- The next gang of the launch is due (R80, R86, R97, R109, R141), and its chip scratchpad is there. -/
def Due (s : State) (k : Nat) (l : Launch) : Prop :=
  s.mgmt.needsReset = false ∧ FMap.get? s.launches k = some l ∧ l.record.kind = 1 ∧ l.killed = false ∧
    l.next < l.record.gx * l.record.gy * l.record.gz ∧ (s.ctx l.part l.ctx).swapst = 0 ∧ (l.record.after = true → EarliestIn s l) ∧
    (∀ x ∈ s.gangs, x.2.src = .launch k → x.2.status ≠ 1 ∧ x.2.status ≠ 2) ∧ s.backed (launchNeeds l) = true ∧
    s.partEn l.part = true ∧ (s.part l.part).pst = 1 ∧ (l.started = true ∨ s.chipAlloc l.record.chip ≠ none)

/-- The SEQ of a context's next gang: the first number from nextSeq on that no gang of the context has (R129, log 81). -/
def SeqIs (s : State) (part ctx : Nat) (q : BitVec 32) : Prop :=
  let taken := fun i => (FMap.get? s.gangs (2 ^ 32 * (64 * part + ctx) + ((s.ctx part ctx).nextSeq + BitVec.ofNat 32 i).toNat)).isSome
  ∃ i, i ≤ s.gangs.length ∧ q = (s.ctx part ctx).nextSeq + BitVec.ofNat 32 i ∧ taken i = false ∧ ∀ j, j < i → taken j = true

/-- A group and its one split at start (R133), with scalar registers and an entry address. -/
def Fresh (t : State) (gk : Nat) (sregs : Nat → BitVec 32) (pc : BitVec 64) (aper : CMap 64) : Prop :=
  (∃ g, FMap.get? t.groups gk = some g ∧ (∀ n, g.sreg n = sregs n) ∧ (∀ n L, g.vreg n L = 0) ∧ (∀ n, n ≠ 0 → g.pred n = 0) ∧
    g.aflags = 0 ∧ g.exited = 0) ∧
  ∃ p, FMap.get? t.paths (32 * gk) = some p ∧ p.pc = pc ∧ p.mask = 0xFFFFFFFF ∧ p.gm = 2 ∧ p.stack = [] ∧ p.live = [] ∧ p.pix = 0 ∧
    p.lstat = 0 ∧ p.aper = aper ∧ p.wait = .ready ∧ p.loads = [] ∧ p.inH = false ∧ p.hcause = 0 ∧ p.stop = 0

/-- The docket priority of a gang: that of its launch's queue, or of its docket (R75, R150). -/
def priority (s : State) (g : Gang) : Nat :=
  match g.src with
  | .launch k => ((FMap.get? s.launches k).map (·.prio)).getD 0
  | .docket k => ((FMap.get? s.dockets k).map (·.prio)).getD 0

/-- Something that a gang may be pre-empted for waits (R142): a docket of higher priority without its gang on cores, or a launch of another
context with a gang to place. -/
def Wanted (s : State) (g : Gang) : Prop :=
  (∃ x ∈ s.dockets, priority s g < x.2.prio ∧ (x.2.kind = 0 ∨ x.2.kind = 4) ∧ (x.2.state = 2 ∨ x.2.state = 3) ∧
    ∀ y ∈ s.gangs, y.2.src = .docket x.1 → y.2.status = 1) ∨
  ∃ x ∈ s.launches, (x.2.part ≠ g.part ∨ x.2.ctx ≠ g.ctx) ∧ x.2.record.kind = 1 ∧ x.2.killed = false ∧
    (x.2.next < x.2.record.gx * x.2.record.gy * x.2.record.gz ∨ ∃ y ∈ s.gangs, y.2.src = .launch x.1 ∧ y.2.status = 1)

/-- A path stopped with its gang (R147, R187, R192): STOP 0x23, or 0x21 at its BRK; a wait for banks not yet granted starts over, a pause is
past. -/
def Stopped (s : State) (k : Nat) (x x' : Path) : Prop :=
  x'.stop = (if x.stop = 0x21 then 0x21 else 0x23) ∧ x'.mask = x.mask ∧ x'.gm = x.gm ∧ x'.fw = x.fw ∧
    ((∀ n, x.wait ≠ .pause n) → ∀ w, FMap.get? s.wgs (k / 512) = some w →
      x' = { x with stop := x'.stop, wait := if x.wait = .banks ∧ w.acc = none then .retry else x.wait })

/-- The workgroups of a gang are off their cores, with what they hold. -/
def Kept (s t : State) (gid : Nat) (g : Gang) : Prop :=
  ∀ i w, i < g.nwg → FMap.get? s.wgs (8 * gid + i) = some w → ∃ w', FMap.get? t.wgs (8 * gid + i) = some w' ∧ w'.core = 1000 ∧
    w'.scratch = w.scratch ∧ w'.slices = w.slices ∧ w'.tags = w.tags ∧ w'.pins = w.pins

/-- A lower-numbered gang of the gang's launch has not retired: it does not lead (R141). -/
def Follows (s : State) (g : Gang) : Prop :=
  (∃ k, g.src = .docket k) ∨ ∃ x ∈ s.gangs, x.2.src = g.src ∧ x.2.linear < g.linear ∧ x.2.status ≠ 4

/-- An f32 word's value; a value rounded to one to nearest even, subnormals kept (R51, R64); exact sums, differences and products. -/
def v32 (x : BitVec 32) : FV := fmtF32.decode x.toNat
def r32 (v : FV) : BitVec 32 := BitVec.ofNat 32 (fmtF32.round rne v).1
def plus (x y : FV) : FV := (FV.add 0 x y).1
def minus (x y : FV) : FV := plus x y.neg
def times (x y : FV) : FV := (FV.mul x y).1
def whole (n : Nat) : FV := .fin false n 0

/-- x lies before y in the depth order (R51): by value, zeros alike, a NaN after all else. -/
def DepthBefore (x y : BitVec 32) : Prop :=
  ((v32 x).isNaN = false ∧ (v32 y).isNaN = true) ∨ FV.cmp? (v32 x) (v32 y) = some .lt

/-- Pixel i of a tile: word 64·c + i of each channel c (R50). -/
def pixel (chans : Nat) (t : List (BitVec 32)) (i : Nat) : List (BitVec 32) := (List.range chans).map fun c => t.getD (64 * c + i) 0

/-- The word that PLANE gives pixel i from a, b and c (R55). -/
def planeWord (a b c : BitVec 32) (i : Nat) : BitVec 32 :=
  r32 (plus (times (v32 c) (whole (i / 8))) (v32 (r32 (plus (times (v32 b) (whole (i % 8))) (v32 a)))))

/-- A channel that PLANE reproduces, where the encoder may try it (R55). -/
def Planar (may : Bool) (vs : List (BitVec 32)) (b c : BitVec 32) : Prop :=
  may = true ∧ (∀ v ∈ vs, (v32 v).isNaN = false) ∧ ∀ i, i < 64 → vs[i]? = some (planeWord (vs.getD 0 0) b c i)

/-- The job a docket's pass runs, once its run has started, and the state once it is known (R56, R59): the job of earlier passes, or
the one its descriptor gives, with the tiles that came before it. -/
def PassJob (u u1 : State) (k : Nat) (d : Docket) (j : Job) : Prop :=
  (FMap.get? u.selv.jobs k = some j ∧ 0 < j.pass ∧ u.mgmt.selvDown = false ∧ u1 = u) ∨
    ∃ j' held, u.readDesc k d = (.ok j', u1) ∧
      ((FMap.get? u.selv.jobs k = none ∧ held = []) ∨ ∃ j0, FMap.get? u.selv.jobs k = some j0 ∧ j0.pass = 0 ∧ held = j0.arrived) ∧
      j = { j' with arrived := held.filter fun m => m.digest != j'.digest || (j'.receives m.round).contains (m.sender, m.tile) }

/-- A job's status record (R57). -/
def statusBytes (j : Job) (code : Nat) (cause : BitVec 8) (final : Bool) : List (BitVec 8) :=
  leBytes (code + (if j.sat = true then 2 ^ 8 else 0) + (if final = true then 2 ^ 9 else 0) + cause.toNat * 2 ^ 16 + j.pass % 2 ^ 32 * 2 ^ 32) 16

/-- A job ends with a code other than OK (R57, R58): its status record is written, its docket's run is complete, JOBFAIL counts it. -/
def JobFails (s : State) (k : Nat) (d : Docket) (j : Job) (code : Nat) (cause : BitVec 8) (final : Bool) (t : State) : Prop :=
  ∀ s1, s.wroteVA d.part d.ctx 2 j.stat.toNat (statusBytes j code cause final) = (true, s1) →
    t = { s1 with selv := { s1.selv with
      jobs := FMap.erase s1.selv.jobs k
      jobfail := if s1.selv.jobfail = 0xFFFFFFFF then s1.selv.jobfail else s1.selv.jobfail + 1 } }.completeRun k (!j.dsthdr)
      (if d.subv = true then some (j.sealed, true) else none)

/-- The tiles of a list are written to their places from a base, one after the other (R50, R54). -/
def TilesPut (d : Docket) (j : Job) (base : Nat) : State → List Nat → State → Prop
  | s, [], u => u = s
  | s, t :: ts, u => ∃ s1, s.wroteVA d.part d.ctx 3 (base + 256 * j.chans * t) ((j.tile t).flatMap fun w => leBytes w.toNat 4) = (true, s1) ∧
      TilesPut d j base s1 ts u

/-- A pass ends with OK (R57, R59): the record, then the docket's run is complete; the job goes, but for one with passes to come. -/
def PassEnds (s : State) (k : Nat) (d : Docket) (j : Job) (final : Bool) (t : State) : Prop :=
  ∀ s1, s.wroteVA d.part d.ctx 2 j.stat.toNat (statusBytes j 1 0 final) = (true, s1) →
    t = { s1 with selv := { s1.selv with
      jobs := if j.sub = true ∧ final = false then
          FMap.set s1.selv.jobs k { j with running := false, posted := false, part := [], planes := [], arrived := [] }
        else FMap.erase s1.selv.jobs k } }.completeRun k (!j.dsthdr)
      (if j.sub = true then some (j.sealed, final) else none)

/-- A tile's message as the rank keeps it. -/
def tileMsg (sender pass round tile : Nat) (allSealed : Bool) (digest : BitVec 64) (bytes : List (BitVec 8)) : TileMsg :=
  ⟨sender, pass, round, tile, allSealed, digest, bytes⟩

/-- The pairs of a run of ranks, combined as binary swap does: the lower half, the upper half, the two together (R52, R64). -/
def tree : Nat → List (BitVec 32 × BitVec 32) → BitVec 32 × BitVec 32
  | 0, l => l.headD (0, 0)
  | k + 1, l => combine (tree k (l.take (2 ^ k))) (tree k (l.drop (2 ^ k)))

/-- FINAL of a pair in a collective's type (R64). -/
def FinalOf (c : Coll) (p : BitVec 32 × BitVec 32) (z : Nat) : Prop :=
  let f := if c.bf16 = true then fmtBF16 else fmtF32
  ((v32 p.1).isNaN = true → z = f.nan) ∧ (∀ g, v32 p.1 = .inf g → z = f.inf g) ∧
    (FinVal (v32 p.1) → z = (f.round rne (plus (v32 p.1) (v32 p.2))).1)

/-- A staged collective that R61 allows. -/
def EntryOk (x : Nat) : Prop :=
  let p := field x 2 1 + 1
  field x 0 2 < 8 ∧ 2 ≤ p ∧ (field x 0 2 / 2 % 2 = 0 → ∃ k, p = 2 ^ k) ∧ field x 3 1 < p ∧ 1 ≤ field x 4 4 ∧ field x 4 4 ≤ 2 ^ 28

/-- The Selvedge's record alone differs. -/
def OnlySelv (s t : State) (v : Selv) : Prop := t = { s with selv := v }

/-- The gang that a context's window names, of a partition that a function holds: it exists, and no command is under way (R72, R88, R89). -/
def Targets (s : State) (part ctx gid : Nat) (g : Gang) : Prop :=
  let d := (s.ctx part ctx).dbg
  Hosted s part ∧ gid = 2 ^ 32 * (64 * part + ctx) + d.gang.toNat ∧ d.status ≠ 6 ∧ FMap.get? s.gangs gid = some g ∧ g.status ≠ 4 ∧ g.status ≠ 5

/-- The window's STATUS set, all else as before. -/
def statusSet (s : State) (part ctx : Nat) (x : BitVec 3) : State :=
  s.putCtx part ctx { s.ctx part ctx with dbg := { (s.ctx part ctx).dbg with status := x } }

/-- The path the window names. -/
def dbgKey (s : State) (part ctx : Nat) : Nat :=
  let d := (s.ctx part ctx).dbg
  32 * (16 * (8 * (2 ^ 32 * (64 * part + ctx) + d.gang.toNat) + d.wg) + d.grp) + if d.frag = true then 4 + d.fnum else d.split

/-- Registers of the window (R88): whether of 64 bits, and the value. -/
def regValue (s : State) (r : Run) (lane n : Nat) : Option (Bool × BitVec 64) :=
  if n < 0x80 then some (false, (r.group.vreg n lane).setWidth 64)
  else if n < 0xA0 then some (false, (r.group.sreg (n - 0x80)).setWidth 64)
  else if n < 0xA4 then some (false, (r.path.latch (n - 0xA0) lane).setWidth 64)
  else if 0xB0 ≤ n ∧ n < 0xB8 then some (false, (r.group.pred (n - 0xB0)).setWidth 64)
  else if n = 0xC0 then some (false, r.path.gm.setWidth 64)
  else if n = 0xC1 then some (true, r.path.pc)
  else if 0x1000 ≤ n then sysValue s r (n - 0x1000)
  else none

/-- The window selects a path of a gang whose halt has taken effect. -/
def Selected (s : State) (part ctx : Nat) (r : Run) : Prop :=
  ∃ gid g, Targets s part ctx gid g ∧ g.halted = true ∧ s.counted gid = true ∧ s.runAt (dbgKey s part ctx) = some r ∧
    ((s.ctx part ctx).dbg.frag = true → (s.ctx part ctx).dbg.fnum < 28)

/-- No load of the group is in flight. -/
def NoLoads (s : State) (r : Run) : Prop := ∀ x ∈ s.pathsOf r.gk, x.2.loads = []

/-- A load of the group is to write register n of the lane. -/
def InFlight (s : State) (r : Run) (n lane : Nat) : Prop :=
  ∃ x ∈ s.pathsOf r.gk, ∃ l ∈ x.2.loads, l.wr = true ∧ ∃ y ∈ l.lanes, y.lane = lane ∧ y.reg ≤ n ∧ n < y.reg + y.nreg ∧ n ∉ y.skip

/-- The next slot of a pigeonhole is due, and its ring lies in host memory, which answers (R152, R359): its address there. -/
def SlotDue (s : State) (hole part at_ : Nat) : Prop :=
  let h := s.hole hole
  s.hostErr = false ∧ s.holeOwner hole = some part ∧ h.log ≠ 0 ∧ h.err.getLsbD 0 = false ∧ h.acc ≠ h.tail ∧ HostRing h ∧
    at_ = h.base.toNat % 2 ^ 63 + 64 * (h.acc.toNat % 2 ^ h.log)

/-- A docket that an engine may take (R151, R154). -/
def Candidate (s : State) (die kind engine : Nat) (x : Nat × Docket) : Prop :=
  x ∈ s.dockets ∧ x.2.hole / 64 = die ∧ x.2.state = 2 ∧ (if x.2.kind = 4 then 0 else x.2.kind) = kind ∧ s.canTake die engine x.1 x.2 = true

/-- The place of a path in the cyclic order of its group's slot (R135): a split's number, then the fragments in order of creation; which of two
places comes sooner after the one whose turn it was. -/
def place (x : Nat × Path) : Nat := if x.1 % 32 < 4 then x.1 % 32 else 4 + x.2.born
def Sooner (turn a b : Nat) : Prop := (turn < a ∧ (b ≤ turn ∨ a ≤ b)) ∨ (a ≤ turn ∧ b ≤ turn ∧ a ≤ b)

/-- The gang's record stays: it has a workgroup, and each of its workgroups has a path. -/
def StaysPlaced (s : State) (gid : Nat) : Prop := (∃ wk, wk / 8 = gid ∧ (FMap.get? s.wgs wk).isSome = true) ∧
  ∀ wk, (FMap.get? s.wgs wk).isSome = true → wk / 8 = gid → ∃ x ∈ s.paths, x.1 / 512 = wk

/-- A copy under way that has done nothing yet. -/
def NotBegun (i : Inst) : Prop := i.wr = false ∧ i.pos = 0 ∧ i.pend = 0 ∧ i.code = 0 ∧ i.buf = []

/-- The head list of a core's Loom may run a command, which the Loom reads (R170, R176). -/
def AtCommand (s s1 : State) (core : Nat) (l : LoomList) (x : BitVec 256) : Prop :=
  (∃ rest, loomOf s core = l :: rest) ∧ (∀ k d, l.docket = some k → FMap.get? s.dockets k = some d → d.stopping = false) ∧
    s.loomFrozen l = false ∧
    ∃ bs, s.readVA l.part l.ctx 2 ((l.addr.toNat + 32 * l.cmd) % 2 ^ 64) 32 = (some bs, s1) ∧ x = BitVec.ofNat 256 (leNat bs)

/-- Rows, columns, first bank of a command's tile (R170). -/
def tileRows (x : BitVec 256) : Nat := if x.extractLsb' 12 2 = 0 then 16 else if x.extractLsb' 12 2 = 1 then 32 else 64
def tileCols (x : BitVec 256) : Nat := 16 * (x.extractLsb' 16 6).toNat
def firstBank (x : BitVec 256) : Nat := (x.extractLsb' 24 4).toNat

/-- A ring of a multiplication: its header, data and slots, its rows. -/
def ringA (x : BitVec 256) : Ring := ⟨(x.extractLsb' 64 32).toNat, (x.extractLsb' 128 32).toNat, (x.extractLsb' 192 4).toNat + 1, tileRows x⟩
def ringB (x : BitVec 256) : Ring := ⟨(x.extractLsb' 96 32).toNat, (x.extractLsb' 160 32).toNat, (x.extractLsb' 196 4).toNat + 1, tileCols x⟩

/-- The slot of a ring that a use reads (R171); the bounds of the words and the data it needs (R173); their tags (R168); the full barrier's
phase. -/
def slotOf (s : State) (loc : SLoc × Nat) (g : Ring) (u : Nat) : Nat := ((s.barWord loc.1 g.hdr).toNat + u) % 2 ^ 64 % g.n
def RingIn (s : State) (loc : SLoc × Nat) (g : Ring) (sz u : Nat) : Prop :=
  g.hdr + 8 ≤ loc.2 ∧ s.barTag loc.1 g.hdr = false ∧ g.hdr + 8 * (1 + g.n + slotOf s loc g u) + 8 ≤ loc.2 ∧
    g.data + (slotOf s loc g u + 1) * sz ≤ loc.2
def RingTags (s : State) (loc : SLoc × Nat) (g : Ring) (u : Nat) : Prop :=
  s.barTag loc.1 (g.hdr + 8 * (1 + slotOf s loc g u)) = true ∧ s.barTag loc.1 (g.hdr + 8 * (1 + g.n + slotOf s loc g u)) = true
def RingFull (s : State) (loc : SLoc × Nat) (g : Ring) (u : Nat) : Prop :=
  ((barOf (s.barWord loc.1 (g.hdr + 8 * (1 + slotOf s loc g u)))).phase -
    BitVec.ofNat 7 (((s.barWord loc.1 g.hdr).toNat + u) % 2 ^ 64 / g.n + 1)).toNat < 64

/-- A word after one arrival (R169, R310). -/
def arrived (w : BitVec 64) : BitVec 64 := ({ barOf w with arr := (barOf w).arr - 1 } : Bar).tested.word

/-- A multiplication that may take a step (R170, R173): the list's accumulators, with banks for the tile, of its kind unless it zeroes them;
where its rings lie. -/
def MayMultiply (s1 : State) (l : LoomList) (x : BitVec 256) (acc : Acc) (loc : SLoc × Nat) (zero : Bool) : Prop :=
  let ta := (x.extractLsb' 4 4).toNat
  let banks := (tileRows x * tileCols x + 4095) / 4096
  mmaOk x l.docket.isSome = true ∧ s1.listAcc l = some acc ∧ firstBank x + banks ≤ acc.banks.length ∧
    (zero = false → ∀ q, q < banks → CMap.get acc.kinds (firstBank x + q) = if ta = 4 then 1 else 0) ∧
    loc = s1.listLoc l (if x.getLsbD 28 = true then .K else .S)

/-- Every page of a slot of a ring in scratch is resident (R93). -/
def SlotResident (s : State) (loc : SLoc × Nat) (g : Ring) (sz slot : Nat) : Prop :=
  ∀ wk w, loc.1 = .scratch wk → FMap.get? s.wgs wk = some w → ∀ o, o < sz → CMap.get w.pages ((g.data + slot * sz + o) / 1024) = 1

/-- Some words of a place take new values, and nothing else of the machine differs but the order in which pages were used, and the late
stores that those words meet. -/
def WordsPut (s v : State) (loc : SLoc) (ws : List (Nat × BitVec 64)) : Prop :=
  v = { s with cores := v.cores, wgs := v.wgs, gangs := v.gangs, launches := v.launches, stale := v.stale } ∧
    (∀ c, v.core c = { s.core c with lru := (v.core c).lru }) ∧ (∀ k, k ≠ loc → v.slocMem k = s.slocMem k) ∧
    (∀ k, v.slocTags k = s.slocTags k) ∧ (∀ w ∈ ws, v.barWord loc w.1 = w.2) ∧
    ∀ a, (∀ w ∈ ws, a < w.1 ∨ w.1 + 8 ≤ a) → CMap.get (v.slocMem loc) a = CMap.get (s.slocMem loc) a

/-- The END of a list is found n commands after command i (R170). -/
def EndAt : Nat → State → LoomList → Nat → BitVec 256 → State → Prop
  | 0, s, l, i, e, u => ∃ bs, s.readVA l.part l.ctx 2 ((l.addr.toNat + 32 * i) % 2 ^ 64) 32 = (some bs, u) ∧ e = BitVec.ofNat 256 (leNat bs) ∧
      e.extractLsb' 0 4 = 0
  | n + 1, s, l, i, e, u => ∃ bs s1, s.readVA l.part l.ctx 2 ((l.addr.toNat + 32 * i) % 2 ^ 64) 32 = (some bs, s1) ∧
      (BitVec.ofNat 256 (leNat bs)).extractLsb' 0 4 ≠ 0 ∧ EndAt n s1 l (i + 1) e u

/-- The status word of a list is written where its END says (R174): in memory, or in the space it names, inside its bound and on no tagged
word. -/
def StatusPut (u : State) (l : LoomList) (e : BitVec 256) (code : BitVec 8) (v : State) : Prop :=
  let word := code.toNat + (if l.fmt = true then 2 ^ 8 else 0) + 2 ^ 16 * (l.cmd % 2 ^ 16) + 2 ^ 32 * (l.step % 2 ^ 32)
  let at_ := (e.extractLsb' 128 64).toNat
  (e.extractLsb' 10 2 = 0 → v = (u.wroteVA l.part l.ctx 2 at_ (leBytes word 8)).2) ∧
    ∀ sp, (e.extractLsb' 10 2 = 1 ∧ sp = .K) ∨ (e.extractLsb' 10 2 = 3 ∧ sp = .S) →
      let loc := u.listLoc l sp
      (loc.2 < at_ + 8 ∨ tagged (u.slocTags loc.1) at_ 8 = true → v = u) ∧
      (at_ + 8 ≤ loc.2 → tagged (u.slocTags loc.1) at_ 8 = false →
        v = u.putSloc loc.1 (Memory.write (u.slocMem loc.1) at_ 8 word) (u.slocTags loc.1))

/-- A list leaves the Loom with a code (R174, R175): its END is found from its command on, the status word is written, then the target takes its
update, and the waits for barriers are tested; a Loom task's banks are freed. -/
def ListEnds (s : State) (core : Nat) (l : LoomList) (code : BitVec 8) (t : State) : Prop :=
  ∀ n e u v (fin : State → State), n < 2 ^ 52 →
    EndAt n ({ s with stale := [] }.putCore core { s.core core with loom := (s.core core).loom.drop 1 }) l l.cmd e u → StatusPut u l e code v →
    (∃ wk, l.wg = some wk ∧ fin = fun u => u.reapGang (wk / 8)) ∨
      (∃ k, l.wg = none ∧ l.docket = some k ∧ fin = fun u => u.freeBanksOf core (docketOwner k)) →
    (e.extractLsb' 10 2 ≠ 2 →
      (e.extractLsb' 8 2 = 0 → t = fin v.bwaitAll) ∧
      (e.extractLsb' 8 2 = 2 → t = fin (v.decDep l.part l.ctx (e.extractLsb' 64 64)).bwaitAll) ∧
      (∀ wk, l.wg = some wk → e.extractLsb' 8 2 = 3 → t = fin (v.eventAdd (wk / 8) (e.extractLsb' 16 8).toNat).bwaitAll) ∧
      (∀ sp, e.extractLsb' 8 2 = 1 → (e.extractLsb' 12 2 = 0 ∧ sp = .S) ∨ (e.extractLsb' 12 2 = 1 ∧ sp = .K) ∨ (e.extractLsb' 12 2 = 2 ∧ sp = .C) →
        let loc := v.listLoc l sp
        let o := (e.extractLsb' 64 64).toNat
        o % 8 = 0 → o + 8 ≤ loc.2 → v.barTag loc.1 o = true → t = fin (v.putBar loc.1 o (arrived (v.barWord loc.1 o))).bwaitAll))

/-- An accumulator after a step (R172): ADD16 on the packed elements of the two rows, or the exact integer sum of i8 products. -/
def stepAcc (m : CMap 8) (x : BitVec 256) (sa sb step : Nat) (old : BitVec 80) (i j : Nat) : BitVec 80 :=
  let ta := (x.extractLsb' 4 4).toNat
  let tb := (x.extractLsb' 8 4).toNat
  let blk := 32 * 2 ^ (x.extractLsb' 14 2).toNat
  let a := (ringA x).data + sa * (ringA x).slotBytes ta blk
  let b := (ringB x).data + sb * (ringB x).slotBytes tb blk
  let ks := (List.range 16).map (· + 16 * (step % (32 / tyBits ta)))
  if ta = 4 then BitVec.ofInt 80 (ks.foldl (fun (n : Int) k => n + (CMap.get m (a + 64 * i + k)).toInt * (CMap.get m (b + 64 * j + k)).toInt) old.toNat)
  else BitVec.ofNat 80 (add16 fmtA80 old.toNat ((ks.map fun k => (slotEl m a (tileRows x) ta blk i k).1).zip
    (ks.map fun k => (slotEl m b (tileCols x) tb blk j k).1))).1

end Sys2Proof.Claims

section

open Sys2Proof Sys2Proof.Machine Sys2Proof.Claims

/-- R229: the value a source selector supplies in a lane.

R230: under a 64-bit type a register or latch is the low half of a pair, a constant is zero-extended, an odd register
and fw3 are illegal. -/
def Obligations.SourceOperands : Prop :=
  (∀ (r : Run) (x : BitVec 8) (L : Nat), L < 32 →
     (x.toNat < 0x80 → r.src32 x L = r.group.vreg x.toNat L) ∧
     (0x80 ≤ x.toNat → x.toNat < 0xA0 → r.src32 x L = r.group.sreg (x.toNat - 0x80)) ∧
     (0xA0 ≤ x.toNat → x.toNat < 0xA4 → r.src32 x L = r.path.latch (x.toNat - 0xA0) L) ∧
     r.src32 0xA4 L = 0 ∧ r.src32 0xA5 L = BitVec.ofNat 32 L ∧ r.src32 0xA6 L = BitVec.ofNat 32 (r.gk % 16) ∧
     r.src32 0xA7 L = BitVec.ofNat 32 (r.wk % 8) ∧ r.src32 0xA8 L = BitVec.ofNat 32 r.wg.stage ∧ r.src32 0xA9 L = 1 ∧
     (∀ wide, selOk wide x = true → x.toNat ≤ 0xA9) ∧
     (selOk false x = true ↔ x.toNat ≤ 0xA9)) ∧
  (∀ (r : Run) (t : Nat) (x : BitVec 8) (L : Nat), tyIs64 t = true →
     (x.toNat < 0xA0 → r.src t x L = r.src32 (x + 1) L ++ r.src32 x L) ∧
     (0xA0 ≤ x.toNat → x.toNat < 0xA3 → r.src t x L = r.src32 (x + 1) L ++ r.src32 x L) ∧
     (0xA4 ≤ x.toNat → r.src t x L = (r.src32 x L).setWidth 64) ∧
     (selOk true x = true ↔ x.toNat ≤ 0xA9 ∧ (x.toNat < 0xA0 → x.toNat % 2 = 0) ∧ x.toNat ≠ 0xA3))

/-- R240, R233, R241: every instruction that has a destination register or predicate and touches no memory faults
ILLEGAL under its class's conditions, else LATCH in the lanes that read a dead latch; neither changes anything else than the
path's entry.

R233: a lane reads a dead latch through A when it is ACTIVE, A names fwN, and the lane is not live in fwN, or for a
pair in fw(N+1). -/
def Obligations.IllegalAndDeadLatches : Prop :=
  (∀ (s : State) (r : Run) (i : Instr) (c : OpClass), classOf i = some c → Executing s r →
     (c.legal r i = false → exec i s = .next (s.illegal r)) ∧
     (c.legal r i = true → c.dead r i ≠ 0 → exec i s = .next (s.latchFault r (c.dead r i)))) ∧
  (∀ (r : Run) (wide : Bool) (n L : Nat), n < 4 → L < 32 →
     ((r.dead wide (BitVec.ofNat 8 (0xA0 + n))).getLsbD L = true ↔
       r.active.getLsbD L = true ∧
         ¬((CMap.get r.path.live n).getLsbD L = true ∧ (wide = true → (CMap.get r.path.live (n + 1)).getLsbD L = true))) ∧
     (∀ x : BitVec 8, x.toNat < 0xA0 ∨ 0xA4 ≤ x.toNat → r.dead wide x = 0))

/-- R243, R236, R244, R226: NOP, MODE, MSHAPE, LIT and LITH: what each changes of its path and that it changes nothing
else. The premise on gm.T is the machine's own (R235).

R243, R245: MOV copies A; SEL takes each element of A where the old element of D is nonzero, else that of B. -/
def Obligations.BasicInstructions : Prop :=
  (∀ (s : State) (r : Run), Executing s r → gmT r.path.gm ≤ 14 →
     exec .nop s = .next (s.putPath r.key { r.path with pc := r.path.pc + 4, wait := .ready }) ∧
     (∀ i : BitVec 19,
       exec (.mode i) s =
         if (i.extractLsb' 0 5).toNat ≤ 14 ∧ (i.extractLsb' 5 5).toNat ≤ 14 ∧ (i.extractLsb' 10 3).toNat ≤ 4 then
           .next (s.putPath r.key { r.path with
             pc := r.path.pc + 4, wait := .ready, gm := (r.path.gm &&& 0xFFF80000) ||| i.setWidth 32 })
         else .next (s.illegal r)) ∧
     (∀ (m : BitVec 2) (n : BitVec 6),
       exec (.mshape m n) s =
         if m = 3 then .next (s.illegal r)
         else .next (s.putPath r.key { r.path with
           pc := r.path.pc + 4, wait := .ready, gm := (m ++ n ++ r.path.gm.extractLsb' 0 19).setWidth 32 })) ∧
     (∀ i : BitVec 24, ∃ p, exec (.lit i) s = .next (s.putPath r.key p) ∧
       Advanced { r.path with fw := p.fw, live := p.live } p ∧ Shifted r.path p r.active false fun _ => (i.signExtend 32).setWidth 64) ∧
     (∀ i : BitVec 16, r.active &&& ~~~(CMap.get r.path.live 0) = 0 →
       ∃ p, exec (.lith i) s = .next (s.putPath r.key p) ∧ Advanced { r.path with fw := p.fw } p ∧
         ∀ n L, L < 32 → p.latch n L =
           if n = 0 ∧ r.active.getLsbD L = true then i ++ (r.path.latch 0 L).extractLsb' 0 16 else r.path.latch n L) ∧
     (∀ i : BitVec 16, r.active &&& ~~~(CMap.get r.path.live 0) ≠ 0 →
       exec (.lith i) s = .next (s.latchFault r (r.active &&& ~~~(CMap.get r.path.live 0))))) ∧
  (∀ (s : State) (r : Run) (w : BitVec 1) (d : BitVec 7) (a b : BitVec 8), Executing s r →
     (Runs r (.mov w d a) → ∃ t, exec (.mov w d a) s = .next t ∧
       VResult s t r w d.toNat (tyIs64 r.T) (fun L => r.src r.T a L) (fun _ => 0)) ∧
     (Runs r (.sel w d a b) → ∃ t val, exec (.sel w d a b) s = .next t ∧
       VResult s t r w d.toNat (tyIs64 r.T) val (fun _ => 0) ∧
       ∀ L, On r L → Elems r.T (val L) fun k e => e =
         if el (tyBits r.T) (r.dval r.T d.toNat L) k ≠ 0 then el (tyBits r.T) (r.src r.T a L) k
         else el (tyBits r.T) (r.src r.T b L) k))

/-- R246, R247: every element of an arithmetic instruction is the exact result, clamped to the range of gm.T when the
instruction saturates and gm.SAT is 1, else taken modulo 2^w; AFLAGS.SAT is raised where clamping changed a value, and no
other flag. -/
def Obligations.IntegerArithmetic : Prop :=
  ∀ (s : State) (r : Run) (i : Instr) (o : Ops) (sat : Bool) (op : Nat → Int → Int → Int → Int),
    arithOf i = some (o, sat, op) → Executing s r → Runs r i →
    ∃ t val fl, exec i s = .next t ∧ VResult s t r o.w o.d.toNat (tyIs64 r.T) val fl ∧
      ∀ L, On r L →
        let n := tyBits r.T
        let e := fun k => op n (ival r.T (el n (r.src r.T o.a L) k)) (ival r.T (el n (r.src r.T o.b L) k))
          (ival r.T (el n (r.dval r.T o.d.toNat L) k))
        let s := sat && r.path.gm.getLsbD 13
        (Elems r.T (val L) fun k z => z = BitVec.ofInt n (if s = true then clamp r.T (e k) else e k)) ∧
        (fl L = fSAT ∨ fl L = 0) ∧
        (fl L = fSAT ↔ s = true ∧ ∃ k, k < tyElems r.T ∧ clamp r.T (e k) ≠ e k)

/-- R248, R249: every element of a logical, shift, count or reordering instruction; no flag.

R250: BFX extracts and BFI inserts the field that the low 16 bits of B set, bit by bit; the types accepted are b32, b64,
i32 and i64, and the word is ILLEGAL under another.

R251: LEA1 to LEA4; B is one 32-bit source whatever gm.T is, sign-extended only for i64, and the example's word. -/
def Obligations.BitOperations : Prop :=
  (∀ (s : State) (r : Run) (i : Instr) (o : Ops) (rel : (n : Nat) → BitVec n → BitVec n → BitVec n → Prop),
     bitsOf i = some (o, rel) → Executing s r → Runs r i →
     ∃ t val, exec i s = .next t ∧ VResult s t r o.w o.d.toNat (tyIs64 r.T) val (fun _ => 0) ∧
       ∀ L, On r L → Elems r.T (val L) fun k z =>
         rel (tyBits r.T) (el (tyBits r.T) (r.src r.T o.a L) k) (el (tyBits r.T) (r.src r.T o.b L) k) z) ∧
  (∀ (s : State) (r : Run) (w : BitVec 1) (d : BitVec 7) (a b : BitVec 8), Executing s r →
     (r.T ≠ 2 → r.T ≠ 3 → r.T ≠ 6 → r.T ≠ 7 →
       exec (.bfx w d a b) s = .next (s.illegal r) ∧ exec (.bfi w d a b) s = .next (s.illegal r)) ∧
     (Runs r (.bfx w d a b) → ∃ t val, exec (.bfx w d a b) s = .next t ∧
       VResult s t r w d.toNat (tyIs64 r.T) val (fun _ => 0) ∧
       ∀ L, On r L →
         let n := tyBits r.T
         let pos := fieldPos n (r.src r.T b L)
         let len := fieldLen n (r.src r.T b L)
         ∀ j, j < n → (val L).getLsbD j =
           if len = 0 then false
           else if j < len then (r.src r.T a L).getLsbD (pos + j)
           else tyIsI r.T && (r.src r.T a L).getLsbD (pos + len - 1)) ∧
     (Runs r (.bfi w d a b) → ∃ t val, exec (.bfi w d a b) s = .next t ∧
       VResult s t r w d.toNat (tyIs64 r.T) val (fun _ => 0) ∧
       ∀ L, On r L →
         let n := tyBits r.T
         let pos := fieldPos n (r.src r.T b L)
         let len := fieldLen n (r.src r.T b L)
         ∀ j, j < n → (val L).getLsbD j =
           if pos ≤ j ∧ j < pos + len then (r.src r.T a L).getLsbD (j - pos) else (r.dval r.T d.toNat L).getLsbD j)) ∧
  ((∀ (s : State) (r : Run) (i : Instr) (o : Ops) (m : Nat), leaOf i = some (o, m) → Executing s r →
     (r.T ≠ 2 → r.T ≠ 3 → r.T ≠ 6 → r.T ≠ 7 → exec i s = .next (s.illegal r)) ∧
     (tyIs64 r.T = true → o.a.toNat < 0xA0 → o.a.toNat % 2 = 1 → exec i s = .next (s.illegal r)) ∧
     (Runs r i → ∃ t val, exec i s = .next t ∧ VResult s t r o.w o.d.toNat (tyIs64 r.T) val (fun _ => 0) ∧
       ∀ L, On r L →
         (r.T = 2 ∨ r.T = 6 → (val L).setWidth 32 = r.src32 o.a L + r.src32 o.b L * BitVec.ofNat 32 (2 ^ m)) ∧
         (r.T = 3 → val L = r.srcPair o.a L + (r.src32 o.b L).setWidth 64 * BitVec.ofNat 64 (2 ^ m)) ∧
         (r.T = 7 → val L = r.srcPair o.a L + (r.src32 o.b L).signExtend 64 * BitVec.ofNat 64 (2 ^ m)))) ∧
   decode 0x2B0A080C = .ok (.lea3 0 10 8 12) ∧
   (∀ r : Run, r.T = 3 → ∀ c, classOf (.lea3 0 10 8 13) = some c → c.legal r (.lea3 0 10 8 13) = true))

/-- R252: DOT4 and DOTQ accumulate into one 32-bit D, b32 under b8 and i32 under i8, wrapping or clamping under SAT.

R253: PACK2 narrows A and B into elements 0 and 1; PRMB picks bytes of B:A by the selectors in D. -/
def Obligations.DotProductsAndPacking : Prop :=
  (∀ (s : State) (r : Run) (i : Instr) (o : Ops) (n : Nat), dotOf i = some (o, n) → Executing s r →
     (r.T ≠ 0 → r.T ≠ 4 → exec i s = .next (s.illegal r)) ∧
     (Runs r i → ∃ t val fl, exec i s = .next t ∧ VResult s t r o.w o.d.toNat false val fl ∧
       ∀ L, On r L →
         let acc := if r.T = 4 then 6 else 2
         let d := r.group.vreg o.d.toNat L
         let e := dotSum n (r.T == 4) (if r.T = 4 then d.toInt else (d.toNat : Int)) (r.src32 o.a L) (r.src32 o.b L)
         (val L).setWidth 32 = narrowed (r.path.gm.getLsbD 13) acc 32 e ∧
         fl L = if r.path.gm.getLsbD 13 = true ∧ clamp acc e ≠ e then fSAT else 0)) ∧
  (∀ (s : State) (r : Run) (w : BitVec 1) (d : BitVec 7) (a b : BitVec 8), Executing s r →
     (r.T ≠ 1 → r.T ≠ 5 → exec (.pack2 w d a b) s = .next (s.illegal r)) ∧
     (r.T ≠ 2 → exec (.prmb w d a b) s = .next (s.illegal r)) ∧
     (Runs r (.pack2 w d a b) → ∃ t val fl, exec (.pack2 w d a b) s = .next t ∧
       VResult s t r w d.toNat false val fl ∧
       ∀ L, On r L →
         let sat := r.path.gm.getLsbD 13
         let num := fun x : BitVec 32 => if r.T = 5 then x.toInt else (x.toNat : Int)
         let e0 := num (r.src32 a L)
         let e1 := num (r.src32 b L)
         (val L).setWidth 32 = narrowed sat r.T 16 e1 ++ narrowed sat r.T 16 e0 ∧
         fl L = if sat = true ∧ (clamp r.T e0 ≠ e0 ∨ clamp r.T e1 ≠ e1) then fSAT else 0) ∧
     (Runs r (.prmb w d a b) → ∃ t val, exec (.prmb w d a b) s = .next t ∧
       VResult s t r w d.toNat false val (fun _ => 0) ∧
       ∀ L, On r L → ∀ j i, j < 4 → i < 8 →
         let sel := ((r.group.vreg d.toNat L).extractLsb' (4 * j) 4).toNat
         let src := r.src32 b L ++ r.src32 a L
         (val L).getLsbD (8 * j + i) = src.getLsbD (8 * (sel % 8) + if 8 ≤ sel then 7 else i)))

/-- R245, R259: MOVS takes the lowest ACTIVE lane's value, BALLOT the lanes whose source is not zero, ACTM the ACTIVE mask; with
no ACTIVE lane no scalar is written (R242).

R259: VANY, VALL, VEQ, MATCH and ELECT.

R258: each shuffle takes the source lane's A where that lane exists and is ACTIVE, else the lane's own.

R260: REDA, REDMN and REDMX over the ACTIVE lanes in ascending order, each element position on its own.

R260: SCAN folds the ACTIVE lanes up to and including a lane, SCANX those below it, whose lowest lane has 0.

With no ACTIVE lane a 64-bit result still shifts the latches twice: the model's reading of R242 and R232 (DEDUCED, log 33). -/
def Obligations.CrossLane : Prop :=
  (∀ (s : State) (r : Run) (w : BitVec 1) (d : BitVec 7) (a : BitVec 8), Executing s r →
     (Runs r (.movs w d a) → ∃ t val, exec (.movs w d a) s = .next t ∧ SResult s t r w d.toNat (tyIs64 r.T) val 0 ∧
       ∀ L, On r L → (∀ Q, Q < L → ¬ On r Q) → val = r.src r.T a L) ∧
     (Runs r (.ballot w d a) → ∃ t val, exec (.ballot w d a) s = .next t ∧ SResult s t r w d.toNat false val 0 ∧
       ∀ L, L < 32 → (val.getLsbD L = true ↔ On r L ∧ r.src r.T a L ≠ 0)) ∧
     (Runs r (.actm w d) → ∃ t, exec (.actm w d) s = .next t ∧
       SResult s t r w d.toNat false (r.active.setWidth 64) 0)) ∧
  (∀ (s : State) (r : Run) (d : BitVec 3) (a : BitVec 8), Executing s r →
     (Runs r (.vany d a) → ∃ t val, exec (.vany d a) s = .next t ∧ PResult s t r d.toNat val ∧
       ∀ L, On r L → (val L = true ↔ ∃ Q, On r Q ∧ r.src r.T a Q ≠ 0)) ∧
     (Runs r (.vall d a) → ∃ t val, exec (.vall d a) s = .next t ∧ PResult s t r d.toNat val ∧
       ∀ L, On r L → (val L = true ↔ ∀ Q, On r Q → r.src r.T a Q ≠ 0)) ∧
     (Runs r (.veq d a) → ∃ t val, exec (.veq d a) s = .next t ∧ PResult s t r d.toNat val ∧
       ∀ L, On r L → (val L = true ↔ ∀ Q Q', On r Q → On r Q' → r.src r.T a Q = r.src r.T a Q')) ∧
     (Runs r (.elect d) → ∃ t val, exec (.elect d) s = .next t ∧ PResult s t r d.toNat val ∧
       ∀ L, On r L → (val L = true ↔ ∀ Q, On r Q → L ≤ Q)) ∧
     (∀ (w : BitVec 1) (D : BitVec 7), Runs r (.matchL w D a) → ∃ t val, exec (.matchL w D a) s = .next t ∧
       VResult s t r w D.toNat false val (fun _ => 0) ∧
       ∀ L, On r L → ∀ Q, Q < 32 → ((val L).getLsbD Q = true ↔ On r Q ∧ r.src r.T a Q = r.src r.T a L))) ∧
  (∀ (s : State) (r : Run) (i : Instr) (o : Ops) (q : Nat → Nat → Option Nat), laneOf i = some (o, q) →
     Executing s r → Runs r i →
     ∃ t val, exec i s = .next t ∧ VResult s t r o.w o.d.toNat (tyIs64 r.T) val (fun _ => 0) ∧
       ∀ L, On r L →
         (∀ Q, q L ((r.src r.T o.b L).setWidth 32).toNat = some Q → On r Q → val L = r.src r.T o.a Q) ∧
         ((∀ Q, q L ((r.src r.T o.b L).setWidth 32).toNat = some Q → ¬ On r Q) → val L = r.src r.T o.a L)) ∧
  (∀ (s : State) (r : Run) (w : BitVec 1) (d : BitVec 7) (a : BitVec 8), Executing s r →
     (Runs r (.reda w d a) → ∃ t val fl, exec (.reda w d a) s = .next t ∧
       SResult s t r w d.toNat (tyIs64 r.T) val fl ∧
       (Elems r.T val fun k z => z = (foldAdd r.path.gm r.T (column r a k (lanesOf r.active))).1) ∧
       ∀ i, i < 7 → (fl.getLsbD i = true ↔
         ∃ k, k < tyElems r.T ∧ (foldAdd r.path.gm r.T (column r a k (lanesOf r.active))).2.getLsbD i = true)) ∧
     (Runs r (.redmn w d a) → ∃ t val, exec (.redmn w d a) s = .next t ∧
       SResult s t r w d.toNat (tyIs64 r.T) val 0 ∧
       (r.active ≠ 0 → Elems r.T val fun k z => Extreme r.path.gm r.T false (column r a k (lanesOf r.active)) z)) ∧
     (Runs r (.redmx w d a) → ∃ t val, exec (.redmx w d a) s = .next t ∧
       SResult s t r w d.toNat (tyIs64 r.T) val 0 ∧
       (r.active ≠ 0 → Elems r.T val fun k z => Extreme r.path.gm r.T true (column r a k (lanesOf r.active)) z))) ∧
  (∀ (s : State) (r : Run) (w : BitVec 1) (d : BitVec 7) (a : BitVec 8), Executing s r →
     (Runs r (.scan w d a) → ∃ t val fl, exec (.scan w d a) s = .next t ∧
       VResult s t r w d.toNat (tyIs64 r.T) val fl ∧
       ∀ L, On r L →
         (Elems r.T (val L) fun k z =>
           z = (foldAdd r.path.gm r.T (column r a k ((lanesOf r.active).filter fun Q => decide (Q ≤ L)))).1) ∧
         ∀ i, i < 7 → ((fl L).getLsbD i = true ↔ ∃ k, k < tyElems r.T ∧
           (foldAdd r.path.gm r.T (column r a k ((lanesOf r.active).filter fun Q => decide (Q ≤ L)))).2.getLsbD i = true)) ∧
     (Runs r (.scanx w d a) → ∃ t val fl, exec (.scanx w d a) s = .next t ∧
       VResult s t r w d.toNat (tyIs64 r.T) val fl ∧
       ∀ L, On r L →
         (Elems r.T (val L) fun k z =>
           z = (foldAdd r.path.gm r.T (column r a k ((lanesOf r.active).filter fun Q => decide (Q < L)))).1) ∧
         ∀ i, i < 7 → ((fl L).getLsbD i = true ↔ ∃ k, k < tyElems r.T ∧
           (foldAdd r.path.gm r.T (column r a k ((lanesOf r.active).filter fun Q => decide (Q < L)))).2.getLsbD i = true)))

/-- R254: CEQ, CLT, CLE, CGT and CGE are true where the relation holds of every element, CNE where some element is not equal or
is unordered.

R255: CUN is true where any element of A or B is a NaN, CTST where A and B have a bit in common over the whole register
or pair; each is ILLEGAL under another type.

R256: the predicate operations, and PGET, which gathers p7 to p0 of each lane into one register. -/
def Obligations.ComparesAndPredicates : Prop :=
  (∀ (s : State) (r : Run), Executing s r →
     (∀ (i : Instr) (d : BitVec 3) (a b : BitVec 8) (rel : Option Ordering → Prop), relOf i = some (d, a, b, rel) → Runs r i →
       ∃ t val, exec i s = .next t ∧ PResult s t r d.toNat val ∧
         ∀ L, On r L → (val L = true ↔ ∀ k, k < tyElems r.T →
           rel (order r.T (r.path.gm.getLsbD 14) (el _ (r.src r.T a L) k) (el _ (r.src r.T b L) k)))) ∧
     (∀ (d : BitVec 3) (a b : BitVec 8), Runs r (.cne d a b) →
       ∃ t val, exec (.cne d a b) s = .next t ∧ PResult s t r d.toNat val ∧
         ∀ L, On r L → (val L = true ↔ ∃ k, k < tyElems r.T ∧
           order r.T (r.path.gm.getLsbD 14) (el _ (r.src r.T a L) k) (el _ (r.src r.T b L) k) ≠ some .eq))) ∧
  (∀ (s : State) (r : Run) (d : BitVec 3) (a b : BitVec 8), Executing s r →
     (r.T < 8 ∨ 13 < r.T → exec (.cun d a b) s = .next (s.illegal r)) ∧
     (7 < r.T → exec (.ctst d a b) s = .next (s.illegal r)) ∧
     (Runs r (.cun d a b) → ∃ t val, exec (.cun d a b) s = .next t ∧ PResult s t r d.toNat val ∧
       ∀ L, On r L → (val L = true ↔ ∃ k, k < tyElems r.T ∧
         (((fmtOf r.T).decode (el (tyBits r.T) (r.src r.T a L) k).toNat).isNaN = true ∨
          ((fmtOf r.T).decode (el (tyBits r.T) (r.src r.T b L) k).toNat).isNaN = true))) ∧
     (Runs r (.ctst d a b) → ∃ t val, exec (.ctst d a b) s = .next t ∧ PResult s t r d.toNat val ∧
       ∀ L, On r L → (val L = true ↔ ∃ j, (r.src r.T a L).getLsbD j = true ∧ (r.src r.T b L).getLsbD j = true))) ∧
  (∀ (s : State) (r : Run), Executing s r →
     (∀ (i : Instr) (d : BitVec 3) (f : Run → Nat → Bool), predOf i = some (d, f) → Runs r i →
       ∃ t val, exec i s = .next t ∧ PResult s t r d.toNat val ∧ ∀ L, On r L → val L = f r L) ∧
     (∀ (w : BitVec 1) (d : BitVec 7), Runs r (.pget w d) → ∃ t val, exec (.pget w d) s = .next t ∧
       VResult s t r w d.toNat false val (fun _ => 0) ∧
       ∀ L, On r L → ∀ n : BitVec 3, (val L).getLsbD n.toNat = predIn r 0 n L ∧ ∀ j, 8 ≤ j → (val L).getLsbD j = false) ∧
     (∀ d : BitVec 7, r.T ≤ 14 → Runs r (.pget 0 d)))

/-- R117: the named encodings of the formats. R116, R117, R119, R121: the value of every encoding by its fields, and as read under FTZ.

R120 steps 1 and 2: on the grid of 2^q, the multiple that each rounding mode chooses for m · 2^e: the value itself when it
is a multiple; else the nearer with ties to even (0), the one of smaller magnitude (1), the larger (2), the smaller (3), the nearer
with ties away from zero (4). `k` is the multiple's magnitude, `2^sh` the grid in units of the last place of m.

R120 steps 3 to 5: what an overflow gives under each rounding mode and under SAT, with its flags (R123).

R120, R121, R123: ROUND of an exact nonzero value takes the grid of the destination's precision, no finer than its subnormals'; past the
largest finite value it overflows; a subnormal under FTZ becomes zero with UF and NX; else NX says that the grid's value differs, and UF that
it does and the value rounded to the full precision lies below the smallest normal.

R120, R262: sums and products of finite values are exact, and an exact zero sum of opposite signs is −0 only under RDN.

R125: ADD16 of an accumulator and pairs of elements: a NaN operand, an invalid product or both infinities give the canonical NaN, an infinite
term that infinity, else the exact sum is rounded once to nearest even, subnormals kept; NV for an invalid product or sum of no NaN. -/
def Obligations.FloatFormats : Prop :=
  ((fmtF16.nan = 0x7E00 ∧ fmtF16.inf false = 0x7C00 ∧ fmtF16.maxBits false = 0x7BFF ∧ fmtF16.decode 0x0400 = .fin false (2 ^ 10) (-24) ∧
     fmtF16.decode 0x0001 = .fin false 1 (-24)) ∧
   (fmtBF16.nan = 0x7FC0 ∧ fmtBF16.inf false = 0x7F80 ∧ fmtBF16.maxBits false = 0x7F7F ∧
     fmtBF16.decode 0x0001 = .fin false 1 (-133)) ∧
   (fmtF32.nan = 0x7FC00000 ∧ fmtF32.inf false = 0x7F800000 ∧ fmtF32.maxBits false = 0x7F7FFFFF ∧
     fmtF32.decode 0x00000001 = .fin false 1 (-149) ∧ fmtF32.decode 0xFF800000 = .inf true) ∧
   (fmtF64.nan = 0x7FF8000000000000 ∧ fmtF64.inf false = 0x7FF0000000000000 ∧ fmtF64.maxBits false = 0x7FEFFFFFFFFFFFFF ∧
     fmtF64.decode 1 = .fin false 1 (-1074)) ∧
   (fmtF8A.nan = 0x7F ∧ fmtF8A.maxBits false = 0x7E ∧ fmtF8A.decode 0x7E = .fin false 14 5 ∧ fmtF8A.decode 0x7F = .nan ∧
     fmtF8A.decode 0xFF = .nan ∧ fmtF8A.decode 0x01 = .fin false 1 (-9)) ∧
   (fmtF8B.nan = 0x7E ∧ fmtF8B.inf false = 0x7C ∧ fmtF8B.maxBits false = 0x7B ∧ fmtF8B.decode 0x01 = .fin false 1 (-16) ∧
     fmtF8B.decode 0x7D = .nan)) ∧
  (∀ (rm : Nat) (neg : Bool) (m : Nat) (e q : Int), rm ≤ 4 →
     let k := (roundGrid rm neg m e q).1
     let ix := (roundGrid rm neg m e q).2
     let sh := (q - e).toNat
     (q ≤ e → ix = false ∧ k = m * 2 ^ (e - q).toNat) ∧
     (e < q → (ix = true ↔ ¬ 2 ^ sh ∣ m) ∧
       k * 2 ^ sh < m + 2 ^ sh ∧ m < (k + 1) * 2 ^ sh ∧
       (rm = 0 → 2 * k * 2 ^ sh ≤ 2 * m + 2 ^ sh ∧ 2 * m ≤ 2 * k * 2 ^ sh + 2 ^ sh ∧
         (2 * k * 2 ^ sh = 2 * m + 2 ^ sh ∨ 2 * m = 2 * k * 2 ^ sh + 2 ^ sh → k % 2 = 0)) ∧
       (rm = 1 → k * 2 ^ sh ≤ m) ∧
       (rm = 2 → if neg = true then k * 2 ^ sh ≤ m else m ≤ k * 2 ^ sh) ∧
       (rm = 3 → if neg = true then m ≤ k * 2 ^ sh else k * 2 ^ sh ≤ m) ∧
       (rm = 4 → 2 * k * 2 ^ sh ≤ 2 * m + 2 ^ sh ∧ 2 * m < 2 * k * 2 ^ sh + 2 ^ sh))) ∧
  (∀ (f : Fmt) (r : Rnd) (neg : Bool), r.rm ≤ 4 →
     (f.overflow r neg).1 =
       (if r.sat = true ∨ r.rm = 1 ∨ (r.rm = 2 ∧ neg = true) ∨ (r.rm = 3 ∧ neg = false) then f.maxBits neg
        else if f.noInf = true then f.nan else f.inf neg) ∧
     (f.overflow r neg).2.getLsbD 2 = true ∧ (f.overflow r neg).2.getLsbD 4 = true) ∧
  (∀ f : Fmt, f ∈ formats →
     (f.ftz = true ↔ f = fmtF16 ∨ f = fmtBF16 ∨ f = fmtF32 ∨ f = fmtF64) ∧
     (∀ (s : Bool) (ex fr : Nat), ex < 2 ^ f.ebits → fr < 2 ^ f.fbits →
       let x := enc f s ex fr
       let low : Int := 1 - (f.bias : Int) - f.fbits
       let special := f ≠ fmtF8A ∧ ex + 1 = 2 ^ f.ebits
       (ex = 0 → f.decode x = .fin s fr low) ∧
       (ex ≠ 0 → ¬ special → (f = fmtF8A → ex = 15 → fr ≠ 7) → f.decode x = .fin s (2 ^ f.fbits + fr) (low + ex - 1)) ∧
       (special → f.decode x = if fr = 0 then .inf s else .nan) ∧
       (f = fmtF8A → ex = 15 → fr = 7 → f.decode x = .nan) ∧
       ∀ ftz, f.read ftz x = if ftz = true ∧ f.ftz = true ∧ ex = 0 then .fin s 0 low else f.decode x) ∧
     ∀ (r : Rnd) (neg : Bool), r.rm ≤ 4 →
       (∀ e, f.round r (.fin neg 0 e) = (if neg = true then f.signBit else 0, 0)) ∧
       (f.overflow r neg).2 = (fOF ||| fNX |||
         if r.sat = true ∧ (f.overflow { r with sat := false } neg).1 ≠ f.maxBits neg then fSAT else 0) ∧
       ∀ (m : Nat) (e : Int), m ≠ 0 →
         let top : Int := (Nat.log2 m : Int) + e - f.fbits
         let low : Int := 1 - (f.bias : Int) - f.fbits
         let q := max top low
         let g := roundGrid r.rm neg m e q
         let z := f.round r (.fin neg m e)
         let large := scaled (f.decode (f.maxBits false)) low < scaled (.fin false g.1 q) low
         let flushed := r.ftz = true ∧ f.ftz = true ∧ g.1 ≠ 0 ∧ g.1 < 2 ^ f.fbits
         let l := min top (1 - (f.bias : Int))
         let tiny := scaled (.fin false (roundGrid r.rm neg m e top).1 top) l < scaled (.fin false 1 (1 - (f.bias : Int))) l
         (large → z = f.overflow r neg) ∧
         (¬ large → flushed → z = (if neg = true then f.signBit else 0, fUF ||| fNX)) ∧
         (¬ large → ¬ flushed → z.1 < 2 * f.signBit ∧
           z.2 = ((if g.2 = true then fNX else 0) ||| if g.2 = true ∧ tiny then fUF else 0) ∧
           ∃ k x, f.decode z.1 = .fin neg k x ∧ ∀ j, j ≤ x → j ≤ q → scaled (.fin false k x) j = scaled (.fin false g.1 q) j)) ∧
  (∀ (rm : Nat) (x y : FV), FinVal x → FinVal y →
     (∃ z, FV.add rm x y = (z, false) ∧ FinVal z ∧
       (∀ e, e ≤ expo x → e ≤ expo y → e ≤ expo z → scaled z e = scaled x e + scaled y e) ∧
       (ZeroVal z → z.sign = if x.sign = y.sign then x.sign else rm == 3)) ∧
     (∃ z, FV.mul x y = (z, false) ∧ FinVal z ∧ z.sign = (x.sign != y.sign) ∧
       ∀ e e', e ≤ expo x → e' ≤ expo y → scaled z (e + e') = scaled x e * scaled y e')) ∧
  (∀ (f : Fmt) (acc : Nat) (ab : List (FV × FV)), f = fmtF32 ∨ f = fmtA80 →
     let A := f.decode acc
     let z := add16 f acc ab
     let nan := A.isNaN = true ∨ ∃ x ∈ ab, x.1.isNaN = true ∨ x.2.isNaN = true
     let bad := ∃ x ∈ ab, (ZeroVal x.1 ∧ x.2.isInf = true) ∨ (x.1.isInf = true ∧ ZeroVal x.2)
     let infinite := fun g : Bool => A = .inf g ∨
       ∃ x ∈ ab, (x.1.isInf = true ∨ x.2.isInf = true) ∧ x.1.isNaN = false ∧ x.2.isNaN = false ∧ (x.1.sign != x.2.sign) = g
     (nan → z.1 = f.nan) ∧ (nan → ¬ bad → ¬ (infinite false ∧ infinite true) → z.2 = 0) ∧
     (¬ nan → bad ∨ (infinite false ∧ infinite true) → z = (f.nan, fNV)) ∧
     (∀ g, ¬ nan → ¬ bad → infinite g → ¬ infinite (!g) → z = (f.inf g, 0)) ∧
     (FinVal A → (∀ x ∈ ab, FinVal x.1 ∧ FinVal x.2) → ∃ v, FinVal v ∧ z = f.round rne v ∧
       (ZeroVal v → (v.sign = true ↔ A.sign = true ∧ ∀ x ∈ ab, x.1.sign ≠ x.2.sign)) ∧
       ∃ lo, ∀ e, e ≤ lo → scaled v (2 * e) = scaled A (2 * e) + (ab.map fun x => scaled x.1 e * scaled x.2 e).sum))

/-- R261: every float instruction acts on elements in the same position, raises the flags of its ACTIVE lanes and changes
nothing else; `FloatFormats`, `FloatSpecialCases` and `ApproximationPoints` say
what the operations do. -/
def Obligations.FloatElements : Prop :=
  ∀ (s : State) (r : Run) (i : Instr) (o : Ops) (op : Nat → BitVec 32 → Nat → Nat → Nat → Nat × Flags),
    floatOf i = some (o, op) → Executing s r → Runs r i →
    ∃ t val fl, exec i s = .next t ∧ VResult s t r o.w o.d.toNat (tyIs64 r.T) val fl ∧
      ∀ L, On r L →
        let n := tyBits r.T
        let e := fun k => op r.T r.path.gm (el n (r.src r.T o.a L) k).toNat (el n (r.src r.T o.b L) k).toNat
          (el n (r.dval r.T o.d.toNat L) k).toNat
        (Elems r.T (val L) fun k z => z = BitVec.ofNat n (e k).1) ∧
        ∀ j, j < 7 → ((fl L).getLsbD j = true ↔ ∃ k, k < tyElems r.T ∧ (e k).2.getLsbD j = true)

/-- R263: the special operands of the correctly rounded operations, and the ordinary ones, whose result is ROUND of the
exact value: of a sum and a product itself, of a quotient and a root by more than the bits that rounding looks at and a last bit that
says whether that is the exact value. X, Y and Z are the operands as read under FTZ (R121).

R264: FABS and FNEG act on the sign bit of each element alone; FMIN and FMAX return the operand, as read under FTZ, that
no other is beyond, a number before a NaN, and the canonical NaN for two NaNs; none sets a flag.

R268: FCLS writes one bit, by the sign, exponent and fraction fields of the element's bits, and no flag.

R267: FFLR, FCEIL and FRND give the integer that rounding downwards, upwards or by gm.RM chooses, with the operand's sign; FFRC rounds
x − FLOOR(x), 1.0 becoming the next value below it, with NX, and −0 becoming +0. R269: FSCL rounds a · 2^n once; FGETE gives
floor(log2 |a|), −∞ with DZ for a zero. -/
def Obligations.FloatSpecialCases : Prop :=
  (∀ (t : Nat) (r : Rnd) (x y z : Nat), 8 ≤ t → t ≤ 11 →
     let f := fmtOf t
     let X := f.read r.ftz x
     let Y := f.read r.ftz y
     let Z := f.read r.ftz z
     (X.isNaN = true ∨ Y.isNaN = true → f.addOp r false x y = (f.nan, 0) ∧ f.addOp r true x y = (f.nan, 0) ∧
       f.mulOp r x y = (f.nan, 0) ∧ f.divOp r x y = (f.nan, 0)) ∧
     (∀ p n, X.isNaN = true ∨ Y.isNaN = true ∨ Z.isNaN = true → f.fmaOp r p n x y z = (f.nan, 0)) ∧
     (X.isNaN = true → f.sqrtOp r x = (f.nan, 0)) ∧
     (∀ a, X = .inf a → Y = .inf (!a) → f.addOp r false x y = (f.nan, fNV)) ∧
     (∀ a, X = .inf a → Y = .inf a → f.addOp r true x y = (f.nan, fNV)) ∧
     (X.isInf = true ∧ ZeroVal Y ∨ ZeroVal X ∧ Y.isInf = true → f.mulOp r x y = (f.nan, fNV) ∧
       (Z.isNaN = false → ∀ p n, f.fmaOp r p n x y z = (f.nan, fNV))) ∧
     (∀ c p n, X.isInf = true ∨ Y.isInf = true → ¬ ZeroVal X → ¬ ZeroVal Y → X.isNaN = false → Y.isNaN = false → Z = .inf c →
       xor (xor X.sign Y.sign) p ≠ xor c n → f.fmaOp r p n x y z = (f.nan, fNV)) ∧
     (ZeroVal X ∧ ZeroVal Y ∨ X.isInf = true ∧ Y.isInf = true → f.divOp r x y = (f.nan, fNV)) ∧
     (FinVal X → ¬ ZeroVal X → ZeroVal Y → f.divOp r x y = (f.inf (X.sign != Y.sign), fDZ)) ∧
     (X = .inf true ∨ (FinVal X ∧ ¬ ZeroVal X ∧ X.sign = true) → f.sqrtOp r x = (f.nan, fNV)) ∧
     (ZeroVal X → f.sqrtOp r x = (if X.sign = true then f.signBit else 0, 0)) ∧
     (∀ a, X = .inf a → FinVal Y → f.addOp r false x y = (f.inf a, 0) ∧ f.addOp r true x y = (f.inf a, 0)) ∧
     (∀ a, FinVal X → Y = .inf a → f.addOp r false x y = (f.inf a, 0) ∧ f.addOp r true x y = (f.inf (!a), 0)) ∧
     (∀ a, X = .inf a → Y = .inf a → f.addOp r false x y = (f.inf a, 0)) ∧
     (∀ a, X = .inf a → Y = .inf (!a) → f.addOp r true x y = (f.inf a, 0)) ∧
     (X.isInf = true ∨ Y.isInf = true → X.isNaN = false → Y.isNaN = false → ¬ ZeroVal X → ¬ ZeroVal Y →
       f.mulOp r x y = (f.inf (X.sign != Y.sign), 0) ∧
       ∀ p n, FinVal Z ∨ (∃ c, Z = .inf c ∧ xor (xor X.sign Y.sign) p = xor c n) →
         f.fmaOp r p n x y z = (f.inf (xor (xor X.sign Y.sign) p), 0)) ∧
     (∀ c p n, FinVal X → FinVal Y → Z = .inf c → f.fmaOp r p n x y z = (f.inf (xor c n), 0)) ∧
     (X.isInf = true → FinVal Y → f.divOp r x y = (f.inf (X.sign != Y.sign), 0)) ∧
     (X = .inf false → f.sqrtOp r x = (f.inf false, 0)) ∧
     (FinVal X → Y.isInf = true ∨ (ZeroVal X ∧ FinVal Y ∧ ¬ ZeroVal Y) →
       f.divOp r x y = (if X.sign = Y.sign then 0 else f.signBit, 0)) ∧
     (FinVal X → FinVal Y → ¬ ZeroVal X → ¬ ZeroVal Y → ∃ q st e,
       f.divOp r x y = f.round r (.fin (X.sign != Y.sign) (2 * q + st) e) ∧ st ≤ 1 ∧ 2 ^ (f.fbits + 4) ≤ q ∧
       e + 1 + expo Y ≤ expo X ∧
       let a := (scaled X (e + 1 + expo Y)).natAbs
       let b := (scaled Y (expo Y)).natAbs
       q * b ≤ a ∧ a < (q + 1) * b ∧ (st = 0 ↔ q * b = a)) ∧
     (FinVal X → ¬ ZeroVal X → X.sign = false → ∃ q st e,
       f.sqrtOp r x = f.round r (.fin false (2 * q + st) e) ∧ st ≤ 1 ∧ 2 ^ (f.fbits + 4) ≤ q ∧ 2 * (e + 1) ≤ expo X ∧
       let a := (scaled X (2 * (e + 1))).natAbs
       q * q ≤ a ∧ a < (q + 1) * (q + 1) ∧ (st = 0 ↔ q * q = a)) ∧
     (FinVal X → FinVal Y → f.addOp r false x y = f.round r (FV.add r.rm X Y).1 ∧
       f.addOp r true x y = f.round r (FV.add r.rm X Y.neg).1 ∧ f.mulOp r x y = f.round r (FV.mul X Y).1) ∧
     (FinVal X → FinVal Y → FinVal Z →
       f.fmaOp r false false x y z = f.round r (FV.add r.rm (FV.mul X Y).1 Z).1 ∧
       f.fmaOp r false true x y z = f.round r (FV.add r.rm (FV.mul X Y).1 Z.neg).1 ∧
       f.fmaOp r true false x y z = f.round r (FV.add r.rm (FV.mul X Y).1.neg Z).1)) ∧
  ((∀ (s : State) (r : Run) (w : BitVec 1) (d : BitVec 7) (a b : BitVec 8), Executing s r →
     (∀ i g, (i = .fmin w d a b ∧ g = false) ∨ (i = .fmax w d a b ∧ g = true) → Runs r i →
       ∃ t val, exec i s = .next t ∧ VResult s t r w d.toNat (tyIs64 r.T) val (fun _ => 0) ∧
       ∀ L, On r L → Elems r.T (val L) fun k z => z = BitVec.ofNat _ ((fmtOf r.T).minMaxOp (r.path.gm.getLsbD 14) g
         (el (tyBits r.T) (r.src r.T a L) k).toNat (el (tyBits r.T) (r.src r.T b L) k).toNat)) ∧
     (Runs r (.fabs w d a) → ∃ t val, exec (.fabs w d a) s = .next t ∧
       VResult s t r w d.toNat (tyIs64 r.T) val (fun _ => 0) ∧
       ∀ L, On r L → Elems r.T (val L) fun k z => ∀ j, j < tyBits r.T →
         z.getLsbD j = if j + 1 = tyBits r.T then false else (el (tyBits r.T) (r.src r.T a L) k).getLsbD j) ∧
     (Runs r (.fneg w d a) → ∃ t val, exec (.fneg w d a) s = .next t ∧
       VResult s t r w d.toNat (tyIs64 r.T) val (fun _ => 0) ∧
       ∀ L, On r L → Elems r.T (val L) fun k z => ∀ j, j < tyBits r.T →
         z.getLsbD j = if j + 1 = tyBits r.T then !(el (tyBits r.T) (r.src r.T a L) k).getLsbD j
           else (el (tyBits r.T) (r.src r.T a L) k).getLsbD j)) ∧
   ∀ (t x y : Nat) (ftz g : Bool), 8 ≤ t → t ≤ 11 →
     let f := fmtOf t
     let z := f.minMaxOp ftz g x y
     ((f.read ftz x).isNaN = true → (f.read ftz y).isNaN = true → z = f.nan) ∧
     ((f.read ftz x).isNaN = true → (f.read ftz y).isNaN = false → z = f.flush ftz y) ∧
     ((f.read ftz x).isNaN = false → (f.read ftz y).isNaN = true → z = f.flush ftz x) ∧
     ((f.read ftz x).isNaN = false → (f.read ftz y).isNaN = false →
       (z = f.flush ftz x ∨ z = f.flush ftz y) ∧
       (g = false → ¬ below (f.read ftz x) (f.decode z) ∧ ¬ below (f.read ftz y) (f.decode z)) ∧
       (g = true → ¬ below (f.decode z) (f.read ftz x) ∧ ¬ below (f.decode z) (f.read ftz y)))) ∧
  (∀ (s : State) (r : Run) (w : BitVec 1) (d : BitVec 7) (a : BitVec 8), Executing s r → Runs r (.fcls w d a) →
     ∃ t val, exec (.fcls w d a) s = .next t ∧ VResult s t r w d.toNat (tyIs64 r.T) val (fun _ => 0) ∧
       ∀ L, On r L → Elems r.T (val L) fun k z =>
         let f := fmtOf r.T
         let x := (el (tyBits r.T) (r.src r.T a L) k).toNat
         let neg := x / 2 ^ (f.ebits + f.fbits)
         let ex := x / 2 ^ f.fbits % 2 ^ f.ebits
         let fr := x % 2 ^ f.fbits
         let ones := 2 ^ f.ebits - 1
         z = BitVec.ofNat _ (2 ^ (if ex = ones ∧ fr ≠ 0 then 8
           else if ex = ones then (if neg = 1 then 0 else 7)
           else if ex = 0 ∧ fr = 0 then (if neg = 1 then 3 else 4)
           else if ex = 0 then (if neg = 1 then 2 else 5)
           else if neg = 1 then 1 else 6))) ∧
  (∀ (t : Nat) (r : Rnd) (x : Nat), 8 ≤ t → t ≤ 11 → r.rm ≤ 4 →
     let f := fmtOf t
     let X := f.read r.ftz x
     (X.isNaN = true → (∀ rm, f.integral r.ftz rm x = f.nan) ∧ f.fracOp r x = (f.nan, 0) ∧ (∀ n, f.scaleOp r x n = (f.nan, 0)) ∧
       f.getExp r x = (f.nan, 0)) ∧
     (∀ a, X = .inf a → (∀ rm, f.integral r.ftz rm x = f.inf a) ∧ f.fracOp r x = (f.nan, fNV) ∧ (∀ n, f.scaleOp r x n = (f.inf a, 0)) ∧
       f.getExp r x = (f.inf false, 0)) ∧
     (∀ neg m e, X = .fin neg m e →
       (∀ rm, rm ≤ 4 → ∃ k q, f.decode (f.integral r.ftz rm x) = .fin neg k q ∧
         ∀ j, j ≤ q → j ≤ 0 → scaled (.fin false k q) j = scaled (.fin false (roundGrid rm neg m e 0).1 0) j) ∧
       (let floor : Int := (if neg = true then -1 else 1) * ((roundGrid 3 neg m e 0).1 : Int)
        ∃ v, FinVal v ∧ v.sign = false ∧ (∀ j, j ≤ e → j ≤ 0 → j ≤ expo v → scaled v j = scaled X j - floor * 2 ^ (-j).toNat) ∧
          let y := f.round r v
          f.fracOp r x = if y.1 = enc f false f.bias 0 then (enc f false f.bias 0 - 1, y.2 ||| fNX)
            else if y.1 = f.signBit then (0, y.2) else y) ∧
       (∀ n : Int, f.scaleOp r x n = f.round r (.fin neg m (e + n))) ∧
       (m = 0 → f.getExp r x = (f.inf true, fDZ)) ∧
       (m ≠ 0 → ∃ z k v, f.getExp r x = (z, 0) ∧ f.decode z = v ∧ FinVal v ∧
         (∀ j, j ≤ expo v → j ≤ 0 → scaled v j = k * 2 ^ (-j).toNat) ∧
         ∀ j, j ≤ e → j ≤ k → 2 ^ (k - j).toNat ≤ (scaled X j).natAbs ∧ (scaled X j).natAbs < 2 ^ (k + 1 - j).toNat)))

/-- R266: the special values of the six approximating functions on f32, first matching row, and exact points of R265.

R265: every other f32 result lies within the bound of the table, or is a subnormal that FTZ flushes, with NX; for f16 and bf16 the element is
widened, and the f32 result converted by R124. Which value within the bound it is stands open (log 6). -/
def Obligations.ApproximationPoints : Prop :=
  ∀ (r : Rnd) (gm : BitVec 32) (x : Nat),
    let X := fmtF32.read r.ftz x
    let f := fun op => approxOp op 10 r gm x
    (X = .nan → ∀ op, op ∈ [0x5A, 0x5B, 0x5E, 0x5F, 0x60, 0x61] → f op = (0x7FC00000, 0)) ∧
    (X = .inf false → f 0x5A = (0, 0) ∧ f 0x5B = (0, 0) ∧ f 0x5E = (0x7F800000, 0) ∧ f 0x5F = (0x7F800000, 0) ∧
      f 0x60 = (0x7FC00000, fNV) ∧ f 0x61 = (0x7FC00000, fNV)) ∧
    (X = .inf true → f 0x5A = (0x80000000, 0) ∧ f 0x5B = (0x7FC00000, fNV) ∧ f 0x5E = (0, 0) ∧ f 0x5F = (0x7FC00000, fNV) ∧
      f 0x60 = (0x7FC00000, fNV) ∧ f 0x61 = (0x7FC00000, fNV)) ∧
    (∀ e, X = .fin false 0 e → f 0x5A = (0x7F800000, fDZ) ∧ f 0x5B = (0x7F800000, fDZ) ∧ f 0x5E = (0x3F800000, 0) ∧
      f 0x5F = (0xFF800000, fDZ) ∧ f 0x60 = (0, 0) ∧ f 0x61 = (0x3F800000, 0)) ∧
    (∀ e, X = .fin true 0 e → f 0x5A = (0xFF800000, fDZ) ∧ f 0x5B = (0xFF800000, fDZ) ∧ f 0x5E = (0x3F800000, 0) ∧
      f 0x5F = (0xFF800000, fDZ) ∧ f 0x60 = (0x80000000, 0) ∧ f 0x61 = (0x3F800000, 0)) ∧
    (∀ m e, X = .fin true (m + 1) e → f 0x5B = (0x7FC00000, fNV) ∧ f 0x5F = (0x7FC00000, fNV)) ∧
    (approxOp 0x5A 10 r gm 0x40800000 = (0x3E800000, 0) ∧ approxOp 0x5B 10 r gm 0x40800000 = (0x3F000000, 0) ∧
      approxOp 0x5E 10 r gm 0x40400000 = (0x41000000, 0) ∧ approxOp 0x5F 10 r gm 0x41000000 = (0x40400000, 0) ∧
      approxOp 0x60 10 r gm 0x40000000 = (0, 0) ∧ approxOp 0x60 10 r gm 0x3F000000 = (0x3F800000, 0) ∧
      approxOp 0x61 10 r gm 0x3F000000 = (0, 0) ∧ approxOp 0x61 10 r gm 0x3F800000 = (0xBF800000, 0)) ∧
    (∀ neg m e (a : ℝ), X = .fin neg m e → m ≠ 0 → IsReal X a →
      let inexact := fun op => (f op).2.getLsbD 4 = true
      (|a⁻¹| < 2 ^ 128 → ∀ u, UlpAt a⁻¹ u → Near r (f 0x5A) a⁻¹ u) ∧
      (2 ^ 128 ≤ |a⁻¹| → f 0x5A = ((if neg = true then 0x80000000 else 0) + (if r.sat = true then 0x7F7FFFFF else 0x7F800000),
        fOF ||| fNX ||| if r.sat = true then fSAT else 0)) ∧ ((∀ k : Int, |a| ≠ 2 ^ k) → inexact 0x5A) ∧
      (0 < a → (∀ u, UlpAt (Real.sqrt a)⁻¹ u → Near r (f 0x5B) (Real.sqrt a)⁻¹ (2 * u)) ∧ ((∀ k : Int, a ≠ 4 ^ k) → inexact 0x5B)) ∧
      (-150 ≤ a → a < 128 → ∀ u, UlpAt ((2 : ℝ) ^ a) u → Near r (f 0x5E) ((2 : ℝ) ^ a) (2 * u)) ∧
      ((∀ k : Int, a ≠ k) ∨ a < -126 ∨ 128 ≤ a → inexact 0x5E) ∧
      (128 ≤ a → f 0x5E = if r.sat = true then (0x7F7FFFFF, fOF ||| fNX ||| fSAT) else (0x7F800000, fOF ||| fNX)) ∧
      (a < -150 → f 0x5E = (0, fUF ||| fNX)) ∧
      (0 < a → (1 / 2 ≤ a → a ≤ 2 → Near r (f 0x5F) (Real.logb 2 a) (2 ^ (-22 : Int))) ∧
        (a < 1 / 2 ∨ 2 < a → ∀ u, UlpAt (Real.logb 2 a) u → Near r (f 0x5F) (Real.logb 2 a) (2 * u)) ∧
        ((∀ k : Int, a ≠ 2 ^ k) → inexact 0x5F)) ∧
      Near r (f 0x60) (Real.sin (Real.pi * a)) (2 ^ (-22 : Int)) ∧ Near r (f 0x61) (Real.cos (Real.pi * a)) (2 ^ (-22 : Int)) ∧
      ((∀ k : Int, 2 * a ≠ k) → inexact 0x60 ∧ inexact 0x61)) ∧
    (∀ t op, t = 8 ∨ t = 9 →
      let y := approxOp op 10 r gm (fmtF32.round rne ((fmtOf t).read r.ftz x)).1
      let z := convert r t (.flt (fmtF32.decode y.1))
      approxOp op t r gm x = (z.1, y.2 ||| z.2))

/-- R270: FDOT2 accumulates two exact products into an f32, rounded once; a NaN read gives the canonical NaN without NV, an
invalid product or the sum of both infinities with NV, an infinite term that infinity. An exact zero takes the sign that all terms
have, else − only under RDN. It accepts f16 and bf16 only. -/
def Obligations.FloatDotProduct : Prop :=
  ∀ (s : State) (r : Run) (w : BitVec 1) (d : BitVec 7) (a b : BitVec 8), Executing s r →
    (r.T ≠ 8 → r.T ≠ 9 → exec (.fdot2 w d a b) s = .next (s.illegal r)) ∧
    (Runs r (.fdot2 w d a b) → ∃ t val fl, exec (.fdot2 w d a b) s = .next t ∧
      VResult s t r w d.toNat false val fl ∧
      ∀ L, On r L →
        let n := gmRnd r.path.gm
        let f := fmtOf r.T
        let c := fmtF32.read n.ftz (r.group.vreg d.toNat L).toNat
        let x := fun k => f.read n.ftz (el 16 (r.src r.T a L) k).toNat
        let y := fun k => f.read n.ftz (el 16 (r.src r.T b L) k).toNat
        (c.isNaN = true ∨ (∃ k, k < 2 ∧ ((x k).isNaN = true ∨ (y k).isNaN = true)) →
          (val L).setWidth 32 = (0x7FC00000 : BitVec 32) ∧ fl L = 0) ∧
        (c.isNaN = false → (∀ k, k < 2 → (x k).isNaN = false ∧ (y k).isNaN = false) →
          (∃ k, k < 2 ∧ (ZeroVal (x k) ∧ (y k).isInf = true ∨ (x k).isInf = true ∧ ZeroVal (y k))) →
          (val L).setWidth 32 = (0x7FC00000 : BitVec 32) ∧ fl L = fNV) ∧
        (c.isNaN = false → (∀ k, k < 2 → (x k).isNaN = false ∧ (y k).isNaN = false) →
          (∀ k, k < 2 → ¬ (ZeroVal (x k) ∧ (y k).isInf = true) ∧ ¬ ((x k).isInf = true ∧ ZeroVal (y k))) →
          let infinite := fun g : Bool => c = .inf g ∨
            ∃ k, k < 2 ∧ ((x k).isInf = true ∨ (y k).isInf = true) ∧ ((x k).sign != (y k).sign) = g
          (infinite false → infinite true → (val L).setWidth 32 = (0x7FC00000 : BitVec 32) ∧ fl L = fNV) ∧
          (infinite false → ¬ infinite true → (val L).setWidth 32 = (0x7F800000 : BitVec 32) ∧ fl L = 0) ∧
          (¬ infinite false → infinite true → (val L).setWidth 32 = (0xFF800000 : BitVec 32) ∧ fl L = 0)) ∧
        (FinVal c → (∀ k, k < 2 → FinVal (x k) ∧ FinVal (y k)) →
          ∃ v, FinVal v ∧ (val L).setWidth 32 = BitVec.ofNat 32 (fmtF32.round n v).1 ∧ fl L = (fmtF32.round n v).2 ∧
            (ZeroVal v → v.sign = if c.sign = ((x 0).sign != (y 0).sign) ∧ c.sign = ((x 1).sign != (y 1).sign) then c.sign
              else n.rm == 3) ∧
            ∃ lo, ∀ e, e ≤ lo → scaled v (2 * e) =
              scaled c (2 * e) + scaled (x 0) e * scaled (y 0) e + scaled (x 1) e * scaled (y 1) e))

/-- R124: each row of the conversion table, for a destination that is not q4x.

R271, R272: CVT, CVLO, CVHI and CVPK: which source element each result element converts; CVPK moves the old content of D
up; the flags are those of the converted elements.

A conversion of integers that widens and changes signedness clamps under SAT: the model's reading (DEDUCED, log 16). -/
def Obligations.Conversions : Prop :=
  (∀ (r : Rnd) (t : Nat), t ≤ 13 →
     (t ≤ 7 →
       (∀ v : Int, convert r t (.int v) =
         if r.sat = true ∧ clamp t v ≠ v then ((clamp t v % 2 ^ tyBits t).toNat, fSAT) else ((v % 2 ^ tyBits t).toNat, 0)) ∧
       convert r t (.flt .nan) = (0, fNV) ∧
       (∀ neg, convert r t (.flt (.inf neg)) = (((if neg = true then lowest t else highest t) % 2 ^ tyBits t).toNat, fNV)) ∧
       (∀ neg m e,
         let v : Int := (if neg = true then -1 else 1) * ((roundGrid r.rm neg m e 0).1 : Int)
         convert r t (.flt (.fin neg m e)) =
           if clamp t v ≠ v then ((clamp t v % 2 ^ tyBits t).toNat, fNV)
           else ((v % 2 ^ tyBits t).toNat, if (roundGrid r.rm neg m e 0).2 = true then fNX else 0))) ∧
     (8 ≤ t →
       (∀ v : Int, convert r t (.int v) = (fmtOf t).round r (.fin (decide (v < 0)) v.natAbs 0)) ∧
       convert r t (.flt .nan) = ((fmtOf t).nan, 0) ∧
       (∀ neg, convert r t (.flt (.inf neg)) =
         if t = 12 then (if r.sat = true then ((if neg = true then 0x80 else 0) + 0x7E, fSAT) else (0x7F, 0))
         else ((fmtOf t).inf neg, 0)) ∧
       ∀ neg m e, convert r t (.flt (.fin neg m e)) = (fmtOf t).round r (.fin neg m e))) ∧
  (∀ (s : State) (r : Run), Executing s r →
     (∀ (i : Instr) (w : BitVec 1) (d : BitVec 7) (a : BitVec 8) (pos : Nat → Nat → Nat), widenOf i = some (w, d, a, pos) → Runs r i →
       ∃ t val fl, exec i s = .next t ∧ VResult s t r w d.toNat (tyIs64 r.T) val fl ∧
         ∀ L, On r L →
           let S := gmS r.path.gm
           let e := fun k => conv r.path.gm (r.src S a L) (pos (tyElems S) k)
           (Elems r.T (val L) fun k z => z = BitVec.ofNat _ (e k).1) ∧
           ∀ j, j < 7 → ((fl L).getLsbD j = true ↔ ∃ k, k < tyElems r.T ∧ (e k).2.getLsbD j = true)) ∧
     (∀ (w : BitVec 1) (d : BitVec 7) (a b : BitVec 8), Runs r (.cvpk w d a b) →
       ∃ t val fl, exec (.cvpk w d a b) s = .next t ∧ VResult s t r w d.toNat (tyIs64 r.T) val fl ∧
         ∀ L, On r L →
           let S := gmS r.path.gm
           let n := tyElems S
           (Elems r.T (val L) fun k z => z =
             if k < n then BitVec.ofNat _ (conv r.path.gm (r.src S a L) k).1
             else if k < 2 * n then BitVec.ofNat _ (conv r.path.gm (r.src S b L) (k - n)).1
             else el (tyBits r.T) (r.dval r.T d.toNat L) (k - 2 * n)) ∧
           ∀ j, j < 7 → ((fl L).getLsbD j = true ↔ ∃ k, k < n ∧
             ((conv r.path.gm (r.src S a L) k).2.getLsbD j = true ∨ (conv r.path.gm (r.src S b L) k).2.getLsbD j = true))))

/-- R278, R134, R273: BRA and CALL; CALL pushes PC + 4 in the part at the target, and is ILLEGAL at a full return stack whatever
ACTIVE holds.

R280, R273: RET sends the ACTIVE lanes to the top entry and pops it, the others to PC + 4; with an empty stack it is
ILLEGAL.

R281: LOOP decrements s0 to s15 modulo 2^32 and goes to its target while the count is not zero; for the whole path,
whatever ACTIVE holds.

That each part of a divided path keeps the path's outstanding requests and posted failures is the model's reading (DEDUCED, log 22). -/
def Obligations.BranchesCallsAndLoops : Prop :=
  (∀ (s : State) (r : Run) (c : BitVec 4) (o : BitVec 20), Executing s r → r.T ≤ 14 →
     (∃ t, exec (.bra c o) s = .next t ∧
       Divides s t r (if target r o = r.path.pc + 4 then 0 else taken r c) fun p => { p with pc := target r o }) ∧
     ((stackOf r.path).length < stackLimit r.path → ∃ t, exec (.call c o) s = .next t ∧
       Divides s t r (taken r c) fun p => withStack { p with pc := target r o } (returnTo r :: stackOf p)) ∧
     (stackLimit r.path ≤ (stackOf r.path).length → exec (.call c o) s = .next (s.illegal r))) ∧
  (∀ (s : State) (r : Run), Executing s r → r.T ≤ 14 →
     (∀ e rest, stackOf r.path = e :: rest → ∃ t, exec .ret s = .next t ∧
       Divides s t r r.active fun p => withStack { p with pc := e } rest) ∧
     (stackOf r.path = [] → exec .ret s = .next (s.illegal r))) ∧
  (∀ (s : State) (r : Run) (c : BitVec 4) (o : BitVec 20), Executing s r → r.T ≤ 14 →
     let x := r.group.sreg c.toNat - 1
     ∃ g q, exec (.loop c o) s = .next ((s.putGroup r.gk g).putPath r.key q) ∧ g = { r.group with s := g.s } ∧
       (∀ n, g.sreg n = if n = c.toNat then x else r.group.sreg n) ∧
       Switched s r q (if x ≠ 0 then target r o else r.path.pc + 4))

/-- R275: CALLI and JMPI check every ACTIVE lane's target before any lane moves: MISALIGN before APERTURE, the lowest lane with
that cause reported, HLANES every lane that failed.

R279, R134: past the checks every lane of the path is on a path of the group at its own next address, with dead latches
and, under CALLI, PC + 4 pushed; a group has a free path number for every further part. -/
def Obligations.IndirectControl : Prop :=
  (∀ (s : State) (r : Run) (i : Instr) (a : BitVec 8), i = .calli a ∨ i = .jmpi a → Executing s r → r.T ≤ 14 →
     a.toNat < 0xA0 → a.toNat % 2 = 0 → (stackOf r.path).length < stackLimit r.path →
     let T := fun L => r.src32 (a + 1) L ++ r.src32 a L
     let bad := fun L => (T L).toNat % 4 ≠ 0 ∨ 2 ^ 57 ≤ (T L).toNat
     (∃ L, On r L ∧ bad L) →
     ∃ L c m, exec i s = .next (s.raise r c L (T L) m) ∧ On r L ∧ (∀ Q, Q < 32 → (m.getLsbD Q = true ↔ On r Q ∧ bad Q)) ∧
       (c = cMISALIGN ∧ (T L).toNat % 4 ≠ 0 ∧ (∀ Q, Q < L → On r Q → (T Q).toNat % 4 = 0) ∨
        c = cAPERTURE ∧ 2 ^ 57 ≤ (T L).toNat ∧ (∀ Q, On r Q → (T Q).toNat % 4 = 0) ∧
         ∀ Q, Q < L → On r Q → (T Q).toNat < 2 ^ 57)) ∧
  (∀ (s : State) (r : Run) (i : Instr) (a : BitVec 8), i = .calli a ∨ i = .jmpi a → Executing s r → r.T ≤ 14 →
     a.toNat < 0xA0 → a.toNat % 2 = 0 → (stackOf r.path).length < stackLimit r.path →
     let T := fun L => r.src32 (a + 1) L ++ r.src32 a L
     (∀ L, On r L → (T L).toNat % 4 = 0 ∧ (T L).toNat < 2 ^ 57) →
     lanes r.path.mask ≤ ((List.range 32).filter fun n => (FMap.get? s.paths (32 * r.gk + n)).isNone).length + 1 →
     ∃ t, exec i s = .next t ∧ MemSame s t ∧ t.groups = (s.putGroup r.gk
         { r.group with births := ((FMap.get? t.groups r.gk).map (·.births)).getD 0 }).groups ∧
       (∀ k, k / 32 ≠ r.gk → FMap.get? t.paths k = FMap.get? s.paths k) ∧
       ∀ L, L < 32 → r.path.mask.getLsbD L = true → ∃ n p, n < 32 ∧ FMap.get? t.paths (32 * r.gk + n) = some p ∧
         p.mask.getLsbD L = true ∧ p.pc = (if r.active.getLsbD L = true then T L else r.path.pc + 4) ∧ p.live = [] ∧
         p.gm = r.path.gm ∧ stackOf p = if r.active.getLsbD L = true ∧ i = .calli a then returnTo r :: stackOf r.path
           else stackOf r.path)

/-- R136, R137, R282: a path alone in its group passes a JOIN at once, as a split; with a sibling inside the region that does not wait
there, it waits at the JOIN and nothing else changes; once no sibling is inside that does not wait there, the paths that wait there merge and
go on past it; of two that wait at two JOINs, each inside the other's region, the one at the lower address goes on; a positive offset is
ILLEGAL.

R284, R285, R286, R283: YIELD; WAITC, which waits until every ACTIVE lane's counter has reached its target; BRK, which
raises BREAK or in handler mode halts the gang; EXIT, which ends the ACTIVE lanes, and the path when none is left.

R38: a path that exits raises FAILCNT of each link by its posted failures, once none of its requests is unanswered; until then the exit is kept
(log 74). -/
def Obligations.SplitsAndWaits : Prop :=
  (∀ (s : State) (r : Run) (o : BitVec 20), Executing s r → r.T ≤ 14 →
     (0 < o.toInt → exec (.join o) s = .next (s.illegal r)) ∧
     (o.toInt ≤ 0 → s.pathsOf r.gk = [(r.key, r.path)] → (r.path.loads.map (·.id)).Nodup →
       ∃ t q, exec (.join o) s = .next t ∧ Switched s r q (r.path.pc + 4) ∧
         FMap.get? t.paths (if r.key % 32 < 4 then r.key else 32 * r.gk) = some q ∧
         (∀ k, k / 32 ≠ r.gk → FMap.get? t.paths k = FMap.get? s.paths k) ∧ t.groups = s.groups ∧ MemSame s t) ∧
     (o.toInt ≤ 0 → ∀ k p, k ≠ r.key → p.wait = .ready → Inside p (regionStart r o) r.path.pc →
       (s.pathsOf r.gk = [(r.key, r.path), (k, p)] ∨ s.pathsOf r.gk = [(k, p), (r.key, r.path)]) →
       exec (.join o) s = .next (s.putPath r.key { r.path with wait := .join (regionStart r o) })) ∧
     (o.toInt ≤ 0 →
       let W := fun x : Nat × Path => x ∈ (s.putPath r.key { r.path with wait := .join (regionStart r o) }).pathsOf r.gk ∧
         x.2.pc = r.path.pc ∧ JoinWait x.2
       (∀ x, W x → x.2.wait = .join (regionStart r o)) →
       (∀ x ∈ s.pathsOf r.gk, x.1 ≠ r.key → ¬ W x → ¬ MeetWait x.2 ∧ ¬ Inside x.2 (regionStart r o) r.path.pc) →
       ∃ t, exec (.join o) s = .next t ∧ Merged s t r W (r.path.pc + 4)) ∧
     (o.toInt ≤ 0 → ∀ k p b, k ≠ r.key → p.wait = .join b →
       (s.pathsOf r.gk = [(r.key, r.path), (k, p)] ∨ s.pathsOf r.gk = [(k, p), (r.key, r.path)]) →
       Inside r.path b p.pc → Inside p (regionStart r o) r.path.pc →
       (p.pc.toNat < r.path.pc.toNat → Inside { p with pc := p.pc + 4 } (regionStart r o) r.path.pc →
         ∃ t, exec (.join o) s = .next t ∧ FMap.get? t.paths r.key = some { r.path with wait := .join (regionStart r o) } ∧
           Merged (s.putPath r.key { r.path with wait := .join (regionStart r o) }) t r (fun x => x = (k, p)) (p.pc + 4)) ∧
       (r.path.pc.toNat < p.pc.toNat → Inside { r.path with pc := r.path.pc + 4 } b p.pc →
         ∃ t, exec (.join o) s = .next t ∧ FMap.get? t.paths k = some p ∧
           Merged s t r (fun x => x = (r.key, { r.path with wait := .join (regionStart r o) })) (r.path.pc + 4)))) ∧
  (∀ (s : State) (r : Run), Executing s r → r.T ≤ 14 →
     (∃ q, exec .yield s = .next (s.putPath r.key q) ∧ Switched s r q (r.path.pc + 4)) ∧
     (∀ a b : BitVec 8, a.toNat ≤ 0xA9 → b.toNat ≤ 0xA9 → r.deadOf (.waitc a b) false false = 0 →
       let holds := fun L => ((CMap.get r.gang.evc ((r.src32 a L).extractLsb' 0 8).toNat) - r.src32 b L).toNat < 2 ^ 31
       ((∀ L, On r L → holds L) → ∃ q, exec (.waitc a b) s = .next (s.putPath r.key q) ∧ Switched s r q (r.path.pc + 4)) ∧
       (¬ (∀ L, On r L → holds L) → ∃ w, exec (.waitc a b) s = .next (s.putPath r.key { r.path with wait := .waitc w }) ∧
         w = (lanesOf r.active).map fun L => (((r.src32 a L).extractLsb' 0 8).toNat, r.src32 b L))) ∧
     (∀ b : BitVec 8,
       (r.active = 0 → ∃ q, exec (.brk b) s = .next (s.putPath r.key q) ∧ Switched s r q (r.path.pc + 4)) ∧
       (r.active ≠ 0 → r.path.inH = false →
         exec (.brk b) s = .next (s.raise r cBREAK (lowLane r.active) (b.setWidth 64) r.active)) ∧
       (r.active ≠ 0 → r.path.inH = true → ∃ t, exec (.brk b) s = .next t ∧
         t = { s.putGang r.gid { r.gang with halted := true } with paths := t.paths } ∧
         (∀ k p, FMap.get? s.paths k = some p → k / 4096 = r.gid → ∃ p', FMap.get? t.paths k = some p' ∧
           p'.stop = if k = r.key ∨ p.stop = 0x21 then 0x21 else 0x23) ∧
         ∀ k, k / 4096 ≠ r.gid → FMap.get? t.paths k = FMap.get? s.paths k)) ∧
     ((r.path.mask &&& ~~~ r.active ≠ 0 → ∃ q, exec .exit s =
         .next ((s.putGroup r.gk { r.group with exited := r.group.exited ||| r.active }).putPath r.key q) ∧
         Switched s r { q with mask := r.path.mask } (r.path.pc + 4) ∧ q.mask = r.path.mask &&& ~~~ r.active) ∧
      (r.path.mask &&& ~~~ r.active = 0 → r.wg.rot = [] → s.exits = [] → (∀ q ∈ s.allReqs, q.exit ≠ s.uid) →
       (∃ k p, (k, p) ∈ s.paths ∧ k ≠ r.key ∧ k / 512 = r.wk) →
       let t0 := { withReqs (s.putGroup r.gk { r.group with exited := r.group.exited ||| r.active }) (fun q =>
           let q1 := q.withOwners (q.owners.filter (· != r.key))
           if q.isOf r.key = true then (if q1.orphan = true then { q1 with exit := s.uid } else q1) else q) with
         uid := s.uid + 1
         paths := FMap.erase s.paths r.key
         parked := s.parked.filter fun x => x.1 != r.key }
       ((∃ q ∈ t0.allReqs, q.exit = s.uid) →
         exec .exit s = .next { t0 with exits := [⟨s.uid, r.gang.part, r.gang.ctx, r.path.fails⟩] }) ∧
       ((∀ q ∈ t0.allReqs, q.exit ≠ s.uid) → r.path.fails = [] → exec .exit s = .next t0) ∧
       ((∀ q ∈ t0.allReqs, q.exit ≠ s.uid) → ∃ t, exec .exit s = .next t ∧
         t = { t0 with links := t.links, mem := t.mem, hostMem := t.hostMem, fns := t.fns } ∧
         ∀ l, l < 16 → (t.link l).failcnt.toNat =
           min ((s.link l).failcnt.toNat + (r.path.fails.filter fun f => f.posted && f.link == some l).length) (2 ^ 32 - 1)))))

/-- R185: taking an exception, outside handler mode with a handler: HCAUSE, HPC, HADDR, HLANES, HMODE and HMASK written, the
latches saved with their live states and dead, handler mode with gm 0x0000_0002, an empty handler return stack and the PC at HENTRY;
no other part of the path and nothing else of the machine changes.

R184: of several lanes' causes the one of the lowest level is reported, at the lowest lane that has it, with that lane's
address, and HLANES holds every lane with a cause. -/
def Obligations.ExceptionEntry : Prop :=
  (∀ (s : State) (r : Run) (cause : BitVec 8) (lane : Nat) (addr : BitVec 64) (lanes : BitVec 32),
     r.path.inH = false → (s.rctx r).hentry ≠ 0 → lane < 32 →
     ∃ q, s.raise r cause lane addr lanes = s.putPath r.key q ∧
       q.hcause.extractLsb' 0 8 = cause ∧ (q.hcause.extractLsb' 8 5).toNat = lane ∧ q.hcause.extractLsb' 13 19 = 0 ∧
       q = { r.path with
         hcause := q.hcause, hpc := r.path.pc, haddr := addr, hlanes := lanes, hmode := r.path.gm, hmask := r.path.mask
         sfw := r.path.fw, slive := r.path.live, smask := r.path.mask, live := [], inH := true, gm := 0x00000002
         pc := (s.rctx r).hentry, hstack := [], held := none, wait := .ready, xbase := none }) ∧
  (∀ (s : State) (r : Run) (fs : List LaneFault), fs ≠ [] →
     ∃ f m, f ∈ fs ∧ s.raiseLanes r fs = s.raise r f.cause f.lane f.addr m ∧
       (∀ x ∈ fs, causeLevel f.cause ≤ causeLevel x.cause ∧
         (causeLevel f.cause = causeLevel x.cause → f.lane ≤ x.lane)) ∧
       ∀ L, L < 32 → (m.getLsbD L = true ↔ ∃ x ∈ fs, x.lane = L))

/-- R186: a fault in handler mode, or with HENTRY zero, kills the launch of the path's gang: the launch is marked killed, no path of
the gang is left, and last KILLED is posted to the function with the record's number (at the kill: log 40, the model's choice); a gang of a docket
is killed alone, its docket, if it ran, becomes ABANDONED with CODE 6, and last TASK_FAULT is posted with its pigeonhole and number. -/
def Obligations.FaultWithoutHandler : Prop :=
  ∀ (s : State) (r : Run) (cause : BitVec 8) (lane : Nat) (addr : BitVec 64) (lanes : BitVec 32),
    Executing s r → r.path.inH = true ∨ (s.rctx r).hentry = 0 → r.gang.status ≠ 4 → r.gang.status ≠ 5 →
    (∀ k l, r.gang.src = .launch k → FMap.get? s.launches k = some l → l.killed = false →
      (FMap.get? (s.raise r cause lane addr lanes).launches k).map (·.killed) = some true ∧
      (∀ j, j / 4096 = r.gid → FMap.get? (s.raise r cause lane addr lanes).paths j = none) ∧
      ∃ u : State, s.raise r cause lane addr lanes = u.notify l.part 5 0 l.ctx l.index) ∧
    (∀ k, r.gang.src = .docket k →
      (∀ j, (FMap.get? (s.raise r cause lane addr lanes).launches j).map (·.killed) = (FMap.get? s.launches j).map (·.killed)) ∧
      (∀ j, j / 4096 = r.gid → FMap.get? (s.raise r cause lane addr lanes).paths j = none) ∧
      (∀ d d', FMap.get? s.dockets k = some d → d.state = 3 → r.gang.insts = [] →
        FMap.get? (s.raise r cause lane addr lanes).dockets k = some d' → d'.state = 6 ∧ d'.code = 6) ∧
      ∀ d, FMap.get? s.dockets k = some d → ∃ u : State, s.raise r cause lane addr lanes =
        u.notify r.gang.part 11 0 r.gang.ctx (BitVec.ofNat 16 d.index.toNat ++ (0 : BitVec 8) ++ BitVec.ofNat 8 d.hole))

/-- R334, R186: RTE outside handler mode is ILLEGAL. In handler mode with nothing logged, held or pending, PC, gm, the latches and
their live states are restored, the mask is HMASK within the lanes held at entry less those that exited, and the handler's return
stack is gone; lanes held whose HMASK bit is 0 exit. -/
def Obligations.ReturnFromHandler : Prop :=
  ∀ (s : State) (r : Run), Executing s r → r.T ≤ 14 →
    (r.path.inH = false → exec .rte s = .next (s.illegal r)) ∧
    (r.path.inH = true → r.path.hmask &&& r.path.smask &&& r.path.mask ≠ 0 → s.sidelog = [] →
      (∀ k q, (k, q) ∈ s.gangs → q.insts = []) → r.gang.dq = [] → (s.rctx r).chg = [] →
      exec .rte s = .next ((s.putGroup r.gk { r.group with
          exited := r.group.exited ||| (r.path.smask &&& r.path.mask &&& ~~~ r.path.hmask) }).putPath r.key
        { r.path with pc := r.path.hpc, gm := r.path.hmode, mask := r.path.hmask &&& r.path.smask &&& r.path.mask
                      fw := r.path.sfw, live := r.path.slive, inH := false, hstack := [], wait := .ready, mid := false }))

/-- R187, R188, R189: between two instructions a path that runs outside handler mode takes the oldest deferred fault of its gang that
is due at it, which enters the handler with DEFERRED 1, LANE 0, no lanes, and LOST if one was dropped; at a switch point it takes the
oldest pending MAPCHG, with the new MAPVER in HADDR. A path in handler mode, or one that does not run, takes neither. -/
def Obligations.AsynchronousEntry : Prop :=
  ∀ (s : State) (p : Nat) (r : Run), s.runAt p = some r →
    (s.atDelivery p = false ∨ r.path.inH = true →
      exec (.deferredFaultDelivery p) s = .next s ∧ exec (.mapchgDelivery p) s = .next s) ∧
    ((∀ f ∈ r.gang.dq, ¬ DueAt s p r f) → exec (.deferredFaultDelivery p) s = .next s) ∧
    (r.path.mid = true → exec (.mapchgDelivery p) s = .next s) ∧
    (∀ pre f rest, s.atDelivery p = true → r.path.inH = false → (s.rctx r).hentry ≠ 0 → r.gang.dq = pre ++ f :: rest →
      (∀ x ∈ pre, ¬ DueAt s p r x) → DueAt s p r f →
      ∃ q, exec (.deferredFaultDelivery p) s = .next
          ((s.putGang r.gid { r.gang with dq := pre ++ rest, lost := false }).putPath p q) ∧
        q.hcause.extractLsb' 0 8 = f.cause ∧ q.hcause.extractLsb' 8 5 = 0 ∧ q.hcause.getLsbD 13 = true ∧
        q.hcause.getLsbD 14 = r.gang.lost ∧ q.haddr = f.addr ∧ q.hpc = r.path.pc ∧ q.hlanes = 0 ∧ q.hmode = r.path.gm ∧
        q.hmask = r.path.mask ∧ q.inH = true ∧ q.gm = 2 ∧ q.pc = (s.rctx r).hentry ∧ q.live = []) ∧
    (∀ v rest, s.atDelivery p = true → r.path.inH = false → r.path.mid = false → (s.rctx r).hentry ≠ 0 →
      (s.rctx r).chg = v :: rest →
      ∃ q, exec (.mapchgDelivery p) s = .next
          ((s.putCtx r.gang.part r.gang.ctx { s.rctx r with chg := rest }).putPath p q) ∧
        q.hcause.extractLsb' 0 8 = cMAPCHG ∧ q.hcause.getLsbD 13 = true ∧ q.haddr = v.setWidth 64 ∧ q.hpc = r.path.pc ∧
        q.hmode = r.path.gm ∧ q.hmask = r.path.mask ∧ q.inH = true ∧ q.gm = 2 ∧ q.pc = (s.rctx r).hentry ∧ q.live = [])

/-- R330, R331, R337: SRD reads every system register, CYC the core's cycle counter; a number that names no register is
ILLEGAL. That a 64-bit result with ACTIVE empty shifts the latches twice is read from R232 (log 33), and that the counter advances by one with each
issue is the model's choice (log 12).

R329, R330, R332: SWR: read-only registers and, outside handler mode, those of the handler are ILLEGAL; each accepted
write changes its register alone and the path goes to PC + 4; a value that HPC or HMODE does not accept leaves it; a value that
GMODE does not accept is ILLEGAL.

R104: an SWR of an aperture is used by every path of the context from its next instruction on. -/
def Obligations.SystemRegisters : Prop :=
  (∀ (s : State) (r : Run) (w : BitVec 1) (d : BitVec 7) (n : BitVec 16), Executing s r →
     (∀ wide x, sysValue s r n.toNat = some (wide, x) → srdFields w d wide → ∃ t, exec (.srd w d n) s = .next t ∧
       SResult s t r w d.toNat wide x 0) ∧
     (sysValue s r n.toNat = none → exec (.srd w d n) s = .next (s.illegal r)) ∧
     (srdFields w d true → ∃ t, exec (.cyc w d) s = .next t ∧
       SResult s t r w d.toNat true (BitVec.ofNat 64 (s.core r.wg.core).cycles) 0) ∧
     (∀ c x, s.core c = x → ((s.tick c).core c).cycles = x.cycles + 1)) ∧
  (∀ (s : State) (r : Run) (d : BitVec 7), Executing s r → r.T ≤ 14 → d.toNat < 32 →
     let x := (r.group.sreg d.toNat)
     let X := swrValue r d true
     let p := { r.path with pc := r.path.pc + 4, wait := .ready }
     (∀ n : BitVec 16, n.toNat = 0 ∨ (0x020 ≤ n.toNat ∧ n.toNat ≤ 0x027) → exec (.swr d n) s = .next (s.illegal r)) ∧
     (∀ n : BitVec 16, r.path.inH = false → n.toNat ≠ 1 → n.toNat ≠ 3 → n.toNat ≠ 0x00A →
       exec (.swr d n) s = .next (s.illegal r)) ∧
     (gmAccepts x → exec (.swr d 0x001) s = .next (s.putPath r.key { p with gm := x })) ∧
     (¬ gmAccepts x → exec (.swr d 0x001) s = .next (s.illegal r)) ∧
     exec (.swr d 0x003) s = .next (s.putPath r.key { p with lstat := x &&& 0x1FFF }) ∧
     exec (.swr d 0x00A) s = .next ((s.putPath r.key p).putGroup r.gk { r.group with aflags := x &&& 0x7F }) ∧
     (r.path.inH = true →
       exec (.swr d 0x002) s = .next (s.putPath r.key { p with pix := x &&& 0x1FFFF, xbase := none }) ∧
       exec (.swr d 0x004) s = .next (s.putPath r.key { p with hcause := x &&& 0x7FFF }) ∧
       exec (.swr d 0x007) s = .next (s.putPath r.key { p with hlanes := x }) ∧
       (gmAccepts x → exec (.swr d 0x008) s = .next (s.putPath r.key { p with hmode := x })) ∧
       (¬ gmAccepts x → exec (.swr d 0x008) s = .next (s.putPath r.key p)) ∧
       exec (.swr d 0x009) s = .next (s.putPath r.key { p with hmask := x }) ∧
       exec (.swr d 0x030) s = .next ((s.putPath r.key p).putCtx r.gang.part r.gang.ctx { s.rctx r with
         issuepol := if x.toNat % 4 = 3 then (s.rctx r).issuepol else x &&& 3 }) ∧
       (d.toNat % 2 = 0 →
         (X.toNat % 4 = 0 → exec (.swr d 0x005) s = .next (s.putPath r.key { p with hpc := X })) ∧
         (X.toNat % 4 ≠ 0 → exec (.swr d 0x005) s = .next (s.putPath r.key p)) ∧
         exec (.swr d 0x006) s = .next (s.putPath r.key { p with haddr := X })) ∧
       (d.toNat % 2 = 1 → exec (.swr d 0x005) s = .next (s.illegal r) ∧ exec (.swr d 0x006) s = .next (s.illegal r)))) ∧
  (∀ (s : State) (r : Run) (d : BitVec 7) (n : BitVec 16), Executing s r → r.T ≤ 14 → d.toNat < 32 → d.toNat % 2 = 0 →
     r.path.inH = true → 0x010 ≤ n.toNat → n.toNat ≤ 0x017 →
     ∃ t, exec (.swr d n) s = .next t ∧ MemSame s t ∧ t.groups = s.groups ∧
       CMap.get (t.ctx r.gang.part r.gang.ctx).aper (n.toNat - 0x010) = swrValue r d true &&& 0x07FFFFFFFFFFFFFF ∧
       ∀ k p g, FMap.get? s.paths k = some p → FMap.get? s.gangs (k / 4096) = some g → g.part = r.gang.part →
         g.ctx = r.gang.ctx → ∃ p', FMap.get? t.paths k = some p' ∧
           CMap.get p'.aper (n.toNat - 0x010) = swrValue r d true &&& 0x07FFFFFFFFFFFFFF ∧
           (k ≠ r.key → p'.pc = p.pc ∧ p'.gm = p.gm ∧ p'.wait = p.wait))

/-- R333, R82, R83: TRAP with no syscall ring enters the handler with its code; with a full ring it parks and keeps its code and arguments; with
room it parks the path, writes its record of 64 bytes, appends its number and advances SYSHEAD; a reply writes s0 and resumes the path past
the TRAP.

R335, R329, R190: MAPACK outside handler mode is ILLEGAL, in it the path waits for the answer; the answer acknowledges the current
version alone and writes p7, with STALE_ACK in LSTAT for another; HOSTACK acknowledges likewise. R360: in a package that needs a reset no reply
and no answer moves a path. -/
def Obligations.SyscallsAndMapChanges : Prop :=
  (∀ (s : State) (r : Run) (i : BitVec 24), Executing s r → r.T ≤ 14 →
     let c := s.rctx r
     (r.active = 0 → ∃ q, exec (.trap i) s = .next (s.putPath r.key q) ∧ Switched s r q (r.path.pc + 4)) ∧
     (r.active ≠ 0 → c.syslog = 0 →
       exec (.trap i) s = .next (s.raise r cTRAP (lowLane r.active) (i.setWidth 64) r.active)) ∧
     (r.active ≠ 0 → c.syslog ≠ 0 → (c.syshead - c.systail).toNat = 2 ^ c.syslog →
       exec (.trap i) s = .next (s.putPath r.key { r.path with wait := .trapped i ((List.range 8).map r.group.sreg) })) ∧
     (∀ s1 bs, r.active ≠ 0 → c.syslog ≠ 0 → (c.syshead - c.systail).toNat < 2 ^ c.syslog → SyscallRecord r (c.syshead + 1) i bs →
       (s.putPath r.key { r.path with wait := .trapped i ((List.range 8).map r.group.sreg) }).wroteAddr r.gang.part r.gang.ctx
         (c.sysbase + BitVec.ofNat 64 (64 * (c.syshead.toNat % 2 ^ c.syslog))) bs = (true, s1) →
       ∃ t, exec (.trap i) s = .next t ∧ FMap.get? t.paths r.key = some { r.path with wait := .parked (c.syshead + 1) } ∧
         (t.ctx r.gang.part r.gang.ctx).syshead = c.syshead + 1 ∧
         (r.key, c.syshead + 1, ctxKey r.gang.part r.gang.ctx) ∈ t.parked) ∧
     (∀ part ctx seq value, Hosted s part → s.mgmt.needsReset = true → exec (.sysreply part ctx seq value) s = .next s) ∧
     (∀ part ctx seq value, Hosted s part → s.mgmt.needsReset = false → (s.ctx part ctx).swapst = 0 → s.parked = [(r.key, seq, ctxKey part ctx)] →
       ∃ g q, exec (.sysreply part ctx seq value) s = .next (({ s with parked := [] }.putGroup r.gk g).putPath r.key q) ∧
         g = { r.group with s := g.s } ∧ (∀ n, g.sreg n = if n = 0 then value else r.group.sreg n) ∧
         Switched s r q (r.path.pc + 4)) ∧
     (∀ part ctx v, Hosted s part → exec (.systail part ctx v) s = .next (s.putCtx part ctx { s.ctx part ctx with systail := v }))) ∧
  (∀ (s : State) (r : Run) (a : BitVec 8), Executing s r → r.T ≤ 14 → a.toNat ≤ 0xA9 → r.deadOf (.mapack a) false false = 0 →
     (r.path.inH = false → exec (.mapack a) s = .next (s.illegal r)) ∧
     (r.path.inH = true → exec (.mapack a) s =
       .next (s.putPath r.key { r.path with wait := .mapack (r.src32 a (lowLane r.path.mask)) })) ∧
     (∀ v, r.path.wait = .mapack v → s.mgmt.needsReset = true → exec (.mapackAnswer r.key) s = .next s) ∧
     (∀ v, r.path.wait = .mapack v → s.mgmt.needsReset = false → ∃ t, exec (.mapackAnswer r.key) s = .next t ∧
       (v = s.mgmt.mapver → (t.ctx r.gang.part r.gang.ctx).acked = v ∧ (t.ctx r.gang.part r.gang.ctx).chg = [] ∧
         (t.ctx r.gang.part r.gang.ctx).grace = false) ∧
       (v ≠ s.mgmt.mapver → t.ctxs = s.ctxs) ∧
       ∃ g q, FMap.get? t.groups r.gk = some g ∧ FMap.get? t.paths r.key = some q ∧
         (∀ L, L < 32 → (g.pred 7).getLsbD L =
           if r.path.mask.getLsbD L = true then decide (v = s.mgmt.mapver) else (r.group.pred 7).getLsbD L) ∧
         (v ≠ s.mgmt.mapver → r.path.mask ≠ 0 → q.lstat = BitVec.ofNat 32 (0x30 + 256 * (lowLane r.path.mask))) ∧
         q.pc = r.path.pc + 4 ∧ q.live = [] ∧ q.wait = .ready) ∧
     (∀ part ctx v, Hosted s part → exec (.hostack part ctx v) s = .next
       (if v = s.mgmt.mapver then s.putCtx part ctx { s.ctx part ctx with acked := v, chg := [], grace := false } else s)))

/-- R289, R292: loads from the lane slice, scratch, cluster memory and the chip scratchpad. A lane's load sees the bytes of its own stores; a
store of another lane it may see late, as the agenda says (R205, the model's choice, log 1), but none when no store is late.

R289, R294: stores to the lane slice, scratch, cluster memory and the chip scratchpad change the bytes at the lanes'
effective offsets and no other byte of any space or memory, no barrier tag, register, predicate or flag; while stores are seen late (log 1)
theirs are kept as late ones.

R299, R300, R290, R291: atomics on scratch and cluster memory, and REDS: the lanes act in ascending order; ATS.* and ATC.*
return the old values.

R299: the operations of the atomics on elements of b32, b64, i32, i64; f32 sums round to nearest even and keep subnormals,
f32 minimum and maximum are FMIN's and FMAX's. -/
def Obligations.OnChipMemory : Prop :=
  (∀ (s : State) (l : SLoc) (gk L : Nat),
     ((∀ x ∈ s.stale, x.loom = true ∨ x.loc ≠ l ∨ (x.group = gk ∧ x.lane = L)) → s.laneMem l gk L = s.slocMem l) ∧
     (∀ x, s.stale = [x] → x.loom = false → x.loc = l → x.group ≠ gk ∨ x.lane ≠ L → ∀ a, CMap.get (s.laneMem l gk L) a =
       if x.key ≤ a ∧ a < x.key + x.old.length then x.old.getD (a - x.key) 0 else CMap.get (s.slocMem l) a)) ∧
  (∀ (s : State) (r : Run) (i : Instr) (c : Chip), chipLoad i = some c → Executing s r → FreshUid s r →
     ChipLegal r i (fun t => decide (t ≤ 14)) → InBounds s r c (if c.quad = true then 16 else 1) →
     ∃ t val, exec i s = .next t ∧
       Loads s t r c.w c.d.toNat (if c.quad = true then 4 else if tyIs64 r.T = true then 2 else 1) false val (fun _ => 0) ∧
       ∀ L j b, On r L → j < (if c.quad = true then 4 else if tyIs64 r.T = true then 2 else 1) → b < 32 →
         (val L).getLsbD (32 * j + b) =
           loadBit (s.laneMem (r.sloc c.sp) r.gk L) (chipAt r c L) (chipBytes r c) (if c.quad = true then 2 else r.T) j b) ∧
  (∀ (s : State) (r : Run) (i : Instr) (c : Chip), chipStore i = some c → Executing s r → NoAtomics s r →
     ChipLegal r i (fun t => decide (t ≤ 14)) → InBounds s r c (if c.quad = true then 16 else 1) → Untagged s r c →
     ∃ t q, exec i s = .next t ∧ Switched s r q (r.path.pc + 4) ∧ FMap.get? t.paths r.key = some q ∧
       (∀ k, k ≠ r.key → FMap.get? t.paths k = FMap.get? s.paths k) ∧ MemSame s t ∧ t.groups = s.groups ∧
       (∀ l, l ≠ r.sloc c.sp → t.slocMem l = s.slocMem l) ∧ (∀ l, t.slocTags l = s.slocTags l) ∧
       Stores (s.slocMem (r.sloc c.sp)) (t.slocMem (r.sloc c.sp)) r (chipAt r c) (chipBytes r c)
         (storeByte r c.d.toNat) ∧ (s.lag = false ∨ c.sp = .L → ∀ x ∈ t.stale, x ∈ s.stale) ∧
       ∀ x ∈ t.stale, x ∉ s.stale → x.group = r.gk ∧ On r x.lane ∧ x.loc = r.sloc c.sp ∧ x.key = chipAt r c x.lane ∧
         x.old.length = chipBytes r c) ∧
  (∀ (s : State) (r : Run) (i : Instr) (c : Chip) (op : AOp) (ret : Bool) (align : Nat → Nat),
     chipAtomic i = some (c, op, ret, align) → Executing s r → FreshUid s r → NoAtomics s r → ChipLegal r i op.acc →
     (op = .cas → c.d.toNat % (if tyIs64 r.T = true then 4 else 2) = 0) →
     InBounds s r c (align r.T) → Untagged s r c →
     (c.sp = .S → ∀ L, On r L → (offset r c L).toNat / 1024 = ((offset r c L).toNat + chipBytes r c - 1) / 1024) →
     let x := rmwAll op r.T (chipBytes r c) (chipAt r c) (atomicV r c.d.toNat) (atomicNew r c.d.toNat) (lanesOf r.active)
       (s.slocMem (r.sloc c.sp))
     ∃ t u q, exec i s = .next t ∧ Switched s r q (r.path.pc + 4) ∧
       MemSame s t ∧ (∀ l, l ≠ r.sloc c.sp → t.slocMem l = s.slocMem l) ∧ (∀ l, t.slocTags l = s.slocTags l) ∧
       (∀ a, CMap.get (t.slocMem (r.sloc c.sp)) a = CMap.get x.2 a) ∧
       (ret = false ∨ c.w = 1 ∨ r.active = 0 → t.groups = s.groups ∧ FMap.get? t.paths r.key = some q) ∧
       (ret = true → c.w = 0 → r.active ≠ 0 → s.mgmt.needsReset = false → exec (.loadReturn r.key s.uid) t = .next u ∧
         FMap.get? u.paths r.key = some q ∧ (∀ l, u.slocMem l = t.slocMem l) ∧ ∃ g, FMap.get? u.groups r.gk = some g ∧
         g = { r.group with v := g.v, aflags := g.aflags } ∧ g.aflags = r.group.aflags ∧
         ∀ n L, L < 32 → g.vreg n L =
           if r.active.getLsbD L = true ∧ c.d.toNat ≤ n ∧ n < c.d.toNat + (if tyIs64 r.T = true then 2 else 1) then
             BitVec.ofNat 32 (x.1 L / 2 ^ (32 * (n - c.d.toNat)))
           else r.group.vreg n L)) ∧
  (∀ (t : Nat), t = 2 ∨ t = 3 ∨ t = 6 ∨ t = 7 → ∀ (old v new : BitVec (tyBits t)),
     let f := fun op : AOp => BitVec.ofNat (tyBits t) (op.apply t old.toNat v.toNat new.toNat)
     f .add = old + v ∧ f .and = old &&& v ∧ f .or = old ||| v ∧ f .xor = old ^^^ v ∧ f .xch = v ∧
     f .cas = (if old = v then new else old) ∧
     f .min = (if ival t v < ival t old then v else old) ∧ f .max = (if ival t old < ival t v then v else old) ∧
     (∀ o w n, AOp.add.apply 10 o w n = ((fmtOf 10).addOp ⟨0, false, false⟩ false o w).1 ∧
       AOp.min.apply 10 o w n = (fmtOf 10).minMaxOp false false o w ∧
       AOp.max.apply 10 o w n = (fmtOf 10).minMaxOp false true o w))

/-- R103: the lowest-numbered valid aperture that covers an address translates it; with none, or beyond 2^57, APERTURE. A valid
aperture has V 1, a kind other than 3 and a size code of at most 22.

R105, R107, R108: outcomes of a leaf: not valid or on a retired frame NOTPRESENT, lacking the right PERMISSION, else the
physical address of its frame; the frame of a fabric window's page is no frame of HBM and never retired; a cached entry that grants the access stands
without a walk; with PTROOT zero the walk is NOTPRESENT. A walk reads an entry at each level; a reserved bit, a wrong LEAF, ORD 3, a reserved FMT or
BLK, ANON with SOFT, ANON in a large page or a misaligned large FRAME is FORMAT, a table entry that is not valid NOTPRESENT.

R109, R110: a walk that reaches an anonymous page gives it the frame at the first-touch ring's head: the entry in memory
becomes valid with that frame, and the head advances; with an empty ring the walk is NOTPRESENT. -/
def Obligations.Translation : Prop :=
  (∀ (s : State) (ap : CMap 64) (part va len : Nat) (nd : Need),
     (2 ^ 57 ≤ va → s.piece ap part va len nd = (.bad cAPERTURE 0 len false none, s)) ∧
     ((∀ n, n < 8 → aperCovers (CMap.get ap n) va = false) → s.piece ap part va len nd = (.bad cAPERTURE 0 len false none, s)) ∧
     (∀ n, n < 8 → aperCovers (CMap.get ap n) va = true → (∀ m, m < n → aperCovers (CMap.get ap m) va = false) →
       aperFind ap va = some (aperMap (CMap.get ap n) va)) ∧
     (∀ x : BitVec 64, aperCovers x va = true ↔ x.getLsbD 0 = true ∧ (x.extractLsb' 1 2).toNat ≠ 3 ∧ (x.extractLsb' 5 5).toNat ≤ 22 ∧
       va / 2 ^ (30 + (x.extractLsb' 5 5).toNat) =
         (x.extractLsb' 10 27).toNat * 2 ^ 30 / 2 ^ (30 + (x.extractLsb' 5 5).toNat))) ∧
  (∀ (s : State) (part ia : Nat) (nd : Need) (ray : Bool),
     (∀ (e : BitVec 128) (large : Bool), e.getLsbD 0 = false → leafOut s.mgmt e large ia nd = .fault cNOTPRESENT (some e)) ∧
     (∀ (e : BitVec 128) (large : Bool), e.getLsbD 0 = true →
       let pa := (e.extractLsb' 32 32).toNat * 65536 + ia % (if large = true then 2 ^ 21 else 2 ^ 16)
       s.mgmt.frameRetired pa = false →
       leafOut s.mgmt e large ia nd =
         if (nd ≠ .wr ∧ e.getLsbD 2 = false) ∨ (nd ≠ .rd ∧ e.getLsbD 3 = false) then .fault cPERMISSION (some e)
         else .ok pa e large) ∧
     (∀ (e : BitVec 128) (large : Bool), e.getLsbD 0 = true →
       let pa := (e.extractLsb' 32 32).toNat * 65536 + ia % (if large = true then 2 ^ 21 else 2 ^ 16)
       s.mgmt.frameRetired pa = true → leafOut s.mgmt e large ia nd = .fault cNOTPRESENT (some e)) ∧
     (∀ pa, s.mgmt.chanEnt ≠ [] → (s.mgmt.frameRetired pa = true ↔ pa < Config.hbmBytes ∧ ∀ k, k < 34 →
       let x := s.mgmt.chan (34 * (pa / 65536 / 32 % 8) + k)
       ¬ ((x.extractLsb' 0 2).toNat = 0 ∧ (x.extractLsb' 2 6).toNat = pa / 65536 % 32))) ∧
     (∀ (e : BitVec 128) (large : Bool), e.getLsbD 0 = true →
       leafOut s.mgmt e large ia nd true =
         if (nd ≠ .wr ∧ e.getLsbD 2 = false) ∨ (nd ≠ .rd ∧ e.getLsbD 3 = false) then .fault cPERMISSION (some e)
         else .ok ((e.extractLsb' 32 32).toNat * 65536 + ia % (if large = true then 2 ^ 21 else 2 ^ 16)) e large) ∧
     (∀ c pa e, FMap.get? s.tlb (part * 2 ^ 36 + ia / 65536) = some c →
       leafOut s.mgmt (c &&& ~~~0x10000000) (c.getLsbD 28) ia nd = .ok pa e (c.getLsbD 28) →
       s.walk part ia nd ray = (.ok pa e (c.getLsbD 28), s)) ∧
     (FMap.get? s.tlb (part * 2 ^ 36 + ia / 65536) = none → (s.part part).ptroot = 0 →
       s.walk part ia nd ray = (.fault cNOTPRESENT none, s)) ∧
     (FMap.get? s.tlb (part * 2 ^ 36 + ia / 65536) = none → (s.part part).ptroot ≠ 0 →
       let entry := fun a => BitVec.ofNat 128 (Memory.read s.mem a 16)
       let next := fun e : BitVec 128 => (e.extractLsb' 64 52).toNat
       let e0 := entry ((s.part part).ptroot.toNat + 16 * (ia / 2 ^ 36 % 2 ^ 16))
       let a1 := next e0 + 16 * (ia / 2 ^ 21 % 2 ^ 15)
       let e1 := entry a1
       let a2 := next e1 + 16 * (ia / 2 ^ 16 % 2 ^ 5)
       let e2 := entry a2
       let node := fun e : BitVec 128 => e.getLsbD 1 = false ∧ e.extractLsb' 2 62 = 0 ∧ e.extractLsb' 116 12 = 0
       let goes := fun e : BitVec 128 => node e ∧ e.getLsbD 0 = true
       let format := fun x => s.walk part ia nd ray = (.fault cFORMAT x, s)
       (¬ node e0 → format none) ∧ (goes e0 → e1.getLsbD 1 = true → LeafFormat e1 true → format (some e1)) ∧
       (goes e0 → e1.getLsbD 1 = false → ¬ node e1 → format none) ∧
       (goes e0 → goes e1 → e2.getLsbD 1 = false → format none) ∧
       (goes e0 → goes e1 → e2.getLsbD 1 = true → LeafFormat e2 false → format (some e2)) ∧
       ((node e0 ∧ e0.getLsbD 0 = false) ∨ (goes e0 ∧ node e1 ∧ e1.getLsbD 0 = false) → s.walk part ia nd ray = (.fault cNOTPRESENT none, s)) ∧
       (goes e0 → e1.getLsbD 1 = true → ¬ LeafFormat e1 true → freshWalk s.mem (s.part part).ptroot ia = .leaf e1 a1 true) ∧
       (goes e0 → goes e1 → e2.getLsbD 1 = true → ¬ LeafFormat e2 false →
         freshWalk s.mem (s.part part).ptroot ia = .leaf e2 a2 false))) ∧
  (∀ (s : State) (part ia a : Nat) (nd : Need) (e : BitVec 128), FMap.get? s.tlb (tlbKey part ia) = none →
     freshWalk s.mem (s.part part).ptroot ia = .leaf e a false → e.getLsbD 0 = false → e.getLsbD 6 = true →
     ((s.part part).fthead = (s.part part).fttail → s.walk part ia nd = (.fault cNOTPRESENT (some e), s)) ∧
     ((s.part part).ftlog ≠ 0 → (s.part part).fthead ≠ (s.part part).fttail →
       let frame := Memory.read s.mem ((s.part part).ftbase.toNat + 8 * ((s.part part).fthead.toNat % 2 ^ (s.part part).ftlog)) 8
         / 65536 % 2 ^ 32
       let t := (s.walk part ia nd).2
       (t.part part).fthead = (s.part part).fthead + 1 ∧
       (let x := entAt t.mem a
        x.getLsbD 0 = true ∧ (x.extractLsb' 32 32).toNat = frame ∧ x.extractLsb' 64 64 = e.extractLsb' 64 64 ∧
          x.extractLsb' 1 31 = e.extractLsb' 1 31) ∧
       ∀ b, b < a ∨ a + 16 ≤ b → CMap.get t.mem b = CMap.get s.mem b))

/-- R292, R293, R297: loads from local memory through cached translations; the value is that of `LoadedElements`. A page of q4x under
another type has its scale byte read too (R106).

R292, R124, R118: the elements of a load: the stored bytes where the page's format is moved unchanged, one element i8 or i16
sign-extended; else each element converted from the page's format.

R118: the value of element j of a q4x block of codes with scale byte e. -/
def Obligations.GlobalLoads : Prop :=
  (∀ (s : State) (r : Run) (i : Instr) (o : Ops) (quad acq status : Bool) (pa scale : Nat → Nat) (e : Nat → BitVec 128),
     gLoadOf i = some (o, quad, acq, status) → Executing s r → FreshUid s r → Quiet s →
     r.legal i (fun t => decide (t ≤ 14)) (tyIs64 r.T) false false = true →
     let n := if quad = true then 16 / tyBytes r.T else 1
     (∀ L, On r L →
       let ea := gAddr r o.a o.b L
       let f := entFmt (e L)
       Cached s r .rd ea (fmtSpan r.T f n) (pa L) (e L) ∧
       (quad = true → ea.toNat % fmtSpan r.T f n = 0) ∧
       (acq = true → ea.toNat % tyBytes r.T = 0 ∧ (e L).getLsbD 8 = false) ∧
       (¬ Raw r.T f → f = 14 → n % 4 = 0 ∧ ea.toNat % 2 = 0 ∧
         ∀ g ia, aperFind r.path.aper ea.toNat = some (0, g, ia) →
           s.scaleByte (some r.gk) r.gang.part ia (e L) none = (.ok (some (scale L, [])), s)) ∧
       (Raw r.T f ∨ f ≠ 14 → scale L = 0)) →
     ∃ t, exec i s = .next t ∧
       Loads s t r o.w o.d.toNat (if quad = true then 4 else if tyIs64 r.T = true then 2 else 1) status
         (fun L => BitVec.ofNat 128 (decodeEls r.path.gm (entFmt (e L)) n (Memory.read s.mem (pa L) (fmtSpan r.T (entFmt (e L)) n)) (scale L)).1)
         (fun L => (decodeEls r.path.gm (entFmt (e L)) n (Memory.read s.mem (pa L) (fmtSpan r.T (entFmt (e L)) n)) (scale L)).2)) ∧
  (∀ (gm : BitVec 32) (f n raw scale : Nat), gmT gm ≤ 14 → f ≤ 14 → 0 < n → n * tyBytes (gmT gm) ≤ 16 →
     let t := gmT gm
     let v := decodeEls gm f n raw scale
     (Raw t f → v.2 = 0 ∧ (1 < n → BitVec.ofNat 128 v.1 = BitVec.ofNat 128 raw) ∧
       (n = 1 → t ≠ 4 → t ≠ 5 → v.1 = raw % 2 ^ (8 * tyBytes t)) ∧
       (n = 1 → t = 4 → v.1 = ((BitVec.ofNat 8 raw).signExtend 32).toNat) ∧
       (n = 1 → t = 5 → v.1 = ((BitVec.ofNat 16 raw).signExtend 32).toNat)) ∧
     (¬ Raw t f →
       let el := fun k => if f = 14 then convert (gmRnd gm) t (.flt (q4xVal (fun j => raw / 2 ^ (4 * j) % 16) scale k).1)
         else convert (gmRnd gm) t (convSrc f (gmRnd gm).ftz (raw / 2 ^ (tyBits f * k) % 2 ^ tyBits f))
       (1 < n → ∀ k, k < n → v.1 / 2 ^ (tyBits t * k) % 2 ^ tyBits t = (el k).1 % 2 ^ tyBits t) ∧
       (n = 1 → v.1 % 2 ^ tyBits t = (el 0).1 % 2 ^ tyBits t) ∧
       (f ≠ 14 → ∀ j, j < 7 → (v.2.getLsbD j = true ↔ ∃ k, k < n ∧ (el k).2.getLsbD j = true)))) ∧
  (∀ (code : Nat → Nat) (e j : Nat), (∀ i, code i < 16) → e < 256 →
     let sc : Int := (e : Int) - 127
     let v := q4xVal code e j
     (e = 255 → v = (.nan, false)) ∧
     (e ≠ 255 → code (j - j % 4) = 8 → j % 4 = 0 →
       v.2 = false ∧ v.1 = match fmtF8A.decode (code (j + 1) + 16 * code (j + 2)) with
         | .fin n m x => .fin n m (x + sc)
         | w => w) ∧
     (e ≠ 255 → code (j - j % 4) = 8 → j % 4 = 1 ∨ j % 4 = 2 → v = (.fin false 0 0, false)) ∧
     (e ≠ 255 → code j = 8 → j % 4 ≠ 0 → (code (j - j % 4) = 8 → j % 4 = 3) → v = (.fin false 0 0, true)) ∧
     (e ≠ 255 → code j ≠ 8 → (code (j - j % 4) = 8 → j % 4 = 3) →
       v = (.fin (decide (8 ≤ code j)) (if code j < 8 then code j else 16 - code j) sc, false)))

/-- R294, R295, R297, R298: stores to local memory through cached translations, with nothing outstanding: the lanes' bytes at
the physical addresses of their effective addresses, every other byte of memory as before; a status variant has p7 written true when its
load returns. -/
def Obligations.GlobalStores : Prop :=
  ∀ (s : State) (r : Run) (i : Instr) (d : BitVec 7) (a b : BitVec 8) (len align : Nat → Nat) (status : Bool)
    (pa : Nat → Nat) (e : Nat → BitVec 128),
    gStoreOf i = some (d, a, b, len, align, status) → Executing s r → FreshUid s r → Quiet s →
    r.legal i (fun t => decide (t ≤ 14)) (tyIs64 r.T) false false = true → (i = .stgr d a b → r.path.fails = []) →
    (∀ L, On r L → Cached s r .wr (gAddr r a b L) (len r.T) (pa L) (e L) ∧ (e L).getLsbD 8 = false ∧
      (gAddr r a b L).toNat % align r.T = 0) →
    ∃ t q, exec i s = .next t ∧ Switched s r q (r.path.pc + 4) ∧
      Stores s.mem t.mem r pa (len r.T) (storeByte r d.toNat) ∧
      t = { s with mem := t.mem, paths := t.paths, uid := t.uid } ∧
      (∀ k, k ≠ r.key → FMap.get? t.paths k = FMap.get? s.paths k) ∧
      (status = false ∨ r.active = 0 → FMap.get? t.paths r.key = some q) ∧
      (status = true → r.active ≠ 0 → s.mgmt.needsReset = false → ∃ u g, exec (.loadReturn r.key s.uid) t = .next u ∧
        FMap.get? u.paths r.key = some q ∧ u.mem = t.mem ∧ FMap.get? u.groups r.gk = some g ∧
        g = { r.group with p := g.p, aflags := g.aflags } ∧ g.aflags = r.group.aflags ∧
        ∀ n L, L < 32 → (g.pred n).getLsbD L =
          if n = 7 ∧ r.active.getLsbD L = true then true else (r.group.pred n).getLsbD L)

/-- R299, R300, R297: atomics on local memory through cached translations, and REDG: lanes in ascending order; ATG.* and ATGS.*
return the old values, ATGS.* also p7. -/
def Obligations.GlobalAtomics : Prop :=
  ∀ (s : State) (r : Run) (pa : Nat → Nat) (e : Nat → BitVec 128), Executing s r → FreshUid s r → Quiet s →
    (∀ (i : Instr) (o : Ops) (op : AOp) (status : Bool), gAtomicOf i = some (o, op, status) →
      r.legal i op.acc (tyIs64 r.T) false false = true →
      (op = .cas → o.d.toNat % (if tyIs64 r.T = true then 4 else 2) = 0) →
      (∀ L, On r L → Cached s r .rmw (gAddr r o.a o.b L) (tyBytes r.T) (pa L) (e L) ∧ (e L).getLsbD 8 = false ∧
        (gAddr r o.a o.b L).toNat % 4 = 0) →
      let x := rmwAll op r.T (tyBytes r.T) pa (atomicV r o.d.toNat) (atomicNew r o.d.toNat) (lanesOf r.active) s.mem
      ∃ t, exec i s = .next t ∧ t = { s with mem := t.mem, groups := t.groups, paths := t.paths, uid := t.uid } ∧
        (∀ c, CMap.get t.mem c = CMap.get x.2 c) ∧
        Loads { s with mem := t.mem } t r o.w o.d.toNat (if tyIs64 r.T = true then 2 else 1) status
          (fun L => BitVec.ofNat 128 (x.1 L)) (fun _ => 0)) ∧
    (∀ (d : BitVec 7) (a b : BitVec 8), r.legal (.redg d a b) accAtomic (tyIs64 r.T) false false = true →
      (∀ L, On r L → Cached s r .wr (gAddr r a b L) (tyBytes r.T) (pa L) (e L) ∧ (e L).getLsbD 8 = false ∧
        (gAddr r a b L).toNat % 4 = 0) →
      let x := rmwAll .add r.T (tyBytes r.T) pa (atomicV r d.toNat) (fun _ => 0) (lanesOf r.active) s.mem
      ∃ t q, exec (.redg d a b) s = .next t ∧ Switched s r q (r.path.pc + 4) ∧
        t = { s.putPath r.key q with mem := t.mem } ∧ ∀ c, CMap.get t.mem c = CMap.get x.2 c)

/-- R301, R302, R191: GATH and the expand form of LDGE load, SCAT and STGC store, one unit an ACTIVE lane from PIX on; when every
unit is done PIX is 0 and the path past a switch point. Here no unit was done before, pages need no conversion, and the
translations are cached. -/
def Obligations.LongInstructions : Prop :=
  ∀ (s : State) (r : Run) (w : BitVec 1) (d : BitVec 7) (a b : BitVec 8) (pa : Nat → Nat) (e : Nat → BitVec 128),
    Executing s r → Quiet s → r.path.pix = 0 →
    let n := tyBytes r.T
    let low := lowLane r.active
    let rank := fun L => ((lanesOf r.active).filter fun Q => decide (Q < L)).length
    let next := fun L => gAddr r a b low + BitVec.ofNat 64 (rank L * n)
    let done := fun t g => ∃ q, Switched s r { q with pix := r.path.pix, xbase := r.path.xbase } (r.path.pc + 4) ∧ q.pix = 0 ∧
      q.xbase = none ∧
      t = { s with groups := t.groups, paths := t.paths, mem := t.mem } ∧ FMap.get? t.groups r.gk = some g ∧
      (∀ k, k ≠ r.gk → FMap.get? t.groups k = FMap.get? s.groups k) ∧
      (∀ k, FMap.get? t.paths k = if k = r.key then some q else FMap.get? s.paths k)
    let loaded := fun (t : State) => ∃ g, done t g ∧ (∀ c, CMap.get t.mem c = CMap.get s.mem c) ∧
      g = { r.group with v := g.v, aflags := g.aflags } ∧ g.aflags = r.group.aflags ∧
      (∀ v L, L < 32 → (¬ (On r L ∧ w = 0 ∧ d.toNat ≤ v ∧ v < d.toNat + (if tyIs64 r.T = true then 2 else 1)) →
        g.vreg v L = r.group.vreg v L)) ∧
      (w = 0 → ∀ L j c, On r L → j < (if tyIs64 r.T = true then 2 else 1) → c < 32 →
        (g.vreg (d.toNat + j) L).getLsbD c = loadBit s.mem (pa L) n r.T j c)
    let stored := fun (t : State) => done t r.group ∧ Stores s.mem t.mem r pa n (storeByte r d.toNat)
    let raw := fun L => Raw r.T (entFmt (e L))
    (r.legal (.gath w d a b) (fun t => decide (t ≤ 14)) (tyIs64 r.T) false false = true →
      (∀ L, On r L → Cached s r .rd (gAddr r a b L) n (pa L) (e L) ∧ raw L) →
      ∃ t, exec (.gath w d a b) s = .next t ∧ loaded t) ∧
    (r.legal (.ldge w d a b) (fun t => decide (t ≤ 14)) (tyIs64 r.T) false false = true → r.active ≠ 0 →
      (∀ L, On r L → Cached s r .rd (next L) n (pa L) (e L) ∧ raw L) →
      ∃ t, exec (.ldge w d a b) s = .next t ∧ loaded t) ∧
    (r.legal (.scat d a b) (fun t => decide (t ≤ 14)) (tyIs64 r.T) false false = true →
      (∀ L, On r L → Cached s r .wr (gAddr r a b L) n (pa L) (e L) ∧ (e L).getLsbD 8 = false) →
      ∃ t, exec (.scat d a b) s = .next t ∧ stored t) ∧
    (r.legal (.stgc d a b) (fun t => decide (t ≤ 14)) (tyIs64 r.T) false false = true →
      (∀ L, On r L → Cached s r .wr (next L) n (pa L) (e L) ∧ (e L).getLsbD 8 = false) →
      ∃ t, exec (.stgc d a b) s = .next t ∧ stored t)

/-- R111, R188: a plain store of one ACTIVE lane, inside one 64-byte block, to a page that is not present and is not SO, is
logged: the path goes on, the bytes stand in a side-log entry of its core, and a deferred NOTPRESENT is queued for its gang.

R303, R38, R304: FENCE completes when no awaited request and, for release and full, no logged store of the group is left, and
raises REMOTE for posted failures when it names FABRIC (LANE and HLANES then are those of the mask: log 58; the one fence clears every failure before
it, log 69); else it waits, one that names FABRIC for the path's unanswered writes, and FENCE_COMPLETE ends the wait likewise. PFG only
advances the path.

R336, R338: ICINV completes at once when the path has no earlier write outstanding; PAUSE waits for its count of the core's
cycles, and ends at its expiry, where its gang may run. -/
def Obligations.FencesAndFetch : Prop :=
  (∀ (s : State) (r : Run) (d : BitVec 7) (a b : BitVec 8) (L ia : Nat) (e : Option (BitVec 128)), Executing s r →
     r.legal (.stg d a b) (fun t => decide (t ≤ 14)) (tyIs64 r.T) false false = true → r.active = 1#32 <<< L → L < 32 →
     let n := tyBytes r.T
     let ea := gAddr r a b L
     s.pieces r.path.aper r.gang.part .wr 3 ea.toNat n = ([.bad cNOTPRESENT ia n false e], s) →
     (∀ x, e = some x → x.extractLsb' 4 2 ≠ 0) → ia % 64 + n ≤ 64 → Quiet s → r.gang.dq = [] → (s.rctx r).hentry ≠ 0 →
     ∃ t q l, exec (.stg d a b) s = .next t ∧ Switched s r q (r.path.pc + 4) ∧ FMap.get? t.paths r.key = some q ∧
       MemSame s t ∧ t.sidelog = [l] ∧ l.core = r.wg.core ∧ l.group = r.gk ∧ l.path = r.key ∧ l.ia = ia / 64 * 64 ∧ l.red = false ∧
       (∀ j, j < n → CMap.get l.bytes (ia + j) = 0x100#9 ||| (storeByte r d.toNat L j).setWidth 9) ∧
       FMap.get? t.gangs r.gid = some { r.gang with dq := [⟨cNOTPRESENT, ea, some (r.key, r.path.born)⟩] }) ∧
  (∀ (s : State) (r : Run), Executing s r → r.T ≤ 14 →
     (∀ (k : BitVec 2) (m : BitVec 8) (sc : BitVec 4), r.legal (.fence k m sc) (fun t => decide (t ≤ 14)) false false false = true →
       (Quiet s → k = 0 ∨ m.getLsbD 7 = false ∨ r.path.fails = [] →
         ∃ q, exec (.fence k m sc) s = .next (s.putPath r.key q) ∧ Switched s r q (r.path.pc + 4)) ∧
       (Quiet s → k ≠ 0 → m.getLsbD 7 = true → (∀ f ∈ r.path.fails, f.posted = false) →
         ∃ q, exec (.fence k m sc) s = .next (s.putPath r.key q) ∧ Switched s r { q with fails := r.path.fails } (r.path.pc + 4) ∧
           q.fails = []) ∧
       (k ≠ 0 → (∃ l ∈ s.sidelog, l.group = r.gk) →
         ∃ ids, exec (.fence k m sc) s = .next (s.putPath r.key { r.path with wait := .fence k m ids })) ∧
       (∀ q, k ≠ 0 → m.getLsbD 7 = true → q ∈ s.reqs → q.kind = 1 → q.isOf r.key = true →
         ∃ ids, q.id ∈ ids ∧ exec (.fence k m sc) s = .next (s.putPath r.key { r.path with wait := .fence k m ids })) ∧
       (∀ f, Quiet s → k ≠ 0 → m.getLsbD 7 = true → r.path.fails = [f] → f.posted = true →
         exec (.fence k m sc) s = .next (s.raise { r with path := { r.path with
           fails := [], lstat := BitVec.ofNat 32 f.code.toNat, wait := .ready } } cREMOTE (lowLane r.path.mask) f.va r.path.mask))) ∧
     (∀ k m ids, r.path.wait = .fence k m ids → Quiet s → k = 0 ∨ m.getLsbD 7 = false ∨ r.path.fails = [] →
       ∃ q, exec (.fenceComplete r.key) s = .next (s.putPath r.key q) ∧ Switched s r q (r.path.pc + 4)) ∧
     (∀ a b : BitVec 8, a.toNat < 0xA0 → a.toNat % 2 = 0 →
       ∃ q, exec (.pfg a b) s = .next (s.putPath r.key q) ∧ Switched s r q (r.path.pc + 4))) ∧
  (∀ (s : State) (r : Run), Executing s r → r.T ≤ 14 →
     (Quiet s → ∃ q, exec .icinv s = .next (s.putPath r.key q) ∧
       Switched s r q (r.path.pc + 4)) ∧
     (∀ a : BitVec 8, a.toNat ≤ 0xA9 → r.deadOf (.pause a) false false = 0 →
       let c := ((r.src32 a (lowLane r.path.mask)).extractLsb' 0 16).toNat
       (c = 0 → ∃ q, exec (.pause a) s = .next (s.putPath r.key q) ∧ Switched s r q (r.path.pc + 4)) ∧
       (c ≠ 0 → exec (.pause a) s =
         .next (s.putPath r.key { r.path with wait := .pause ((s.core r.wg.core).cycles + c) }))) ∧
     (∀ n, r.path.wait = .pause n →
       (n ≤ (s.core r.wg.core).cycles → s.mayRun r.gid r.gang = true → ∃ q, exec (.pauseExpiry r.key) s = .next (s.putPath r.key q) ∧
         Switched s r q (r.path.pc + 4)) ∧
       (s.mayRun r.gid r.gang = false → exec (.pauseExpiry r.key) s = .next s) ∧
       ((s.core r.wg.core).cycles < n → exec (.pauseExpiry r.key) s = .next s)))

/-- R310, R312, R168, R169: BINIT, BARV, BEXP and BINV: the lanes' updates of barrier words in ascending order, each
on what the lanes before it left; BARV and BEXP write p7, false in a lane whose word is untagged, with LSTAT 0x24 for the lowest
such lane. No other byte of an on-chip space or of memory, no other tag and no other register changes. BINIT of a tagged word faults
BARRIER_STORE and updates nothing.

R91, R305, R310, R311: a barrier operand of any of the six that is not a multiple of 8 faults MISALIGN, one outside its space's
allocation SCRATCH_BOUND, in the order of R184, and nothing is updated.

R311: BTEST writes its predicate where the word is tagged and has reached the target; BWAIT goes on when every ACTIVE lane's word has
reached its target or is untagged, with p7 true in the first lanes and false, LSTAT 0x24, in the others; else it waits, each lane for its
target, a lane whose word is untagged for none. A path that waits so goes on, in the same way, at an update that ends its wait. -/
def Obligations.Barriers : Prop :=
  (∀ (s : State) (r : Run) (i : Instr) (a off : BitVec 8) (f : Nat → BitVec 64 × Bool → BitVec 64 × Bool) (report : Bool),
     barrierOf r i = some (a, off, f, report) → Executing s r → Fit r i → BarsInBounds s r a off →
     (NoWaiters s → AllPerformed s r → NoAtomics s r →
       (∀ b, i = .binit a b → ∀ L, On r L → ¬ Live s (barLoc r a off L)) →
       ∃ t g q, exec i s = .next t ∧ SameButChip s t ∧ OnlyHere s t r g q ∧
         (∀ k, t.slocMem (.slice k) = s.slocMem (.slice k)) ∧
         (∀ k o, o % 8 = 0 → (t.barWord k o, t.barTag k o) =
           barAll f (barLoc r a off) (lanesOf r.active) (fun k o => (s.barWord k o, s.barTag k o)) k o) ∧
         g = { r.group with p := g.p } ∧
         (∀ n L, L < 32 → (g.pred n).getLsbD L = if report = true ∧ n = 7 ∧ r.active.getLsbD L = true
           then s.barTag (barLoc r a off L).1 (barLoc r a off L).2 else (r.group.pred n).getLsbD L) ∧
         Switched s r { q with lstat := r.path.lstat } (r.path.pc + 4) ∧
         ((report = false ∨ ∀ L, On r L → Live s (barLoc r a off L)) → q.lstat = r.path.lstat) ∧
         (∀ L, report = true → On r L → ¬ Live s (barLoc r a off L) → (∀ Q, Q < L → On r Q → Live s (barLoc r a off Q)) →
           q.lstat = BitVec.ofNat 32 (0x24 + 256 * L))) ∧
     (∀ b L, i = .binit a b → On r L → Live s (barLoc r a off L) → (∀ Q, Q < L → On r Q → ¬ Live s (barLoc r a off Q)) →
       ∃ m, exec i s = .next (s.raise r cBARRIER L (BitVec.ofInt 64 (barAt (r.src32 a L) 0).2) m) ∧
         ∀ Q, Q < 32 → (m.getLsbD Q = true ↔ On r Q ∧ Live s (barLoc r a off Q)))) ∧
  (∀ (s : State) (r : Run) (i : Instr) (a off : BitVec 8), barOperand i = some (a, off) → Executing s r → Fit r i →
     let o := fun L => (barAt (r.src32 a L) off).2
     let odd := fun L => o L % 8 ≠ 0
     let out := fun L => o L < 0 ∨ s.spLimit r (barAt (r.src32 a L) off).1 < o L + 8
     (∃ L, On r L ∧ (odd L ∨ out L)) →
     ∃ L c m, exec i s = .next (s.raise r c L (BitVec.ofInt 64 (o L)) m) ∧ On r L ∧
       (∀ Q, Q < 32 → (m.getLsbD Q = true ↔ On r Q ∧ (odd Q ∨ out Q ∨ ((∃ b, i = .binit a b) ∧ Live s (barLoc r a off Q))))) ∧
       (c = cMISALIGN ∧ odd L ∧ (∀ Q, Q < L → On r Q → ¬ odd Q) ∨
        c = cSCRATCH ∧ out L ∧ (∀ Q, On r Q → ¬ odd Q) ∧ ∀ Q, Q < L → On r Q → ¬ out Q)) ∧
  (∀ (s : State) (r : Run) (a b : BitVec 8), Executing s r → BarsInBounds s r a 0 →
     let x := barLoc r a 0
     let t7 := fun L => (r.src32 b L).extractLsb' 0 7
     (∀ d : BitVec 3, Fit r (.btest d a b) →
       ∃ t g q, exec (.btest d a b) s = .next t ∧ OnlyPathGroup s t r g q ∧ Switched s r q (r.path.pc + 4) ∧ g = { r.group with p := g.p } ∧
         ∀ n L, L < 32 → ((g.pred n).getLsbD L = true ↔
           if n = d.toNat ∧ n ≠ 0 ∧ r.active.getLsbD L = true then Live s (x L) ∧ Reached s (x L) (t7 L)
           else (r.group.pred n).getLsbD L = true)) ∧
     (Fit r (.bwait a b) → r.active = 0 →
       ∃ q, exec (.bwait a b) s = .next (s.putPath r.key q) ∧ Switched s r q (r.path.pc + 4)) ∧
     (Fit r (.bwait a b) → r.active ≠ 0 → (∀ L, On r L → Live s (x L) → Reached s (x L) (t7 L)) →
       ∃ t g q, exec (.bwait a b) s = .next t ∧ OnlyPathGroup s t r g q ∧ Switched s r { q with lstat := r.path.lstat } (r.path.pc + 4) ∧
         g = { r.group with p := g.p } ∧
         (∀ n L, L < 32 → (g.pred n).getLsbD L = if n = 7 ∧ r.active.getLsbD L = true
           then s.barTag (x L).1 (x L).2 else (r.group.pred n).getLsbD L) ∧
         ((∀ L, On r L → Live s (x L)) → q.lstat = r.path.lstat) ∧
         (∀ L, On r L → ¬ Live s (x L) → (∀ Q, Q < L → On r Q → Live s (x Q)) → q.lstat = BitVec.ofNat 32 (0x24 + 256 * L))) ∧
     (Fit r (.bwait a b) → (∃ L, On r L ∧ Live s (x L) ∧ ¬ Reached s (x L) (t7 L)) →
       ∃ t w, exec (.bwait a b) s = .next t ∧ OnlyPathGroup s t r r.group { r.path with wait := .bwait w } ∧
         w = (lanesOf r.active).map fun L => (L, r.src32 a L, if s.barTag (x L).1 (x L).2 = true then (t7 L).toNat else 128)) ∧
     (∀ i k r2 L c (tgt : Nat), i = .binv a b ∨ i = .barv a b → Fit r i → BarsInBounds s r a b → AllPerformed s r → NoAtomics s r →
       s.runAt k = some r2 → r2.gk ≠ r.gk → L < 32 → tgt < 128 → r2.path.wait = .bwait [(L, c, tgt)] →
       ∃ t g q, exec i s = .next t ∧ FMap.get? t.groups r2.gk = some g ∧ FMap.get? t.paths k = some q ∧
         let y := (r2.sloc (barAt c 0).1, (barAt c 0).2.toNat)
         (Live t y → ¬ Reached t y (BitVec.ofNat 7 tgt) → q = r2.path) ∧
         (Live t y → Reached t y (BitVec.ofNat 7 tgt) → q.wait = .ready ∧ q.pc = r2.path.pc + 4 ∧ q.live = [] ∧ (g.pred 7).getLsbD L = true) ∧
         (¬ Live t y → q.wait = .ready ∧ q.pc = r2.path.pc + 4 ∧ q.live = [] ∧ (g.pred 7).getLsbD L = false ∧
           q.lstat = BitVec.ofNat 32 (0x24 + 256 * L))))

/-- R308, R164, R309: CSTEP adds to the gang's stage counter, saturating, and starts a copy for every release whose value the
counter passes, in ascending value, then entry, then k; with logged stores of the group it is held; CSTAT reads COPY STATUS and
the counter, also with ACTIVE empty.

R164, R165, R166, R112: a copy within cluster memory copies its bytes (all are read before any is written, also where source and destination
overlap: log 44, the model's choice), adds 1 to its event counter and is gone, when it is first
tried and, where it was held, at a retry; a logged store whose page is there again is performed byte by byte. -/
def Obligations.Copies : Prop :=
  (∀ (s : State) (r : Run), Executing s r →
     (∀ a : BitVec 8, Fit r (.cstep a) →
       (r.active = 0 → ∃ q, exec (.cstep a) s = .next (s.putPath r.key q) ∧ Switched s r q (r.path.pc + 4)) ∧
       (r.active ≠ 0 → (∃ l ∈ s.sidelog, l.group = r.gk) →
         exec (.cstep a) s = .next (s.putPath r.key { r.path with wait := .retry })) ∧
       (r.active ≠ 0 → AllPerformed s r → NoAtomics s r →
         let old := r.gang.stageCtr.toNat
         let new := min (old + (uniOf r a).toNat) (2 ^ 32 - 1)
         ∃ t q more, exec (.cstep a) s = .next t ∧ Switched s r q (r.path.pc + 4) ∧
           t = { s with gangs := t.gangs, paths := t.paths, uid := t.uid } ∧ OnlyHere s t r r.group q ∧
           (∀ k, FMap.get? t.gangs k = if k = r.gid then
               some { r.gang with stageCtr := BitVec.ofNat 32 new, insts := r.gang.insts ++ more } else FMap.get? s.gangs k) ∧
           (∀ i k, (∃ x ∈ more, x.entry = i ∧ x.k = k) ↔
             ∃ e, r.gang.sched[i]? = some e ∧ k < e.reps ∧ old < releaseAt e k ∧ releaseAt e k ≤ new) ∧
           more.Pairwise fun x y => ∀ e f, r.gang.sched[x.entry]? = some e → r.gang.sched[y.entry]? = some f →
             releaseAt e x.k < releaseAt f y.k ∨
               (releaseAt e x.k = releaseAt f y.k ∧ (x.entry < y.entry ∨ (x.entry = y.entry ∧ x.k < y.k))))) ∧
     (∀ (w : BitVec 1) (d : BitVec 7), Fit r (.cstat w d) →
       ∃ g q, exec (.cstat w d) s = .next ((s.putGroup r.gk g).putPath r.key q) ∧ Switched s r q (r.path.pc + 4) ∧
         g = { r.group with s := g.s } ∧
         ∀ n, g.sreg n = if w = 0 ∧ n = d.toNat then r.gang.cstat
           else if w = 0 ∧ n = d.toNat + 1 then r.gang.stageCtr else r.group.sreg n)) ∧
  (∀ (s : State),
     (∀ (n gid : Nat) (g : Gang) (i : Inst) (e : CopyEntry) (j : Instr), FMap.get? s.gangs gid = some g → g.status = 0 → StaysPlaced s gid →
       s.mgmt.needsReset = false →
       NoWaiters s → ((j = .courierInstanceDone gid n ∧ i.held = false ∧ g.insts[n]? = some i ∧ ∀ y ∈ g.insts, y.id = i.id → y = i) ∨
         (j = .courierRetry gid ∧ g.insts = [i] ∧ i.held = true)) → NotBegun i → g.sched[i.entry]? = some e →
       e.srcsp = 2 → e.dstsp = 2 → e.decode = false → e.y = 1 → e.z = 1 → e.tgt = 3 → g.ctags = [] →
       let src := (e.src.toNat : Int) + i.k * e.srcadv
       let dst := (e.dst.toNat : Int) + i.k * e.dstadv
       0 ≤ src → 0 ≤ dst → src + e.x ≤ 4096 * g.clunits → dst + e.x ≤ 4096 * g.clunits →
       ∃ t g', exec j s = .next t ∧ FMap.get? t.gangs gid = some g' ∧ g'.insts = g.insts.filter (fun y => y.id != i.id) ∧
         (∀ k, CMap.get g'.evc k = if k = e.event then CMap.get g.evc k + 1 else CMap.get g.evc k) ∧
         (∀ a, CMap.get g'.cmem a = if dst.toNat ≤ a ∧ a < dst.toNat + e.x then CMap.get g.cmem (src.toNat + (a - dst.toNat)) else CMap.get g.cmem a) ∧
         t.groups = s.groups ∧ MemSame s t) ∧
     (∀ core l u1 pa e b, s.mgmt.needsReset = false → s.sidelog = [l] → l.core = core → l.red = false → (∀ x ∈ s.gangs, x.2.insts = []) →
       (∃ g, FMap.get? s.gangs (l.group / 128) = some g ∧ g.status ≠ 5) →
       CMap.ok l.bytes = true → (∀ x ∈ l.bytes, l.ia ≤ x.1 ∧ x.1 < l.ia + 64) →
       { s with sidelog := [] }.walkFresh l.part l.ia .wr false false = (.ok pa e b, u1) → e.getLsbD 8 = false → u1.gangs = s.gangs →
       ∃ u : State, exec (.sideLogRetry core) s = .next (u.reapGang (l.group / 128)) ∧ u = { u1 with mem := u.mem } ∧
         (∀ j, j < 64 → CMap.get u.mem (pa + j) =
           if CMap.get l.bytes (l.ia + j) = 0 then CMap.get u1.mem (pa + j) else (CMap.get l.bytes (l.ia + j)).setWidth 8) ∧
         ∀ a, a < pa ∨ pa + 64 ≤ a → CMap.get u.mem a = CMap.get u1.mem a))

/-- R315, R93: SPPIN pins resident pages or, refused, pins none and reports 0x20; SPREL lowers the counts above zero; a range outside
the allocation faults SCRATCH_BOUND; a length of 0 does nothing.

R313, R101: a RROT whose partners have not all arrived waits. When the last arrives, each member's tile goes to the next
member, and every member goes on past the instruction with PIX 0; no other byte of a scratchpad changes. -/
def Obligations.PinsAndRingRotation : Prop :=
  (∀ (s : State) (r : Run) (i : Instr) (a b : BitVec 8), i = .sppin a b ∨ i = .sprel a b → Executing s r → Fit r i →
     let o := (uniOf r a).toNat
     let n := (uniOf r b).toNat
     let low := lowLane r.active
     (r.active = 0 ∨ n = 0 → ∃ q, exec i s = .next (s.putPath r.key q) ∧ Switched s r q (r.path.pc + 4)) ∧
     (r.active ≠ 0 → n ≠ 0 → 1024 * r.wg.spages < o + n →
       exec i s = .next (s.raise r cSCRATCH low ((uniOf r a).setWidth 64) (1#32 <<< low))) ∧
     (r.active ≠ 0 → n ≠ 0 → o + n ≤ 1024 * r.wg.spages → (∀ p, InPages o n p → CMap.get r.wg.pages p = 1) →
       (i = .sprel a b → ∃ w q, exec i s = .next ((s.putWg r.wk w).putPath r.key q) ∧ Switched s r q (r.path.pc + 4) ∧
         w = { r.wg with pins := w.pins } ∧ ∀ p, CMap.get w.pins p =
           if InPages o n p ∧ CMap.get r.wg.pins p ≠ 0 then CMap.get r.wg.pins p - 1 else CMap.get r.wg.pins p) ∧
       (i = .sppin a b → ∃ t w g q, exec i s = .next t ∧
         t = { s with wgs := t.wgs, groups := t.groups, paths := t.paths, cores := t.cores } ∧ OnlyHere s t r g q ∧
         (∀ k, FMap.get? t.wgs k = if k = r.wk then some w else FMap.get? s.wgs k) ∧ w = { r.wg with pins := w.pins } ∧
         g = { r.group with p := g.p } ∧ Switched s r { q with lstat := r.path.lstat } (r.path.pc + 4) ∧
         (PinRefused s r o n → w = r.wg ∧ q.lstat = BitVec.ofNat 32 (0x20 + 256 * low) ∧
           ∀ m L, L < 32 → (g.pred m).getLsbD L =
             if m = 7 ∧ r.active.getLsbD L = true then false else (r.group.pred m).getLsbD L) ∧
         (¬ PinRefused s r o n → q.lstat = r.path.lstat ∧
           (∀ p, CMap.get w.pins p = if InPages o n p then CMap.get r.wg.pins p + 1 else CMap.get r.wg.pins p) ∧
           ∀ m L, L < 32 → (g.pred m).getLsbD L =
             if m = 7 ∧ r.active.getLsbD L = true then true else (r.group.pred m).getLsbD L)))) ∧
  (∀ (s : State) (r : Run) (a b : BitVec 8), Executing s r → Fit r (.rrot a b) → s.pathsOf r.gk = [(r.key, r.path)] →
     let W := r.gang.nwg
     let me := r.wk % 8
     let gk := fun i => 16 * (8 * r.gid + i) + r.gk % 16
     let src := fun (x : Run) (a : BitVec 8) => (x.group.sreg (a.toNat - 0x80)).toNat
     let dst := fun (x : Run) (a : BitVec 8) => (x.group.sreg (a.toNat - 0x7F)).toNat
     let len := fun (x : Run) (b : BitVec 8) => (x.src32 b (lowLane (if x.active = 0 then x.path.mask else x.active))).toNat
     src r a % 64 = 0 → dst r a % 64 = 0 → len r b % 64 = 0 → me < W → W ≤ 8 →
     (∀ i, i < W → i ≠ me → (∃ k p, s.pathsOf (gk i) = [(k, p)] ∧ p.wait = .ready) →
       (∀ j, j < W → s.pathsOf (gk j) ≠ []) →
       exec (.rrot a b) s = .next (s.putPath r.key { r.path with wait := .coll (.rrot a b) })) ∧
     (∀ (R : Nat → Run) (A B : Nat → BitVec 8), R me = r → A me = a → B me = b →
       (∀ i, i < W → s.runAt (R i).key = some (R i) ∧ (R i).gk = gk i ∧ s.pathsOf (gk i) = [((R i).key, (R i).path)] ∧
         (i ≠ me → (R i).path.wait = .coll (.rrot (A i) (B i))) ∧ (R i).path.pix = 0 ∧
         src (R i) (A i) % 64 = 0 ∧ dst (R i) (A i) % 64 = 0 ∧ len (R i) (B i) = len r b) →
       (∀ i, i < W → let w := (R i).wg
         let p := R ((i + W - 1) % W)
         src (R i) (A i) + len r b ≤ 1024 * w.spages ∧ dst p (A ((i + W - 1) % W)) + len r b ≤ 1024 * w.spages ∧
         (∀ o, o < 1024 * w.spages → CMap.get w.pages (o / 1024) = 1) ∧ w.tags = [] ∧ w.rot = [] ∧ NoAtomics s (R i) ∧
         (dst p (A ((i + W - 1) % W)) = src (R i) (A i) ∨ dst p (A ((i + W - 1) % W)) + len r b ≤ src (R i) (A i) ∨
           src (R i) (A i) + len r b ≤ dst p (A ((i + W - 1) % W)))) →
       ∃ t, exec (.rrot a b) s = .next t ∧ SameButChip s t ∧ MemSame s t ∧
         (∀ l, (∀ i, i < W → l ≠ .scratch (8 * r.gid + i)) → t.slocMem l = s.slocMem l) ∧ (∀ l, t.slocTags l = s.slocTags l) ∧
         (∀ i, i < W → let p := R ((i + W - 1) % W)
           let A' := A ((i + W - 1) % W)
           ∀ x, CMap.get (t.slocMem (.scratch (8 * r.gid + i))) x =
             if dst p A' ≤ x ∧ x < dst p A' + len r b then
               CMap.get (s.slocMem (.scratch (8 * r.gid + (i + W - 1) % W))) (src p A' + (x - dst p A'))
             else CMap.get (s.slocMem (.scratch (8 * r.gid + i))) x) ∧
         ∀ i, i < W → ∃ q, FMap.get? t.paths (R i).key = some q ∧ Switched s (R i) { q with pix := 0 } ((R i).path.pc + 4) ∧ q.pix = 0))

/-- R325, R138: LMMA of a group whose lanes are all on one path: every element of D in a lane not exited, lanes outside ACTIVE
contributing zeros; AFLAGS keeps its bits and takes the flags of the roundings in the ACTIVE lanes; the path goes on past the instruction. A type, N or M
that R325 does not allow is ILLEGAL. -/
def Obligations.MatrixMultiply : Prop :=
  ∀ (s : State) (r : Run) (d : BitVec 7) (a b : BitVec 8), Executing s r →
    let N := gmN r.path.gm
    let allowed := (r.T = 8 ∨ r.T = 9 ∨ r.T = 12 ∨ r.T = 13) ∧ 1 ≤ N ∧ N ≤ 4 ∧ gmM r.path.gm = 0
    (¬ allowed → exec (.lmma d a b) s = .next (s.illegal r)) ∧
    (allowed → d.toNat % 8 = 0 → a.toNat % 8 = 0 → b.toNat % 8 = 0 → a.toNat < 128 → b.toNat + 8 * N ≤ 128 →
      d.toNat + 8 * N ≤ 128 → (a.toNat + 8 ≤ d.toNat ∨ d.toNat + 8 * N ≤ a.toNat) →
      (b.toNat + 8 * N ≤ d.toNat ∨ d.toNat + 8 * N ≤ b.toNat) → s.pathsOf r.gk = [(r.key, r.path)] → r.path.pix = 0 →
      (r.path.loads.map (·.id)).Nodup →
      let units := (if r.T = 8 ∨ r.T = 9 then 32 else 64) / 16
      let acc := fun e => lmmaAcc r d.toNat a.toNat b.toNat e units
      ∃ t g q, exec (.lmma d a b) s = .next t ∧ FMap.get? t.groups r.gk = some g ∧ g = { r.group with v := g.v, aflags := g.aflags } ∧
        (∀ k, k ≠ r.gk → FMap.get? t.groups k = FMap.get? s.groups k) ∧ MemSame s t ∧
        (∀ n L, L < 32 → g.vreg n L =
          if d.toNat ≤ n ∧ n < d.toNat + 8 * N ∧ r.path.mask.getLsbD L = true then BitVec.ofNat 32 (acc (32 * (n - d.toNat) + L)).1
          else r.group.vreg n L) ∧
        (∀ i, i < 32 → g.aflags.getLsbD i =
          (r.group.aflags.getLsbD i || (List.range (256 * N)).any fun e => r.active.getLsbD (e % 32) && (acc e).2.getLsbD i)) ∧
        FMap.get? t.paths (if r.key % 32 < 4 then r.key else 32 * r.gk) = some q ∧ Switched s r q (r.path.pc + 4))

/-- R155, R316, R317: SPAWN and COMP: to a pigeonhole that is disabled, HOSTFED, not of the partition or of another context PERMISSION
in every ACTIVE lane; without room the path waits; else TAIL advances once, a slot that waits is to be tried again (log 51), the images stand in
the slots in lane order, in host or in device memory, COMP writes the slot's address, and the path is held until the dockets are accepted.

R153, R318: TDEP and TSIG change the DEP words of the lanes' dockets, lanes ascending; where no accepted docket has one of
these addresses nothing else changes. A PENDING docket without a subscription whose DEP reaches 0 becomes READY. -/
def Obligations.DocketCommands : Prop :=
  (∀ (s : State) (r : Run) (w : BitVec 1) (d : BitVec 7) (a b : BitVec 8) (pa : Nat → Nat) (e : Nat → BitVec 128), Executing s r →
     Quiet s → s.hostErr = false → r.active ≠ 0 →
     let held := fun (t : State) (g : Group) (h : Nat) (n : Nat) (host : Bool) (at_ : Nat → Nat) => OnlyHere s t r g
         { r.path with wait := .spawned h ((s.hole h).tail + BitVec.ofNat 32 n).toNat } ∧
       t = { s with mem := t.mem, hostMem := t.hostMem, holes := t.holes, groups := t.groups, paths := t.paths } ∧
       memOf t (!host) = memOf s (!host) ∧
       (∃ o, ∀ k, FMap.get? t.holes k = if k = h then
         some { s.hole h with tail := (s.hole h).tail + BitVec.ofNat 32 n, again := (s.hole h).waits, origin := o } else FMap.get? s.holes k) ∧
       ∀ x, (∀ i, i < n → x < at_ i ∨ at_ i + 64 ≤ x) → CMap.get (memOf t host) x = CMap.get (memOf s host) x
     (Fit r (.spawn a b) → (∀ L, On r L → AtPage s r .rd (pairOf r a L) (pa L) (e L)) →
       let h := (uniOf r b).toNat
       let n := (lanesOf r.active).length
       (Refused s r h → exec (.spawn a b) s = .next (s.raise r cPERMISSION (lowLane r.active) (BitVec.ofNat 64 h) r.active)) ∧
       (¬ Refused s r h → 2 ^ (s.hole h).log < ((s.hole h).tail - (s.hole h).head).toNat + n →
         exec (.spawn a b) s = .next (s.putPath r.key { r.path with wait := .retry })) ∧
       (∀ host at_, ¬ Refused s r h → ((s.hole h).tail - (s.hole h).head).toNat + n ≤ 2 ^ (s.hole h).log →
         Slots s r (s.hole h) n host at_ →
         ∃ t, exec (.spawn a b) s = .next t ∧ held t r.group h n host at_ ∧
           ∀ i L j, (lanesOf r.active)[i]? = some L → j < 64 → CMap.get (memOf t host) (at_ i + j) = CMap.get s.mem (pa L + j))) ∧
     (Fit r (.comp w d a b) →
       let h := ((uniOf r b).extractLsb' 0 8).toNat
       (Refused s r h → exec (.comp w d a b) s = .next (s.raise r cPERMISSION (lowLane r.active) (BitVec.ofNat 64 h) r.active)) ∧
       (¬ Refused s r h → 2 ^ (s.hole h).log < ((s.hole h).tail - (s.hole h).head).toNat + 1 →
         exec (.comp w d a b) s = .next (s.putPath r.key { r.path with wait := .retry })) ∧
       (∀ host at_, ¬ Refused s r h → ((s.hole h).tail - (s.hole h).head).toNat + 1 ≤ 2 ^ (s.hole h).log →
         Slots s r (s.hole h) 1 host at_ →
         ∃ t g, exec (.comp w d a b) s = .next t ∧ held t g h 1 host at_ ∧ g = { r.group with s := g.s } ∧
           (let slot := (s.hole h).base + BitVec.ofNat 64 (64 * ((s.hole h).tail.toNat % 2 ^ (s.hole h).log))
            ∀ n, g.sreg n = if w = 0 ∧ n = d.toNat then slot.setWidth 32
              else if w = 0 ∧ n = d.toNat + 1 then slot.extractLsb' 32 32 else r.group.sreg n) ∧
           ∀ j, j < 64 → CMap.get (memOf t host) (at_ 0 + j) =
             if j = 0 then BitVec.ofNat 8 (3 + 8 * ((uniOf r b).extractLsb' 8 2).toNat)
             else if 48 ≤ j ∧ j < 56 then (pairOf r a (lowLane r.active)).extractLsb' (8 * (j - 48)) 8
             else 0))) ∧
  (∀ (s : State) (r : Run) (i : Instr) (a b : BitVec 8) (pa : Nat → Nat) (e : Nat → BitVec 128),
     i = .tdep a b ∨ i = .tsig a → Executing s r → Fit r i → Quiet s →
     (∀ L, On r L → AtPage s r .rmw (pairOf r a L) (pa L) (e L)) →
     let add := fun L => if i = .tsig a then -1 else r.src32 b L
     ((∀ L m, On r L → ({ s with mem := m } : State).docketAt r.gang.part r.gang.ctx (pairOf r a L) = none) →
       ∃ q, exec i s = .next { s.putPath r.key q with mem := depAll pa add (lanesOf r.active) s.mem } ∧ Switched s r q (r.path.pc + 4)) ∧
     (∀ k d, r.active ≠ 0 → (∀ L, On r L → pairOf r a L = d.addr) → Settled s r →
       s.dockets = [(k, d)] → d.state = 1 → d.subv = false →
       d.part = r.gang.part → d.ctx = r.gang.ctx →
       (∀ L, On r L → BitVec.ofNat 32 (Memory.read s.mem (pa L + 4) 4) + (lanesOf r.active).foldl (fun x L => x + add L) 0 = 0) →
       (∀ L, On r L → L ≠ lowLane r.active → False) →
       ∃ t, exec i s = .next t ∧ (FMap.get? t.dockets k).map (·.state) = some 2 ∧ t.groups = s.groups))

/-- R157, R319, R159: POST, SEAL and PMRK of a header in the launch's chip scratchpad or in global memory that has no subscriber, no
borrower and no settle group: POST advances POSTMARK and flips CUR; a sealed tile or POSTMARK 2^31 fails it, POSTMARK in the plain form,
p7 and LSTAT in the status form; SEAL seals, and the tile settles; of a sealed tile it changes nothing; PMRK reads.

R158: what a header event does to one subscriber: nothing where no fire is owed; IDLE becomes READY; a run of a preempt-mode wave or
Loom task on an older postmark is told to stop; nothing else. A fire is owed when POSTMARK differs from the latest run's, or the
header is sealed and no run on the final postmark has completed, which `lastFinal` keeps (log 18, the model's reading). -/
def Obligations.PostmarksAndHeaderEvents : Prop :=
  (∀ (s : State) (r : Run) (a : BitVec 8) (k f : BitVec 1) (h : BitVec 512), Executing s r → Quiet s → r.active ≠ 0 → Settled s r →
     s.selv.lender = [] → s.selv.notices = [] → s.owing = [] →
     -- where the header lies, what it holds, and the state that differs from s in it
     ∀ (same : State → BitVec 512 → Prop),
     ((k = 1 ∧ ∃ l la, r.gang.src = .launch l ∧ FMap.get? s.launches l = some la ∧ (uniOf r a).toNat % 64 = 0 ∧
         (uniOf r a).toNat + 64 ≤ 1024 * la.record.chip ∧ h = BitVec.ofNat 512 (Memory.read la.chip (uniOf r a).toNat 64) ∧
         same = fun t x => t = { s with groups := t.groups, paths := t.paths, launches := t.launches } ∧
           ∃ la', la' = { la with chip := la'.chip } ∧ (∀ j, FMap.get? t.launches j = if j = l then some la' else FMap.get? s.launches j) ∧
             Replaced la.chip la'.chip (uniOf r a).toNat x) ∨
      (k = 0 ∧ h.extractLsb' 272 16 = 0 ∧ s.dockets = [] ∧ ∃ pa e, AtPage s r .rmw (pairOf r a (lowLane r.active)) pa e ∧
         (pairOf r a (lowLane r.active)).toNat % 65536 + 64 ≤ 65536 ∧ h = BitVec.ofNat 512 (Memory.read s.mem pa 64) ∧
         same = fun t x => t = { s with groups := t.groups, paths := t.paths, mem := t.mem } ∧ Replaced s.mem t.mem pa x)) →
     (Fit r (.post a k f) →
       (h.getLsbD 32 = false → (h.extractLsb' 0 32).toNat ≠ 2 ^ 31 → ∃ t x, exec (.post a k f) s = .next t ∧ Posted h x ∧ same t x ∧
         (f = 0 → ∃ q, OnlyHere s t r r.group q ∧ Switched s r q (r.path.pc + 4)) ∧ (f = 1 → UniStatus s t r none)) ∧
       (f = 0 → h.getLsbD 32 = true ∨ (h.extractLsb' 0 32).toNat = 2 ^ 31 →
         exec (.post a k f) s = .next (s.raise r cPOSTMARK (lowLane r.path.mask) 0 r.path.mask)) ∧
       (f = 1 → h.getLsbD 32 = true → ∃ t, exec (.post a k f) s = .next t ∧ same t h ∧ UniStatus s t r (some 0x10)) ∧
       (f = 1 → h.getLsbD 32 = false → (h.extractLsb' 0 32).toNat = 2 ^ 31 →
         ∃ t, exec (.post a k f) s = .next t ∧ same t h ∧ UniStatus s t r (some 0x11))) ∧
     (Fit r (.seal a k) →
       (h.getLsbD 32 = true → ∃ t q, exec (.seal a k) s = .next t ∧ same t h ∧ OnlyHere s t r r.group q ∧
         Switched s r q (r.path.pc + 4)) ∧
       (h.getLsbD 32 = false → h.getLsbD 34 = false → (h.extractLsb' 256 16).toNat = 0xFFFF → ∃ t x q, exec (.seal a k) s = .next t ∧
         SealedNow h x ∧ same t x ∧ OnlyHere s t r r.group q ∧ Switched s r q (r.path.pc + 4))) ∧
     (∀ (w : BitVec 1) (d : BitVec 7), Fit r (.pmrk w d a k) →
       ∃ g q, exec (.pmrk w d a k) s = .next ((s.putGroup r.gk g).putPath r.key q) ∧ Switched s r q (r.path.pc + 4) ∧
         g = { r.group with s := g.s } ∧ ∀ n, g.sreg n =
           if w = 0 ∧ n = d.toNat then h.extractLsb' 0 32
           else if w = 0 ∧ n = d.toNat + 1 then
             (0 : BitVec 14) ++ h.extractLsb' 34 1 ++ h.extractLsb' 32 1 ++
               (if (h.extractLsb' 0 32 + 1).getLsbD 0 = false then h.extractLsb' 288 16 else h.extractLsb' 304 16)
           else r.group.sreg n)) ∧
  (∀ (s : State) (h : BitVec 512) (k : Nat) (d : Docket), FMap.get? s.dockets k = some d →
     let owed := d.last.getD 0 ≠ h.extractLsb' 0 32 ∨ (h.getLsbD 32 = true ∧ d.lastFinal = false)
     let older := d.last.getD 0 ≠ h.extractLsb' 0 32
     (¬ owed → s.fireOne h k = s) ∧ (d.state ≠ 3 → d.state ≠ 4 → s.fireOne h k = s) ∧
     (owed → d.state = 4 → s.fireOne h k = s.putDocket k { d with state := 2 }) ∧
     (d.state = 3 → (d.pre = true ∧ (d.kind = 0 ∨ d.kind = 1 ∨ d.kind = 4) ∧ older) →
       s.fireOne h k = s.putDocket k { d with stopping := true }) ∧
     (d.state = 3 → ¬ (d.pre = true ∧ (d.kind = 0 ∨ d.kind = 1 ∨ d.kind = 4) ∧ older) → s.fireOne h k = s) ∧
     ∀ x, FMap.get? (s.putDocket k x).dockets k = some x)

/-- R320: SUBS: no accepted docket at the address, or one that is done, abandoned or subscribed, reports 0x13; a list without a free
entry 0x14; else the docket's address enters the first free entry, the header counts one subscriber more, the docket is subscribed, no
byte but those of the entry, the count and the docket's slot changes, and p7 is true. R321, R160: SETTLE of a group at or above SGN faults
POSTMARK or reports 0x12; goes on where UNSETTLED, in host or in device memory, reads 0; else waits. -/
def Obligations.SubscriptionsAndSettling : Prop :=
  ∀ (s : State) (r : Run) (a b : BitVec 8) (pa qa la : Nat) (e f z : BitVec 128), Executing s r → Quiet s → r.active ≠ 0 → Settled s r →
    let low := lowLane r.active
    (Fit r (.subs a b) → AtPage s r .rmw (pairOf r a low) pa e → AtPage s r .rmw (pairOf r b low) qa f →
      let D := s.docketAt r.gang.part r.gang.ctx (pairOf r b low)
      let h := BitVec.ofNat 512 (Memory.read s.mem pa 64)
      let cap := (h.extractLsb' 272 16).toNat
      let entry := fun j => Memory.read s.mem (la + 8 * j) 8
      (D = none ∨ (∃ k d, D = some (k, d) ∧ (d.state = 5 ∨ d.state = 6 ∨ d.subv = true)) →
        ∃ t, exec (.subs a b) s = .next t ∧ t = { s with groups := t.groups, paths := t.paths } ∧ UniStatus s t r (some 0x13)) ∧
      (∀ k d, D = some (k, d) → d.part = r.gang.part → d.ctx = r.gang.ctx → d.state ≠ 5 → d.state ≠ 6 → d.subv = false →
        cap = 0 ∨ Cached s r .rmw (h.extractLsb' 192 64) (8 * cap) la z →
        ((∀ j, j < cap → entry j % 2 = 1) →
          ∃ t, exec (.subs a b) s = .next t ∧ t = { s with groups := t.groups, paths := t.paths } ∧ UniStatus s t r (some 0x14)) ∧
        (∀ i, i < cap → entry i % 2 = 0 → (∀ j, j < i → entry j % 2 = 1) → d.addr = pairOf r b low →
          qa + 64 ≤ pa ∨ pa + 64 ≤ qa → la + 8 * cap ≤ pa ∨ pa + 64 ≤ la → la + 8 * cap ≤ qa ∨ qa + 64 ≤ la →
          ∃ t, exec (.subs a b) s = .next t ∧ UniStatus s t r none ∧
            Memory.read t.mem (la + 8 * i) 8 = d.addr.toNat + 1 ∧
            Memory.read t.mem (pa + 6) 2 = ((h.extractLsb' 48 16).toNat + 1) % 2 ^ 16 ∧
            (∀ x, (x < la + 8 * i ∨ la + 8 * i + 8 ≤ x) → (x < pa + 6 ∨ pa + 8 ≤ x) → (x < qa ∨ qa + 64 ≤ x) →
              CMap.get t.mem x = CMap.get s.mem x) ∧
            ∃ d', FMap.get? t.dockets k = some d' ∧ d'.subv = true ∧ d'.subhdr = pairOf r a low))) ∧
    (∀ (o : BitVec 1), Fit r (.settle a o) →
      let c := s.rctx r
      let g := ((uniOf r a).extractLsb' 0 16).toNat
      let at_ := c.sgbase.toNat % 2 ^ 63 + 16 * g
      (c.sgn ≤ g → o = 0 → exec (.settle a o) s = .next (s.raise r cPOSTMARK (lowLane r.path.mask) 0 r.path.mask)) ∧
      (c.sgn ≤ g → o = 1 → ∃ t, exec (.settle a o) s = .next t ∧ t = { s with groups := t.groups, paths := t.paths } ∧
        UniStatus s t r (some 0x12)) ∧
      (∀ n, g < c.sgn →
        (c.sgbase.msb = true ∧ at_ < 2 ^ 63 ∧ s.hostErr = false ∧ n = Memory.read s.hostMem at_ 4) ∨
          (Cached s r .rd (c.sgbase + BitVec.ofNat 64 (16 * g)) 4 pa e ∧ n = Memory.read s.mem pa 4) →
        (n = 0 → ∃ t q, exec (.settle a o) s = .next t ∧ t = { s with groups := t.groups, paths := t.paths } ∧
          (o = 1 → UniStatus s t r none) ∧ (o = 0 → t = s.putPath r.key q ∧ Switched s r q (r.path.pc + 4))) ∧
        (n ≠ 0 →
          exec (.settle a o) s = .next (s.putPath r.key { r.path with wait := .settle g (decide (o = 1)) r.active }))))

/-- R322, R146, R323: LQUE appends a list to its core's Loom, MISALIGN for an unaligned address, waiting on a full queue and for earlier
stores of its group that are logged (R204, R206); AALLOC grants
the lowest free banks when no request waits and enough are free, else the path waits; a count outside 1 to 16 or an allocation held or
waited for is ACC_ALLOC; AFREE frees, ACC_ALLOC with none held, after the workgroup's lists. AALLOC and AFREE act with ACTIVE empty. That
granted banks hold zeros of float kind is the model's choice (log 4). -/
def Obligations.LoomQueueAndBanks : Prop :=
  ∀ (s : State) (r : Run) (a : BitVec 8), Executing s r →
    let c := s.core r.wg.core
    (Fit r (.lque a) →
      let va := pairOf r a (lowLane r.active)
      (r.active = 0 → ∃ q, exec (.lque a) s = .next (s.putPath r.key q) ∧ Switched s r q (r.path.pc + 4)) ∧
      (r.active ≠ 0 → va.toNat % 32 ≠ 0 →
        exec (.lque a) s = .next (s.raise r cMISALIGN (lowLane r.active) va (1#32 <<< lowLane r.active))) ∧
      (r.active ≠ 0 → va.toNat % 32 = 0 → 8 ≤ c.loom.length ∨ (∃ l ∈ s.sidelog, l.group = r.gk) →
        exec (.lque a) s = .next (s.putPath r.key { r.path with wait := .retry })) ∧
      (r.active ≠ 0 → va.toNat % 32 = 0 → c.loom.length < 8 → AllPerformed s r → ∃ l q, exec (.lque a) s =
          .next ((s.putCore r.wg.core { c with loom := c.loom ++ [l] }).putPath r.key q) ∧ Switched s r q (r.path.pc + 4) ∧
        l.addr = va ∧ l.wg = some r.wk ∧ l.part = r.gang.part ∧ l.ctx = r.gang.ctx ∧ l.cmd = 0 ∧ l.step = 0 ∧ l.fmt = false)) ∧
    (Fit r (.aalloc a) →
      let n := (r.src32 a (lowLane (if r.active = 0 then r.path.mask else r.active))).toNat
      let bad := n = 0 ∨ 16 < n ∨ r.wg.acc ≠ none ∨ ∃ x ∈ c.bankQueue, x.1 = r.wk
      (bad → exec (.aalloc a) s = .next (s.raise r cACC (lowLane r.path.mask) 0 r.path.mask)) ∧
      (¬ bad → c.bankQueue ≠ [] ∨ (∀ l, FreeBanks s r.wg.core l → l.length < n) → (∀ x, c.bankQueue.head? = some x → ∀ l, FreeBanks s r.wg.core l → l.length < x.2) →
        exec (.aalloc a) s = .next ((s.putCore r.wg.core { c with bankQueue := c.bankQueue ++ [(r.wk, n)] }).putPath r.key
          { r.path with wait := .banks })) ∧
      (∀ l, ¬ bad → c.bankQueue = [] → FreeBanks s r.wg.core l → n ≤ l.length → r.wk < 2 ^ 80 →
        ∃ t w q, exec (.aalloc a) s = .next t ∧ t = { s with wgs := t.wgs, cores := t.cores, paths := t.paths } ∧
          (∀ k, FMap.get? t.wgs k = if k = r.wk then some w else FMap.get? s.wgs k) ∧ w = { r.wg with acc := w.acc } ∧
          w.acc = some ⟨l.take n, [], []⟩ ∧
          (∀ k, FMap.get? t.paths k = if k = r.key then some q else FMap.get? s.paths k) ∧ Switched s r q (r.path.pc + 4) ∧
          ∀ b, FMap.get? (t.core r.wg.core).bankOwner b = if b ∈ l.take n then some r.wk else FMap.get? c.bankOwner b)) ∧
    (r.T ≤ 14 →
      (r.wg.acc = none → exec .afree s = .next (s.raise r cACC (lowLane r.path.mask) 0 r.path.mask)) ∧
      (r.wg.acc ≠ none → ¬ NoLists s r → exec .afree s = .next (s.putPath r.key { r.path with wait := .retry })) ∧
      (r.wg.acc ≠ none → NoLists s r → c.bankQueue = [] → ∃ t w q, exec .afree s = .next t ∧
        t = { s with wgs := t.wgs, cores := t.cores, paths := t.paths } ∧
        (∀ k, FMap.get? t.wgs k = if k = r.wk then some w else FMap.get? s.wgs k) ∧ w = { r.wg with acc := none } ∧
        (∀ k, FMap.get? t.paths k = if k = r.key then some q else FMap.get? s.paths k) ∧ Switched s r q (r.path.pc + 4) ∧
        t.core r.wg.core = { c with bankOwner := c.bankOwner.filter fun x => x.2 != r.wk }))

/-- R324, R119, R146: ADRN writes the selected banks' elements to the image, 10 bytes and 6 zero bytes each, and the
integer banks to sD; AFIL records the kinds of the banks and loads their elements; both fault ACC_ALLOC for a count of 0 or above 16, for
a bank beyond the allocation, or for no allocation, and wait for the workgroup's lists. -/
def Obligations.AccumulatorImages : Prop :=
  ∀ (s : State) (r : Run) (i : Instr) (w : BitVec 1) (d : BitVec 7) (a b : BitVec 8) (pa : Nat → Nat) (e : Nat → BitVec 128),
    i = .adrn w d a b ∨ i = .afil a b → Executing s r → Fit r i → Quiet s → r.active ≠ 0 → r.path.pix = 0 →
    let f := bankFirst r b
    let c := bankCount r b
    ((pairOf r a (lowLane r.active)).toNat % 16 = 0 → (r.wg.acc = none ∨ c = 0 ∨ 16 < c ∨ ∃ x, r.wg.acc = some x ∧ x.banks.length < f + c) →
      exec i s = .next (s.raise r cACC (lowLane r.path.mask) 0 r.path.mask)) ∧
    (∀ x, r.wg.acc = some x → 1 ≤ c → c ≤ 16 → f + c ≤ x.banks.length → r.path.inH = false → ¬ NoLists s r →
      (pairOf r a (lowLane r.active)).toNat % 16 = 0 → exec i s = .next (s.putPath r.key { r.path with wait := .retry })) ∧
    (∀ x, r.wg.acc = some x → 1 ≤ c → c ≤ 16 → f + c ≤ x.banks.length → NoLists s r →
      (i = .adrn w d a b → Image s r .wr a (4096 * c) pa e →
        ∃ t g q, exec i s = .next t ∧ t = { s with mem := t.mem, groups := t.groups, paths := t.paths } ∧ OnlyHere s t r g q ∧
          Switched s r { q with pix := 0, xbase := r.path.xbase } (r.path.pc + 4) ∧ q.pix = 0 ∧ q.xbase = none ∧ g = { r.group with s := g.s } ∧
          (∀ n, n ≠ d.toNat ∨ w = 1 → g.sreg n = r.group.sreg n) ∧
          (w = 0 → ∀ k, k < 32 → (g.sreg d.toNat).getLsbD k = (decide (k < 16) && CMap.get x.kinds k == 1)) ∧
          (∀ u j, u < 4096 * c → j < 16 → CMap.get t.mem (pa u + j) =
            if j < 10 then (CMap.get x.data (4096 * f + u)).extractLsb' (8 * j) 8 else 0) ∧
          ∀ y, (∀ u, u < 4096 * c → y < pa u ∨ pa u + 16 ≤ y) → CMap.get t.mem y = CMap.get s.mem y) ∧
      (i = .afil a b → Image s r .rd a (4096 * c) pa e →
        ∃ t v x' q, exec i s = .next t ∧ t = { s with wgs := t.wgs, paths := t.paths } ∧ OnlyHere s t r r.group q ∧
          Switched s r { q with pix := 0, xbase := r.path.xbase } (r.path.pc + 4) ∧ q.pix = 0 ∧ q.xbase = none ∧
          (∀ k, FMap.get? t.wgs k = if k = r.wk then some v else FMap.get? s.wgs k) ∧ v = { r.wg with acc := some x' } ∧
          x'.banks = x.banks ∧
          (∀ k, CMap.get x'.kinds k = if f ≤ k ∧ k < f + c then (uniOf r b).extractLsb' (16 + k) 1 else CMap.get x.kinds k) ∧
          ∀ n, CMap.get x'.data n =
            if 4096 * f ≤ n ∧ n < 4096 * (f + c) then BitVec.ofNat 80 (Memory.read s.mem (pa (n - 4096 * f)) 10) else CMap.get x.data n))

/-- R326, R179, R180, R305: TRACE with ACTIVE empty counts its event at once; an unaligned or unmapped header faults before any ray
starts; a full queue, or a logged store of the group, makes it wait (R204); else a trace with the lanes' rays is queued and its hit
records are load targets. When the trace of a gang that runs completes, each lane's record is in its registers, p7 is false exactly where
a lane's trace failed, LSTAT is the lowest failing lane's, the event counter gains 1, and the trace and its load are gone. A lane whose
header cannot be read ends with T and the word of u and v zero, the cause in word 1, KIND 3 and p7 false. The record of a traversal has KIND 0 for
neither hit nor portal, 1 with T, PRIM, u and v for a hit, and 2 with T and the portal's id for a portal without a hit or below it.

R184: of the lanes whose header faults, a misaligned one comes first, then the lowest. R180: of the triangles and portals that a ray meets, the hit
is the nearest in [TMIN, TMAX], with the lower PRIM of two at one t, and the portal the nearest, with the lower id; a node that is met for the
first time is opened, and its children whose boxes the ray enters are met. -/
def Obligations.Rays : Prop :=
  (∀ (s : State) (r : Run) (w : BitVec 1) (d : BitVec 7) (a b : BitVec 8), Executing s r → Fit r (.trace w d a b) →
    let ev := fun L => ((r.src32 b L).extractLsb' 0 8).toNat
    let bad := fun L => (headerOf r a L).toNat % 64 ≠ 0 ∨ 2 ^ 57 ≤ (headerOf r a L).toNat ∨ aperFind r.path.aper (headerOf r a L).toNat = none
    (r.active = 0 → ∃ q, exec (.trace w d a b) s = .next ((s.putGang r.gid { r.gang with
        evc := CMap.set r.gang.evc (ev (lowLane r.path.mask)) (CMap.get r.gang.evc (ev (lowLane r.path.mask)) + 1) }).putPath r.key q) ∧
      Switched s r q (r.path.pc + 4)) ∧
    ((∃ L, On r L ∧ bad L) → ∃ L m, exec (.trace w d a b) s = .next (s.raise r
        (if (headerOf r a L).toNat % 64 ≠ 0 then cMISALIGN else cAPERTURE) L (headerOf r a L) m) ∧ On r L ∧ bad L ∧
      (∀ Q, On r Q → (headerOf r a Q).toNat % 64 ≠ 0 → (headerOf r a L).toNat % 64 ≠ 0 ∧ L ≤ Q) ∧
      (∀ Q, On r Q → bad Q → (headerOf r a L).toNat % 64 = 0 → L ≤ Q) ∧
      ∀ Q, Q < 32 → (m.getLsbD Q = true ↔ On r Q ∧ bad Q)) ∧
    (r.active ≠ 0 → (∀ L, On r L → ¬ bad L) → 64 ≤ s.tracesOn r.wg.core ∨ (∃ l ∈ s.sidelog, l.group = r.gk) →
      exec (.trace w d a b) s = .next (s.putPath r.key { r.path with wait := .retry })) ∧
    (r.active ≠ 0 → (∀ L, On r L → ¬ bad L) → s.tracesOn r.wg.core < 64 → AllPerformed s r → ∃ x l q, exec (.trace w d a b) s =
        .next ((({ s with uid := s.uid + 1 }).putGang r.gid { r.gang with traces := r.gang.traces ++ [x] }).putPath r.key
          { q with loads := q.loads ++ [l] }) ∧ Switched s r q (r.path.pc + 4) ∧
      x.path = r.key ∧ x.event = ev (lowLane r.active) ∧ x.load = l.id ∧ l.id = s.uid ∧ l.status = true ∧ (l.wr = true ↔ w = 0) ∧
      x.rays.map (fun y => (y.1, y.2.2)) = (lanesOf r.active).map (fun L => (L, headerOf r a L)) ∧
      (∀ y ∈ x.rays, ∀ j, j < 8 → y.2.1.extractLsb' (32 * j) 32 = r.group.vreg (a.toNat + j) y.1) ∧
      l.lanes.map (·.lane) = lanesOf r.active ∧
      ∀ y ∈ l.lanes, y.reg = d.toNat ∧ y.nreg = (if w = 0 then 4 else 0) ∧ y.skip = [] ∧ l.mute = false)) ∧
  (∀ (s : State) (r : Run) (n : Nat) (x : Trace) (ld : Load), Executing s r → r.gang.status = 0 → r.gang.halted = false →
    s.mgmt.needsReset = false → r.gang.traces[n]? = some x → x.path = r.key → (r.gang.traces.map (·.id)).Nodup →
    StaysPlaced s r.gid → s.pathsOf r.gk = [(r.key, r.path)] → r.path.loads.filter (fun l => l.id == x.load) = [ld] → ld.mute = false →
    (∀ y ∈ ld.lanes, y.skip = [] ∧ r.path.mask.getLsbD y.lane = true) → (x.rays.map (·.1)).Nodup → ld.lanes.map (·.lane) = x.rays.map (·.1) →
    let res := traceAll s r.gang.part r.gang.ctx (dieOf r.wg.core) x.rays
    ∃ t q g p, exec (.traceDone r.gid n) s = .next t ∧
      t = { res.2 with gangs := t.gangs, groups := t.groups, paths := t.paths } ∧ OnlyHere s t r g p ∧
      FMap.get? t.gangs r.gid = some q ∧ q = { r.gang with traces := r.gang.traces.filter (fun y => y.id != x.id), evc := q.evc } ∧
      CMap.get q.evc x.event = CMap.get r.gang.evc x.event + 1 ∧
      (∀ k, k ≠ x.event → CMap.get q.evc k = CMap.get r.gang.evc k) ∧
      g = { r.group with v := g.v, p := g.p } ∧
      (∀ y ∈ ld.lanes, ∀ rec code, (y.lane, rec, code) ∈ res.1 →
        (∀ j, g.vreg j y.lane = if y.reg ≤ j ∧ j < y.reg + y.nreg then rec.extractLsb' (32 * (j - y.reg)) 32 else r.group.vreg j y.lane) ∧
        (g.pred 7).getLsbD y.lane = code.isNone) ∧
      (∀ j L, L < 32 → L ∉ ld.lanes.map (·.lane) → g.vreg j L = r.group.vreg j L ∧ (g.pred 7).getLsbD L = (r.group.pred 7).getLsbD L) ∧
      (∀ j, j ≠ 7 → g.pred j = r.group.pred j) ∧
      p = { r.path with loads := r.path.loads.filter (fun l => l.id != x.load), lstat := p.lstat } ∧
      ((∀ y ∈ res.1, y.2.2 = none) → p.lstat = r.path.lstat) ∧
      (∀ L rec c, (L, rec, some c) ∈ res.1 → (∀ y ∈ res.1, y.1 < L → y.2.2 = none) → p.lstat = BitVec.ofNat 32 (c.toNat + 256 * L))) ∧
  (∀ (s s1 : State) (part ctx die : Nat) (ray : BitVec 256) (hdr : BitVec 64) (c : BitVec 8), s.rayRead part ctx die hdr.toNat 64 = (.error c, s1) →
    ∃ x k, s.traceRay part ctx die ray hdr = ((x, some k), s1) ∧ x.extractLsb' 0 32 = 0 ∧ x.extractLsb' 32 32 = c.setWidth 32 ∧
      x.extractLsb' 64 32 = 0 ∧ x.extractLsb' 96 32 = 3 ∧ (c = cPERMISSION ∨ c = cNOTPRESENT ∨ c = cFORMAT → k = 0x40 + c)) ∧
  (∀ (s : State) (part ctx die : Nat) (ray : BitVec 256) (nodes tris : Nat),
    let kind := fun w : BitVec 32 => (w.extractLsb' 30 2).toNat
    let idx := fun w : BitVec 32 => (w.extractLsb' 0 30).toNat
    (∀ (l : List (BitVec 32 × BitVec 192)) (rd : Nat → List (BitVec 8)) (fuel : Nat), l.length < fuel → (∀ x ∈ l, kind x.1 ≠ 1) →
      (∀ x ∈ l, kind x.1 = 2 → s.rayRead part ctx die ((tris + 48 * idx x.1) % 2 ^ 64) 48 = (.ok (rd (idx x.1), false), s)) →
      let meets := fun (x : BitVec 32 × BitVec 192) t (p uv : BitVec 32) => x ∈ l ∧ kind x.1 = 2 ∧
        p = BitVec.ofNat 32 (leNat (((rd (idx x.1)).drop 36).take 4)) ∧ Within ray t ∧
        ∃ u v, Config.triangleHit ray (BitVec.ofNat 288 (leNat ((rd (idx x.1)).take 36))) = some (t, u, v) ∧ uv = v ++ u
      let enters := fun (x : BitVec 32 × BitVec 192) t (p : BitVec 32) => x ∈ l ∧ kind x.1 = 3 ∧ p = BitVec.ofNat 32 (idx x.1) ∧ Within ray t ∧
        Config.boxEntry ray x.2 = some t
      ∃ f, s.traverse part ctx die ray nodes tris fuel l {} = (.ok f, s) ∧
        (f.hit = none ↔ ∀ x t p uv, ¬ meets x t p uv) ∧
        (∀ t p uv, f.hit = some (t, p, uv) → (∃ x, meets x t p uv) ∧ ∀ y t' p' uv', meets y t' p' uv' → ¬ Nearer t' p' t p) ∧
        (f.portal = none ↔ ∀ x t p, ¬ enters x t p) ∧
        (∀ t p, f.portal = some (t, p) → (∃ x, enters x t p) ∧ ∀ y t' p', enters y t' p' → ¬ Nearer t' p' t p)) ∧
    (∀ (w : BitVec 32) (box : BitVec 192) (rest : List (BitVec 32 × BitVec 192)) (f : Found) (fuel : Nat), kind w = 1 →
      (idx w ∈ f.opened → s.traverse part ctx die ray nodes tris (fuel + 1) ((w, box) :: rest) f =
        s.traverse part ctx die ray nodes tris fuel rest f) ∧
      (∀ bs soft s1, idx w ∉ f.opened → s.rayRead part ctx die ((nodes + 128 * idx w) % 2 ^ 64) 128 = (.ok (bs, soft), s1) →
        ∃ kids, s.traverse part ctx die ray nodes tris (fuel + 1) ((w, box) :: rest) f =
            s1.traverse part ctx die ray nodes tris fuel (kids ++ rest) { f with soft := f.soft || soft, opened := idx w :: f.opened } ∧
          ∀ c b, (c, b) ∈ kids ↔ kind c ≠ 0 ∧ (Config.boxEntry ray b).isSome = true ∧ ∃ j, j < 4 ∧
            c = BitVec.ofNat 32 (leNat ((bs.drop (96 + 4 * j)).take 4)) ∧ b = BitVec.ofNat 192 (leNat ((bs.drop (24 * j)).take 24))))) ∧
  (∀ (f : Found) (ray : BitVec 256), let x := f.record ray
    let kind := x.extractLsb' 96 32
    (f.hit = none → f.portal = none → kind = 0) ∧
    (∀ t p uv, f.hit = some (t, p, uv) → (f.portal = none ∨ ∃ pt id, f.portal = some (pt, id) ∧
        FV.cmp? (fmtF32.decode pt.toNat) (fmtF32.decode t.toNat) ≠ some .lt) →
      kind = 1 ∧ x.extractLsb' 0 32 = t ∧ x.extractLsb' 32 32 = p ∧ x.extractLsb' 64 32 = uv) ∧
    (∀ pt id, f.portal = some (pt, id) → (f.hit = none ∨ ∃ t p uv, f.hit = some (t, p, uv) ∧
        FV.cmp? (fmtF32.decode pt.toNat) (fmtF32.decode t.toNat) = some .lt) →
      kind = 2 ∧ x.extractLsb' 0 32 = pt ∧ x.extractLsb' 32 32 = id))

/-- R327, R66, R67, R68: PSEND sends the parcels of the lanes that do not fail, p7 and LSTAT reporting the others: HOPS 255 is 0x21, a
destination without a grant 0x22, a lane beyond the grant size of its destination, lanes ascending, 0x23; it takes the credits of all
its lanes at once, else the path waits, as it does for a logged store of its group (R204); with the Selvedge retired every lane fails with 0x22
(R360). With ACTIVE empty it completes. Grants set credits, returned slots restore them up to the grant, a revocation removes them.

R67, R68: a parcel that arrives for a registration in force takes the lowest free slot of its sender's run, and a docket of KIND 4 that
names the slot joins the pigeonhole; with none in force, or from a sender without a grant, it is dropped. A write of PREG reads the record and the
grant table; while a registration is in force it starts its withdrawal, PRSTAT 3; else zero leaves none and PRSTAT 0, a refused record
PRSTAT 2, an accepted one PRSTAT 1, its grants sent. A record in host memory is accepted exactly under the conditions of R68, and the
runs of its grants follow one another. The withdrawal ends once no slot is in use: its grants are revoked, and what PREG named comes into
force. That a parcel's append marks a waiting slot to be tried again (log 51), and that GRANTS with bit 63 set is a host address (log 91), are the
model's readings. -/
def Obligations.Parcels : Prop :=
  (∀ (s : State) (r : Run) (a b : BitVec 8), Executing s r → Fit r (.psend a b) →
     let dest := fun L => ((r.src32 b L).extractLsb' 0 16).toNat
     let fail := parcelFail s r a b
     let credit := fun D => ((FMap.get? s.selv.credits D).map (·.2)).getD 0
     let sent := fun D => ((lanesOf r.active).filter fun L => dest L == D && (fail L).isNone).length
     (r.active = 0 → ∃ q, exec (.psend a b) s = .next (s.putPath r.key q) ∧ Switched s r q (r.path.pc + 4)) ∧
     (r.active ≠ 0 → (∃ l ∈ s.sidelog, l.group = r.gk) ∨ (∃ D, credit D < sent D) →
       exec (.psend a b) s = .next (s.putPath r.key { r.path with wait := .retry })) ∧
     (r.active ≠ 0 → AllPerformed s r → (∀ D, sent D ≤ credit D) →
       ∃ t g q, exec (.psend a b) s = .next t ∧ OnlyHere s t r g q ∧ g = { r.group with p := g.p } ∧
         t = { s with paths := t.paths, groups := t.groups, netOut := t.netOut, selv := { s.selv with credits := t.selv.credits } } ∧
         (∀ n L, L < 32 → (g.pred n).getLsbD L =
           if n = 7 ∧ r.active.getLsbD L = true then (fail L).isNone else (r.group.pred n).getLsbD L) ∧
         Switched s r { q with lstat := r.path.lstat } (r.path.pc + 4) ∧ ((∀ L, On r L → fail L = none) → q.lstat = r.path.lstat) ∧
         (∀ L x, On r L → fail L = some x → (∀ Q, Q < L → On r Q → fail Q = none) → q.lstat = BitVec.ofNat 32 (x + 256 * L)) ∧
         (∀ D, FMap.get? t.selv.credits D = (FMap.get? s.selv.credits D).map fun x => (x.1, x.2 - sent D)) ∧
         t.netOut = s.netOut ++ ((lanesOf r.active).filter fun L => (fail L).isNone).map fun L =>
           (⟨dest L, 3, [], (List.range 64).map (sentByte r a L)⟩ : NetMsg)) ∧
     (∀ (D n : Nat), exec (.receiveSlotGrant D n true) s =
       .next { s with selv := { s.selv with credits := FMap.set s.selv.credits D (n, n) } }) ∧
     (∀ (D n m f : Nat), FMap.get? s.selv.credits D = some (n, f) → ∃ t, exec (.receiveSlotGrant D m false) s = .next t ∧
       FMap.get? t.selv.credits D = some (n, min n (f + m)) ∧ (∀ E, E ≠ D → FMap.get? t.selv.credits E = FMap.get? s.selv.credits E) ∧
       t = { s with selv := { s.selv with credits := t.selv.credits } }) ∧
     (∀ D : Nat, ∃ t, exec (.grantRevocation D) s = .next t ∧ FMap.get? t.selv.credits D = none ∧
       (∀ E, E ≠ D → FMap.get? t.selv.credits E = FMap.get? s.selv.credits E) ∧ t = { s with selv := { s.selv with credits := t.selv.credits } })) ∧
  (∀ (s : State) (part ctx : Nat) (v : BitVec 64),
     let c := s.ctx part ctx
     let revoked := fun g : PReg => g.grants.map fun x => (⟨x.1, 5, [ctxKey part ctx], []⟩ : NetMsg)
     let granted := fun g : PReg => g.grants.map fun x => (⟨x.1, 4, [ctxKey part ctx, x.2.2], []⟩ : NetMsg)
     (∀ n parcel, c.reg = none → exec (.parcelArrival part ctx n parcel) s = .next s) ∧
     (∀ n parcel g, c.reg = some g → g.grants.find? (fun x => x.1 == n) = none → exec (.parcelArrival part ctx n parcel) s = .next s) ∧
     (∀ n (parcel : BitVec 512) g first count j x s1, s.mgmt.selvDown = false → s.hostErr = false → c.reg = some g → g.prio < 4 →
       g.grants.find? (fun x => x.1 == n) = some (n, first, count) →
       j < count → first + j ∉ g.busy → (∀ i, i < j → first + i ∈ g.busy) → s.hole g.hole = x → HostRing x → x.log ≠ 0 →
       (x.tail - x.head).toNat < 2 ^ x.log →
       let va := g.slots + BitVec.ofNat 64 (64 * (first + j))
       s.wroteVA part ctx 2 va.toNat ((List.range 64).map fun k => parcel.extractLsb' (8 * k) 8) = (true, s1) →
       ∃ t, exec (.parcelArrival part ctx n parcel) s = .next t ∧ (t.ctx part ctx).reg = some { g with busy := g.busy ++ [first + j] } ∧
         t.hole g.hole = { x with tail := x.tail + 1, again := x.waits } ∧
         (∀ k, k < 64 → CMap.get t.hostMem (slotByte x 0 k) =
           if k = 0 then BitVec.ofNat 8 (4 + 8 * g.prio) else if 48 ≤ k ∧ k < 56 then va.extractLsb' (8 * (k - 48)) 8 else 0) ∧
         t.mem = s1.mem ∧ t.groups = s.groups ∧ t.paths = s.paths) ∧
     (¬ Hosted s part → exec (.preg part ctx v) s = .next s) ∧
     (Hosted s part → c.reg ≠ none → exec (.preg part ctx 0) s = .next (s.putCtx part ctx { c with preg := 0, prstat := 3, regNext := none })) ∧
     (Hosted s part → c.reg = none → exec (.preg part ctx 0) s = .next (s.putCtx part ctx { c with preg := 0, prstat := 0, regNext := none })) ∧
     (∀ y u, Hosted s part → v ≠ 0 → s.regOf part ctx v = (y, u) →
       ((u.ctx part ctx).reg ≠ none →
         exec (.preg part ctx v) s = .next (u.putCtx part ctx { u.ctx part ctx with preg := v, prstat := 3, regNext := y })) ∧
       ((u.ctx part ctx).reg = none → y = none →
         exec (.preg part ctx v) s = .next (u.putCtx part ctx { u.ctx part ctx with preg := v, prstat := 2, regNext := none })) ∧
       (∀ g, (u.ctx part ctx).reg = none → y = some g → exec (.preg part ctx v) s =
         .next { u.putCtx part ctx { u.ctx part ctx with preg := v, prstat := 1, reg := some g, regNext := none } with
           netOut := u.netOut ++ granted g })) ∧
     (v.msb = true → s.hostErr = false →
       let x := BitVec.ofNat 512 (Memory.read s.hostMem (v.toNat % 2 ^ 63) 64)
       let table := x.extractLsb' 256 64
       let n := (x.extractLsb' 320 13).toNat
       let ent := fun i => Memory.read s.hostMem (table.toNat % 2 ^ 63 + 4 * i) 4
       let h := (x.extractLsb' 64 8).toNat
       let bad := x.extractLsb' 0 6 ≠ 0 ∨ x.extractLsb' 74 54 ≠ 0 ∨ x.extractLsb' 333 51 ≠ 0 ∨ x.extractLsb' 384 128 ≠ 0 ∨
         n = 0 ∨ 4096 < n ∨ table.toNat % 4 ≠ 0 ∨
         16 < (x.extractLsb' 199 5).toNat ∨ 1024 < (x.extractLsb' 204 11).toNat ∨ 512 < (x.extractLsb' 215 10).toNat ∨
         1 < (x.extractLsb' 225 2).toNat ∨ x.extractLsb' 227 29 ≠ 0 ∨ (∃ i, i < n ∧ 2 ^ 24 ≤ ent i) ∨
         (s.hole h).hostfed = true ∨ s.holeOwner h ≠ some part ∨ (s.hole h).ctx ≠ ctx ∨
         ∃ i k, i < k ∧ k < n ∧ ent i % 65536 = ent k % 65536
       table.msb = true →
       (bad → s.regOf part ctx v = (none, s)) ∧
       (¬ bad → ∃ g, s.regOf part ctx v = (some g, s) ∧ g.slots = x.extractLsb' 0 64 ∧ g.hole = h ∧ g.prio = (x.extractLsb' 72 2).toNat ∧
         g.entry = x.extractLsb' 128 64 ∧ g.geom = x.extractLsb' 192 64 ∧ g.busy = [] ∧ g.grants.length = n ∧
         ∀ i y, g.grants[i]? = some y → y.1 = ent i % 65536 ∧ y.2.2 = ent i / 65536 + 1 ∧
           y.2.1 = ((g.grants.take i).map fun z => z.2.2).sum)) ∧
     (∀ g, c.reg = some g → c.prstat = 3 → g.busy = [] →
       (c.preg = 0 → exec (.pregWithdrawDone part ctx) s =
         .next { s.putCtx part ctx { c with prstat := 0, reg := none, regNext := none } with netOut := s.netOut ++ revoked g }) ∧
       (c.preg ≠ 0 → c.regNext = none → exec (.pregWithdrawDone part ctx) s =
         .next { s.putCtx part ctx { c with prstat := 2, reg := none, regNext := none } with netOut := s.netOut ++ revoked g }) ∧
       (∀ f, c.preg ≠ 0 → c.regNext = some f → exec (.pregWithdrawDone part ctx) s =
         .next { s.putCtx part ctx { c with prstat := 1, reg := some f, regNext := none } with
           netOut := s.netOut ++ revoked g ++ granted f })) ∧
     (c.reg = none ∨ c.prstat ≠ 3 ∨ (∃ g, c.reg = some g ∧ g.busy ≠ []) → exec (.pregWithdrawDone part ctx) s = .next s))

/-- R17 to R20: with verified images the package starts, else FWSTAT is 1; clusters wake in ascending order and their Looms ramp
through four stages; FWCMD makes FWSTAT 2 and fetches the FWLEN bytes at FWBASE, an image that does not verify ends in 3, one that does is in use
and ends in 0 once the package runs, else in 1; a request for a report takes a leaf before the signature, is
refused while one is made, and ends with EXHAUSTED without a leaf; the report is written to ATTBUF, then ATTST is 2. That ATTST stays 4 until the
report is written (log 83), and that a host bus error leaves no image (log 8), are the model's choices. -/
def Obligations.StartUpAndAttestation : Prop :=
  ∀ (s : State), let m := s.mgmt
    (∀ v, m.started = false → m.fwstat = 0 → ∃ t, exec (.powerOn v) s = .next t ∧
      OnlyMgmt s t { m with started := v, fwstat := if v = true then 0 else 1 }) ∧
    (m.started = true → m.awake < 24 → m.needsReset = false → ∃ t, exec .clusterWake s = .next t ∧
      t = { s with mgmt := { m with awake := m.awake + 1 }, cores := t.cores } ∧
      ∀ k, t.core k = if k / 8 = m.awake ∧ m.liveCore k = true then { s.core k with ramp := 1 } else s.core k) ∧
    (∀ k, ∃ t, exec (.loomRampStage k) s = .next t ∧ t = { s with cores := t.cores } ∧
      ∀ j, t.core j = if j = k ∧ (s.core k).ramp ≠ 0 then { s.core k with ramp := ((s.core k).ramp + 1) % 5 } else s.core j) ∧
    (m.fwstat ≠ 2 → s.hostErr = false → exec .fwcmd s = .next { s with mgmt := { m with
      fwstat := 2, image := some ((List.range m.fwlen.toNat).map fun i => CMap.get s.hostMem (m.fwbase.toNat % 2 ^ 63 + i)) } }) ∧
    (m.fwstat ≠ 2 → s.hostErr = true → exec .fwcmd s = .next { s with mgmt := { m with fwstat := 2, image := none } }) ∧
    (m.fwstat = 2 → exec .fwcmd s = .next s) ∧
    (∀ i done, (m.fwstat ≠ 2 → exec (.fwVerifyDone i done) s = .next s) ∧
      (m.fwstat = 2 → m.image = none ∨ (∃ x, m.image = some x ∧ Config.imageVerified x = false) →
        exec (.fwVerifyDone i done) s = .next { s with mgmt := { m with fwstat := 3, image := none } }) ∧
      (∀ x, m.fwstat = 2 → m.image = some x → Config.imageVerified x = true → exec (.fwVerifyDone i done) s = .next { s with mgmt := { m with
        fwstat := if m.started = true ∨ done = true then 0 else 1, started := m.started || done, image := none
        measured := FMap.set m.measured i (Config.sha256 x) } })) ∧
    (m.attst ≠ 1 → m.attst ≠ 4 → m.leaves ≠ 0 →
      exec .attcmd s = .next { s with mgmt := { m with attst := 1, leaves := m.leaves - 1 } }) ∧
    (m.attst ≠ 1 → m.attst ≠ 4 → m.leaves = 0 → exec .attcmd s = .next { s with mgmt := { m with attst := 3 } }) ∧
    (m.attst = 1 ∨ m.attst = 4 → exec .attcmd s = .next { s with mgmt := { m with attst := 4 } }) ∧
    (∀ n, m.attst = 1 ∨ m.attst = 4 → 1 ≤ n → n ≤ 8 → s.hostErr = false → ∃ t, exec (.attestReportDone n) s = .next t ∧
      t = { s with hostMem := t.hostMem, mgmt := { m with attst := 2, attlen := BitVec.ofNat 16 (0x48 + 32 * n + 1772) } } ∧
      let b := m.attbuf.toNat % 2 ^ 63
      Memory.read t.hostMem b 32 = m.nonce.toNat ∧ Memory.read t.hostMem (b + 0x20) 4 = n ∧
      Memory.read t.hostMem (b + 0x24) 4 = m.mapver.toNat ∧
      Memory.read t.hostMem (b + 0x28) 32 = (Config.sha256 m.record).toNat ∧
      (∀ i, i < n → Memory.read t.hostMem (b + 0x48 + 32 * i) 32 = ((FMap.get? m.measured i).getD (Config.fwMeasurement i)).toNat) ∧
      ∀ a, a < b ∨ b + 0x48 + 32 * n + 1772 ≤ a → CMap.get t.hostMem a = CMap.get s.hostMem a)

/-- R24, R25, R23: the units that fail: each step is one event of the Build Map with its CAUSE and SUBJECT, changing the entries its
row names; a draining core retires once no gang and no Loom task is on it, and the lowest spare of its cluster takes its number, its Loom ramping; a
port the host disables is no event, of one that was down too, and a disabled port goes down by a fault (log 30); a retired island reads 2. R27: a
grace period that expires swaps the context out. The cycle counter of the core that takes the number starts at 0 (log 84, the model's choice). -/
def Obligations.DegradationSteps : Prop :=
  ∀ (s : State), Live.package s →
    (∀ i sub, i < 240 → sub < 4 → coreState s.mgmt i ≠ 2 → (s.mgmt.core i).getLsbD (24 + sub) = false →
      ∃ t, exec (.laneSpare i sub) s = .next t ∧
        MapEvent s t 1 i fun m => m.setCore i (s.mgmt.core i ||| (1#32 <<< (24 + sub)))) ∧
    (∀ i, i < 240 → coreState s.mgmt i = 0 → s.gangsOn ((s.mgmt.core i).extractLsb' 16 8).toNat = [] → ∃ t, exec (.coreDrain i) s = .next t ∧
      MapEvent s t 2 i fun m => { m.setCore i (withState (s.mgmt.core i) 3) with cores := m.cores - 1 }) ∧
    (∀ i k, i < 240 → coreState s.mgmt i = 3 → let c := ((s.mgmt.core i).extractLsb' 16 8).toNat
      (s.gangsOn c ≠ [] ∨ (s.core c).loom ≠ [] → exec (.coreRetire i) s = .next s) ∧
      (s.gangsOn c = [] → (s.core c).loom = [] → k < 10 → coreState s.mgmt (10 * (i / 10) + k) = 1 →
      (∀ j, j < k → coreState s.mgmt (10 * (i / 10) + j) ≠ 1) → ∃ t, exec (.coreRetire i) s = .next t ∧ t.core c = { ramp := 1 } ∧ t.groups = s.groups ∧ t.paths = s.paths ∧ t.mgmt.mapver = s.mgmt.mapver + 1 ∧
        t.mgmt.cause = 3 ∧ coreState t.mgmt i = 2 ∧ (t.mgmt.core i).extractLsb' 16 8 = 0xFF ∧ coreState t.mgmt (10 * (i / 10) + k) = 0 ∧
        ((t.mgmt.core (10 * (i / 10) + k)).extractLsb' 16 8).toNat = c ∧ t.mgmt.cores = s.mgmt.cores + 1)) ∧
    (∀ st c k, st < 8 → c < 34 → chanState s.mgmt (34 * st + c) = 0 → k < 34 → chanState s.mgmt (34 * st + k) = 1 →
      (∀ j, j < k → chanState s.mgmt (34 * st + j) ≠ 1) → ∃ t, exec (.channelSpare st c) s = .next t ∧ t.mgmt.mapver = s.mgmt.mapver + 1 ∧
        t.mgmt.cause = 4 ∧ chanState t.mgmt (34 * st + c) = 2 ∧ chanState t.mgmt (34 * st + k) = 0 ∧ t.mgmt.hbmgb = s.mgmt.hbmgb ∧
        t.mgmt.copying = s.mgmt.copying ++ [(st, ((s.mgmt.chan (34 * st + c)).extractLsb' 2 6).toNat)] ∧ t.groups = s.groups) ∧
    (∀ st c, st < 8 → c < 34 → chanState s.mgmt (34 * st + c) = 0 → (∀ j, j < 34 → chanState s.mgmt (34 * st + j) ≠ 1) →
      ∃ t, exec (.channelSpare st c) s = .next t ∧ MapEvent s t 5 (34 * st + c) fun m =>
        { m.setChan (34 * st + c) 0xFE with hbmgb := m.hbmgb - 2 }) ∧
    (∀ st c, exec (.channelCopyDone st c) s = .next { s with mgmt := { s.mgmt with copying := s.mgmt.copying.filter (· != (st, c)) } }) ∧
    (∀ sl w, sl < 48 → w < 16 → s.mgmt.l2 sl = 0xFFFF → s.mgmt.isl (120 + 4 * (sl / 12) + sl % 12 / 3) ≠ 2 →
      ∃ t, exec (.l2Way sl w) s = .next t ∧ MapEvent s t 12 sl fun m =>
        { m with l2Ent := FMap.set m.l2Ent sl ((0x1FFFF : BitVec 32) &&& ~~~(1#32 <<< w)) }) ∧
    (∀ sl w, sl < 48 → w < 17 → (s.mgmt.l2 sl).getLsbD 16 = true → (s.mgmt.l2 sl).getLsbD w = true →
      ∃ t, exec (.l2Way sl w) s = .next t ∧ MapEvent s t 12 sl fun m =>
        { m with l2Ent := FMap.set m.l2Ent sl (s.mgmt.l2 sl &&& ~~~(1#32 <<< w)), l2kib := m.l2kib - 256 }) ∧
    (∀ p, ((s.mgmt.port p).extractLsb' 0 2).toNat = 1 → exec (.portDown p) s = .next s) ∧
    (∀ p, p < 8 → ((s.mgmt.port p).extractLsb' 0 2).toNat ≠ 1 → ∃ t, exec (.portDown p) s = .next t ∧ t.mgmt.mapver = s.mgmt.mapver + 1 ∧
      t.mgmt.cause = 10 ∧ ((t.mgmt.port p).extractLsb' 0 2).toNat = 1 ∧ t.groups = s.groups ∧ t.paths = s.paths) ∧
    (∀ p, p < 8 → ∃ t, exec (.portDisable p) s = .next t ∧ t = { s with mgmt := { s.mgmt with portEnt := t.mgmt.portEnt } } ∧
      ((t.mgmt.port p).extractLsb' 0 2).toNat = 2) ∧
    (∀ i, 144 ≤ i → i < 152 → s.mgmt.isl i ≠ 2 → ∃ t, exec (.islandRetire i) s = .next t ∧ MapEvent s t 11 i fun m => m.setIsl i 2) ∧
    (∀ part ctx, let c := s.ctx part ctx
      (c.grace = false → exec (.graceExpiry part ctx) s = .next s) ∧
      (c.grace = true → c.swapst = 0 → c.acked ≠ s.mgmt.mapver → s.swaps = [] → s.gangsOf part ctx = [] → part < 9 → ctx < 64 →
        ∃ t, exec (.graceExpiry part ctx) s = .next t ∧ (t.ctx part ctx).swapst = 2 ∧ (t.ctx part ctx).suspmap = true ∧ t.swaps = []))

/-- R25, R42: a lane failure at PAM4 falls back to NRZ, at NRZ with the spare free steers it in and retrains once, with the
spare in use takes the link down; the retrain restores PAM4 or leaves NRZ without an event; after retraining the flits not
acknowledged are sent again, each under the next counter.

R38 to R41, R36: a response is matched by link, tag and generation and retires its request, a posted failure being kept for
the split's next fence; any other counts in LATE; a time-out advances the tag's generation and counts in TMOCNT; a held flag to local memory is
performed once nothing it covers is outstanding, and withheld, a posted failure 0x04 without a link, where what it covers has failed (log 57); one
for a node waits while its gang is off its cores or halted (log 101). When the last request of a path that has exited fails, FAILCNT of each link
rises by the failures that travelled on it. R48: a dropped packet counts in UUDDROP.

R44 to R47: a receiver accepts a flit that authenticates, whose counter exceeds the last under its slot and whose slot is not
superseded; an accepted franking flit supersedes the other slot; an acknowledgement retires the flits up to it, a NAK sends one again under the
next counter, and its eighth in a row is a lane failure of the link. KEYLOAD of the slot in use, or of either while a switch-over waits, and
KEYSWITCH to a slot never loaded set KEYERR; else they load and switch, the franking flit leaving first under the new slot. That a flit sent again
counts once more (log 28) and that a SWITCH to the slot in use is made like any other (log 80) are the model's choices. -/
def Obligations.Links : Prop :=
  (∀ (s : State) (l lane : Nat), Live.package s → l < 16 → lane < 16 →
     let e := s.mgmt.linkE l
     let k := s.link l
     let sig := fun (t : State) => ((t.mgmt.linkE l).extractLsb' 0 2).toNat
     ((e.extractLsb' 0 2).toNat = 0 → ∃ t, exec (.linkLaneFailure l lane) s = .next t ∧ sig t = 1 ∧ (t.link l).signal = 1 ∧
       (t.link l).retraining = true ∧ t.mgmt.cause = 6 ∧ t.mgmt.mapver = s.mgmt.mapver + 1 ∧ t.groups = s.groups) ∧
     ((e.extractLsb' 0 2).toNat = 1 → e.getLsbD 7 = false → ∃ t, exec (.linkLaneFailure l lane) s = .next t ∧ sig t = 1 ∧
       (t.mgmt.linkE l).getLsbD 7 = true ∧ ((t.mgmt.linkE l).extractLsb' 2 5).toNat = lane ∧ (t.link l).pam4 = true ∧ t.mgmt.cause = 7) ∧
     ((e.extractLsb' 0 2).toNat = 1 → e.getLsbD 7 = true → s.reqs = [] → ∃ t, exec (.linkLaneFailure l lane) s = .next t ∧ sig t = 2 ∧
       (t.link l).signal = 2 ∧ t.mgmt.cause = 9) ∧
     (k.pam4 = true → k.retry = [] → Idle s l → ∃ t, exec (.linkRetrainDone l true) s = .next t ∧ sig t = 0 ∧ (t.link l).signal = 0 ∧
       (t.link l).pam4 = false ∧ (t.link l).retraining = false ∧ t.mgmt.cause = 8) ∧
     (k.pam4 = true → k.retry = [] → Idle s l →
       exec (.linkRetrainDone l false) s = .next (s.putLink l { k with retraining := false, pam4 := false })) ∧
     (k.retraining = true → k.pam4 = false → k.retry = [] → Idle s l →
       exec (.retrainingDone l) s = .next (s.putLink l { k with retraining := false, pam4 := false })) ∧
     (k.retraining = true → k.pam4 = false → k.keyheld = false → k.signal ≠ 2 → (k.retry.map (·.seq)).Nodup → NoWarning k k.retry.length →
       Idle s l → ∃ t, exec (.retrainingDone l) s = .next t ∧ t = { s with links := t.links } ∧ (t.link l).retraining = false ∧
         (t.link l).retry = k.retry.map (fun x => { x with due := false }) ∧
         CMap.get (t.link l).cnt k.txslot.toNat = CMap.get k.cnt k.txslot.toNat + BitVec.ofNat 40 k.retry.length ∧
         ∀ j, j ≠ l → t.link j = s.link j)) ∧
  (∀ (s : State) (q : Req) (p : Path), s.reqs = [q] → FMap.get? s.paths q.path = some p → q.kind = 1 → q.sent = true → q.left = true →
     s.exits = [] → q.load = 0 → q.more = [] → q.covers = [] → q.link < 16 → q.orphan = false → (∃ r, s.runAt q.path = some r) →
     (∀ wk, (FMap.get? s.wgs wk).isSome = true → wk / 8 = q.path / 4096 → ∃ x ∈ s.paths, x.1 / 512 = wk) →
     let quietly := fun (t : State) (p' : Path) => t.reqs = [] ∧ FMap.get? t.paths q.path = some p' ∧ t.groups = s.groups ∧ MemSame s t ∧
       ∀ k, k ≠ q.path → FMap.get? t.paths k = FMap.get? s.paths k
     (∀ data, ∃ t, exec (.remoteResponse q.link q.tag q.gen.toNat 0 data) s = .next t ∧ quietly t p) ∧
     (∀ (code : BitVec 8) data, code ≠ 0 → ∃ t, exec (.remoteResponse q.link q.tag q.gen.toNat code data) s = .next t ∧
       quietly t { p with fails := p.fails ++ [⟨q.id, code, q.va, some q.link, true⟩] }) ∧
     (∀ (l tag gen : Nat) code data, l < 16 → l ≠ q.link ∨ tag ≠ q.tag ∨ gen ≠ q.gen.toNat →
       exec (.remoteResponse l tag gen code data) s = .next (s.putLink l { s.link l with
         late := if (s.link l).late = 0xFFFFFFFF then (s.link l).late else (s.link l).late + 1 })) ∧
     (∃ t, exec (.timeoutUnknown q.id) s = .next t ∧ quietly t { p with fails := p.fails ++ [⟨q.id, 1, q.va, some q.link, true⟩] } ∧
       CMap.get (t.link q.link).gens q.tag = q.gen + 1 ∧
       (t.link q.link).tmocnt = if (s.link q.link).tmocnt = 0xFFFFFFFF then (s.link q.link).tmocnt else (s.link q.link).tmocnt + 1) ∧
     (∀ f : Req, f.kind = 5 → f.sent = false → f.path = q.path → f.more = [] → f.orphan = false → f.id ≠ q.id →
       f.covers.contains f.id = false → f.len ≤ 8 →
       (f.covers.contains q.id = true → exec (.orderedFlagRelease f.id) { s with reqs := [q, f] } = .next { s with reqs := [q, f] }) ∧
       (f.covers.contains q.id = false → s.sidelog = [] → (∀ x ∈ s.selv.colls, x.2.held = []) →
         ∃ t, exec (.orderedFlagRelease f.id) { s with reqs := [q, f] } = .next t ∧ t.reqs = [q] ∧ t.groups = s.groups ∧
           (f.tainted = true → FMap.get? t.paths q.path = some { p with fails := p.fails ++ [⟨f.id, 4, f.va, none, true⟩] } ∧ MemSame s t) ∧
           (f.tainted = false → FMap.get? t.paths q.path = some p ∧
             ∀ a, CMap.get t.mem a = if f.addr.toNat ≤ a ∧ a < f.addr.toNat + f.len then f.data.extractLsb' (8 * (a - f.addr.toNat)) 8
               else CMap.get s.mem a))) ∧
     (∀ (f : Req) (g : Gang), f.kind = 4 → f.sent = false → f.path = q.path → f.id ≠ q.id → FMap.get? s.gangs (q.path / 4096) = some g →
       (g.status = 0 ∧ g.halted = true) ∨ g.status = 1 ∨ g.status = 2 →
       exec (.orderedFlagRelease f.id) { s with reqs := [q, f] } = .next { s with reqs := [q, f] }) ∧
     exec .uudPacketDrop s = .next { s with selv := { s.selv with
       uuddrop := if s.selv.uuddrop = 0xFFFFFFFF then s.selv.uuddrop else s.selv.uuddrop + 1 } }) ∧
  (∀ (s : State) (q : Req) (x : Exit) (code : BitVec 8) (data : BitVec 512), s.reqs = [q] → s.exits = [x] → q.orphan = true → q.exit = x.id → q.kind = 1 →
     q.sent = true → q.left = true → q.load = 0 → q.link < 16 → (∀ y ∈ s.selv.colls, y.2.held = []) → code ≠ 0 →
     ∃ t, exec (.remoteResponse q.link q.tag q.gen.toNat code data) s = .next t ∧ t.reqs = [] ∧ t.exits = [] ∧
       ∀ l, l < 16 → (t.link l).failcnt.toNat = min ((s.link l).failcnt.toNat +
         ((x.fails ++ [(⟨q.id, code, q.va, some q.link, true⟩ : PostFail)]).filter fun f => f.posted && f.link == some l).length) (2 ^ 32 - 1)) ∧
  (∀ (s : State) (l n : Nat), l < 16 → n < 2 →
     let k := s.link l
     let slot := if n = 0 then k.slot0 else k.slot1
     (∀ counter fr seq ack, k.signal ≠ 2 → slot.rxdead = false → (∀ c, slot.rxlast = some c → c.toNat < counter.toNat) → Idle s l →
       (∀ x ∈ k.retry, x.due = false) →
       ∃ k', exec (.flitReceive l n counter true fr false seq ack) s = .next (s.putLink l k') ∧
         (if n = 0 then k'.slot0 else k'.slot1) = { slot with rxlast := some counter } ∧
         (if n = 0 then k'.slot1 else k'.slot0) = { (if n = 0 then k.slot1 else k.slot0) with
           rxdead := if fr = true then true else (if n = 0 then k.slot1 else k.slot0).rxdead } ∧
         k' = { k with slot0 := k'.slot0, slot1 := k'.slot1, retry := k'.retry } ∧
         ((∀ x ∈ k.retry, x.seq ≠ ack) → k'.retry = k.retry) ∧
         (∀ a x b, k.retry = a ++ x :: b → x.seq = ack → (∀ y ∈ a, y.seq ≠ ack) → k'.retry = b)) ∧
     (∀ counter auth fr nak seq ack, auth = false ∨ slot.rxdead = true ∨ (∃ c, slot.rxlast = some c ∧ counter.toNat ≤ c.toNat) →
       exec (.flitReceive l n counter auth fr nak seq ack) s = .next s) ∧
     (∀ seq, (∀ x ∈ k.retry, x.seq ≠ seq) → exec (.flitNak l seq) s = .next s) ∧
     (∀ a x b, k.retry = a ++ x :: b → (k.retry.map (·.seq)).Nodup → (∀ y ∈ k.retry, y.due = false) → Idle s l → k.keyheld = false →
       k.retraining = false → k.signal ≠ 2 → NoWarning k 1 →
       (x.fails < 7 → ∃ t, exec (.flitNak l x.seq) s = .next t ∧ t = { s with links := t.links } ∧ (∀ j, j ≠ l → t.link j = s.link j) ∧
         (t.link l).retry = a ++ { x with fails := x.fails + 1 } :: b ∧
         CMap.get (t.link l).cnt k.txslot.toNat = CMap.get k.cnt k.txslot.toNat + 1) ∧
       (7 ≤ x.fails → Live.package s → ((s.mgmt.linkE l).extractLsb' 0 2).toNat = 0 → ∃ t, exec (.flitNak l x.seq) s = .next t ∧
         t.mgmt.cause = 6 ∧ t.mgmt.mapver = s.mgmt.mapver + 1 ∧ (t.link l).signal = 1 ∧ (t.link l).retraining = true ∧
         (t.link l).retry = a ++ { x with fails := 0 } :: b)) ∧
     (k.txslot.toNat = n ∨ k.switching = true → exec (.keyLoad l n) s = .next (s.putLink l { k with keyerr := true })) ∧
     (k.txslot.toNat ≠ n → k.switching = false → ∃ k', exec (.keyLoad l n) s = .next (s.putLink l k') ∧
       (if n = 0 then k'.slot0 else k'.slot1) = { k.stage with loaded := true, rxlast := none, rxdead := false, full := false } ∧
       (if n = 0 then k'.slot1 else k'.slot0) = (if n = 0 then k.slot1 else k.slot0) ∧ CMap.get k'.cnt n = 0 ∧
       k' = { k with slot0 := k'.slot0, slot1 := k'.slot1, cnt := k'.cnt, cmdslot := BitVec.ofNat 1 n }) ∧
     (slot.loaded = false → exec (.keySwitch l n) s = .next (s.putLink l { k with keyerr := true })) ∧
     (slot.loaded = true → let switched := { k with txslot := BitVec.ofNat 1 n, cmdslot := BitVec.ofNat 1 n, frankack := false, switching := true }
       (slot.full = true ∨ k.retraining = true ∨ k.signal = 2 →
         exec (.keySwitch l n) s = .next (s.putLink l { switched with keyheld := slot.full, frank := true })) ∧
       (slot.full = false → k.retraining = false → k.signal ≠ 2 → k.retry.length < 256 → (∀ x ∈ k.retry, x.due = false) → Idle s l →
         NoWarning { k with txslot := BitVec.ofNat 1 n } 1 → ∃ t, exec (.keySwitch l n) s = .next t ∧ t = { s with links := t.links } ∧
           (∀ j, j ≠ l → t.link j = s.link j) ∧ t.link l = { switched with
             keyheld := false, frank := false, slot0 := (t.link l).slot0, slot1 := (t.link l).slot1, cnt := (t.link l).cnt
             txseq := k.txseq + 1, retry := k.retry ++ [{ seq := k.txseq.toNat }] } ∧
           CMap.get (t.link l).cnt n = CMap.get k.cnt n + 1)) ∧
     (k.switching = true → exec (.frankingAck l) s = .next (s.putLink l { k with frankack := true, switching := false })) ∧
     (k.switching = false → exec (.frankingAck l) s = .next s))

/-- R76, R79, R85, R149: a TAIL is taken up to the ring's capacity, beyond it sets ERR; a fetched record, launch or marker, is rejected with
BAD_KIND, BAD_RECORD, STALE_MAP or NO_FIT, in that order of checks, or accepted with the record's fields; HEAD passes it either way. A record that
cannot be read, or whose queue is not ready, waits. A notification is sixteen bytes at HEAD, counted as lost where there is no room.

R80, R193, R77: KILL marks the launch killed, ends every path of its gangs and posts KILLED; of a record that is complete it does
nothing. A launch whose gangs have all retired and whose settle group, if it waits for one, has settled, or a marker whose queue holds nothing
earlier, completes: its completion word is written where asked and its record goes; before that nothing happens.

The model's choices: KILLED is posted at the kill, and not once the gangs have drained (log 40); DONESCOPE is checked with DONEEN 0 too, and a
marker's fields like a launch's (log 31); a killed launch does not wait for its settle group (log 93), and NO_FIT counts no draining core as live (log 92). -/
def Obligations.Launches : Prop :=
  (∀ (s : State) (part queue : Nat),
     let qk := 16 * part + queue
     let q := s.queue qk
     (∀ v : BitVec 32, (queue < 16 → q.log ≠ 0 → Hosted s part → exec (.tail part queue v) s = .next (s.putQueue qk
       (if (v - q.head).toNat ≤ 2 ^ q.log then { q with tail := v } else { q with err := true }))) ∧
       (¬ Hosted s part → exec (.tail part queue v) s = .next s)) ∧
     (∀ fn hole n (v : BitVec 32), hole < 256 → s.holeOwner hole = some n → s.fnPart fn = some n → (s.hole hole).hostfed = true →
       (s.hole hole).log ≠ 0 → exec (.pigeonholeTail fn hole v) s = .next (s.putHole hole
         (if (v - (s.hole hole).head).toNat ≤ 2 ^ (s.hole hole).log then { s.hole hole with tail := v, again := (s.hole hole).waits }
           else { s.hole hole with err := (s.hole hole).err ||| 1 }))) ∧
     (¬ Fetchable s part queue → exec (.launchRecordFetch part queue) s = .next s) ∧
     (Fetchable s part queue → ∀ y s0,
       s.readAddr part q.ctx (q.base + BitVec.ofNat 64 (128 * (q.head.toNat % 2 ^ q.log))) 128 = (y, s0) →
       (y = none → exec (.launchRecordFetch part queue) s = .next s0) ∧
       ∀ bs, y = some bs →
       let x := leNat bs
       let s1 := s0.putQueue qk { q with head := q.head + 1 }
       (∀ c u, s1.checkRecord part q.ctx x = (.error c, u) → exec (.launchRecordFetch part queue) s = .next (u.notify part 4
         (match c with | .badKind => 1 | .badRecord => 2 | .staleMap => 3 | .noFit => 4) q.ctx q.head)) ∧
       (∀ r u, s1.checkRecord part q.ctx x = (.ok r, u) → exec (.launchRecordFetch part queue) s = .next { u with
         launches := FMap.set u.launches ((16 * part + queue) * 2 ^ 32 + q.head.toNat)
           { part := part, queue := queue, index := q.head, ctx := q.ctx, record := r, next := 0, started := false, killed := false
             chip := [], ktags := [], chipDies := [0, 0, 0, 0], prio := q.prio } })) ∧
     (∀ ctx x, let y := s.checkRecord part ctx x
       let kind := field x 0 1
       let wgs := field x 0x0E 2 % 8 + 1
       let grps := field x 0x0E 2 / 8 % 16 + 1
       let bad := field x 1 1 / 4 ≠ 0 ∨ field x 2 2 / 4 ≠ 0 ∨ field x 0x0E 2 / 128 ≠ 0 ∨ field x 0x50 4 / 32 ≠ 0 ∨ field x 0x54 44 ≠ 0 ∨
         field x 0x50 4 % 16 < 3 ∨ 4 < field x 0x50 4 % 16 ∨ field x 0x40 8 % 8 ≠ 0 ∨ 1 < field x 2 2 % 4 ∨
         field x 8 2 = 0 ∨ field x 10 2 = 0 ∨ field x 12 2 = 0 ∨ 16 < field x 0x14 1 % 32 ∨ 1024 < field x 0x16 2 % 2048 ∨
         512 < field x 0x18 4 % 1024 ∨ 65536 < field x 0x1C 4 % 2 ^ 17 ∨ (field x 1 1 / 2 % 2 = 1 ∧ (s.ctx part ctx).sgn ≤ field x 0x32 2)
       let fits := (∃ cl k, cl < 24 ∧ (s.part part).pclust.getLsbD cl = true ∧ k + wgs ≤ 8 ∧ ∀ w, w < wgs → s.mgmt.liveCore (8 * cl + k + w) = true) ∧
         2048 * grps * (field x 0x14 1 % 32) ≤ 131072 ∧ wgs * ((field x 0x16 2 % 2048 + 63) / 64) ≤ s.pool part
       (kind ≠ 1 → kind ≠ 2 → y = (.error .badKind, s)) ∧
       (kind = 1 ∨ kind = 2 →
         (bad → y = (.error .badRecord, s)) ∧
         (y.1 = .error .badKind → False) ∧
         (∀ z u, ¬ bad → recordClean x = true → s.recordTables part ctx x (parseRecord x) = (z, u) →
           (z = none → y = (.error .badRecord, u)) ∧
           (∀ r, z = some r →
             (BitVec.ofNat 32 (field x 4 4) ≠ s.mgmt.mapver → y = (.error .staleMap, u)) ∧
             (BitVec.ofNat 32 (field x 4 4) = s.mgmt.mapver →
               ((s.part part).pst = 2 ∨ ¬ fits → y = (.error .noFit, u)) ∧ ((s.part part).pst ≠ 2 → fits → y = (.ok r, u)))))) ∧
       ∀ r, y.1 = .ok r → r.kind = kind ∧ r.gx = field x 8 2 ∧ r.gy = field x 10 2 ∧ r.gz = field x 12 2 ∧
         r.wgs = wgs ∧ r.grps = grps ∧ r.args.toNat = field x 0x38 8 ∧
         r.doneAddr.toNat = field x 0x40 8 ∧ r.doneVal.toNat = field x 0x48 8 ∧ r.mapver = s.mgmt.mapver ∧ (s.part part).pst ≠ 2) ∧
     (∀ fn kind code ctx (detail : BitVec 32), kind < 256 → code < 256 → ctx < 65536 →
       let f := s.fn fn
       (4 ≤ f.log → (f.head - f.tail).toNat < 2 ^ f.log → f.base.msb = true → s.hostErr = false → ∃ m, s.notify fn kind code ctx detail =
           { s with hostMem := m }.putFn fn { f with head := f.head + 1, msix := f.msix + 1 } ∧
         let a := f.base.toNat % 2 ^ 63 + 16 * (f.head.toNat % 2 ^ f.log)
         Memory.read m a 16 = kind + 2 ^ 8 * code + 2 ^ 16 * ctx + 2 ^ 32 * detail.toNat ∧
         ∀ x, x < a ∨ a + 16 ≤ x → CMap.get m x = CMap.get s.hostMem x) ∧
       (f.log < 4 ∨ 2 ^ f.log ≤ (f.head - f.tail).toNat → s.notify fn kind code ctx detail = s.putFn fn { f with lost := f.lost + 1 }))) ∧
  (∀ (s : State) (part queue : Nat) (index : BitVec 32),
     let k := (16 * part + queue) * 2 ^ 32 + index.toNat
     (FMap.get? s.launches k = none ∨ ¬ Hosted s part → exec (.kill part queue index) s = .next s) ∧
     (∀ l, FMap.get? s.launches k = some l → l.killed = false → Hosted s part →
       ∃ t, exec (.kill part queue index) s = .next t ∧ (FMap.get? t.launches k).map (·.killed) = some true ∧
         (∀ gid g, FMap.get? s.gangs gid = some g → g.src = .launch k → g.status ≠ 4 → g.status ≠ 5 →
           ∀ j, j / 4096 = gid → FMap.get? t.paths j = none) ∧
         ((∀ x ∈ s.gangs, x.2.src ≠ .launch k) →
           t = { s with launches := FMap.set s.launches k { l with killed := true } }.notify l.part 5 0 l.ctx l.index)) ∧
     (∀ j l, FMap.get? s.launches j = some l →
       let at_ := (s.ctx l.part l.ctx).sgbase.toNat % 2 ^ 63 + 16 * l.record.sgrp
       let group := (s.ctx l.part l.ctx).sgbase.msb = true ∧ at_ < 2 ^ 63 ∧ s.hostErr = false
       (l.record.kind ≠ 2 → (∃ x ∈ s.gangs, x.2.src = .launch j ∧ x.2.status ≠ 4) → exec (.launchComplete j) s = .next s) ∧
       (l.record.kind ≠ 2 → l.killed = false → l.next ≠ l.record.gx * l.record.gy * l.record.gz → exec (.launchComplete j) s = .next s) ∧
       (l.record.kind ≠ 2 → l.killed = false → l.record.settled = true → group → Memory.read s.hostMem at_ 4 ≠ 0 →
         exec (.launchComplete j) s = .next s) ∧
       (l.record.kind = 2 → ¬ EarliestIn s l → exec (.launchComplete j) s = .next s) ∧
       ((l.record.kind = 2 ∧ EarliestIn s l) ∨ (l.record.kind ≠ 2 ∧ (∀ x ∈ s.gangs, x.2.src = .launch j → x.2.status = 4) ∧
           (l.killed = true ∨ (l.next = l.record.gx * l.record.gy * l.record.gz ∧
             (l.record.settled = false ∨ (group ∧ Memory.read s.hostMem at_ 4 = 0))))) →
         ∃ t, exec (.launchComplete j) s = .next t ∧ (∀ i, FMap.get? t.launches i = if i = j then none else FMap.get? s.launches i) ∧
           t.groups = s.groups ∧ t.paths = s.paths ∧ (l.record.doneEn = false → MemSame s t) ∧
           (l.record.doneEn = true → l.record.doneAddr.msb = true → s.hostErr = false → t.mem = s.mem ∧
             let a := l.record.doneAddr.toNat % 2 ^ 63
             Memory.read t.hostMem a 8 = l.record.doneVal.toNat ∧
             ∀ x, x < a ∨ a + 8 ≤ x → CMap.get t.hostMem x = CMap.get s.hostMem x))))

/-- R74, R72, R148, R85: a partition is enabled where its clusters are in no other, halted at once in a package that needs a reset or where its
clusters have no core left, with PARTITION_HALTED posted, and disabled without gangs placed or swapped out; a change of the virtual functions ends the partitions that lose
their function, killing their launches; a pigeonhole mask is taken unless it would give one two owners, or take one with dockets in it from its
owner.

R6, R47, R75, R81, R85, R102, R109: a write of a device register of the physical function: a value in range is taken, one out of range
leaves it or is clamped, write-one-to-clear bits clear, read-only offsets ignore it. R5, R6, R20, R72, R148: a read of a device register
answers its value, and zero for reserved bits, for write-only registers, and at every offset that the function does not expose: PF0 with
virtual functions enabled exposes its own registers and the management window, a virtual function no management window, PF1 its own
registers alone. R84: RESCLR forgets a context's filters. R104: a host's aperture write is seen at once where no gang of the context is
left, else as its paths pass switch points.

R160, R161: a SEALGRP word with bit 17 clears SEALERR; its group is sealed member by member, SEALBUSY until the last, and a group named
meanwhile is ignored; a group at or above SGN, or one whose table or members cannot be read, sets SEALERR, as does a member that cannot be
sealed. R109: an invalidation is busy until it is done and drops the cached translations it names, all of the partition or those of one
page.

The model's choices: a SEALGRP word with bit 17 clears SEALERR and names its group too, also while busy, and a misaligned member sets SEALERR
(log 45); the bases of the notification and syscall rings change at once (log 68); a core that drains counts for R85 (log 92). -/
def Obligations.PartitionsAndHostRegisters : Prop :=
  (∀ (s : State) (part : Nat), part < 9 →
     let p := s.part part
     let may := if part = 0 then s.vfEn = false else Hosted s part
     let clash := ∃ n, n < 9 ∧ n ≠ part ∧ s.partEn n = true ∧ (s.part n).pclust &&& p.pclust ≠ 0
     let out := fun g : Gang => g.part = part ∧ g.ctx < 64 ∧ (g.status = 0 ∨ g.status = 2 ∨ (g.status = 5 ∧ g.cluster ≠ 1000))
     let core := ∃ cl n, cl < 24 ∧ n < 10 ∧ p.pclust.getLsbD cl = true ∧
       (coreState s.mgmt (10 * cl + n) = 0 ∨ coreState s.mgmt (10 * cl + n) = 3)
     (s.partEn part = false → p.pclust ≠ 0 → may → ¬ clash →
       let on := fun x : BitVec 2 => s.putPart part { p with en := true, ending := false, pst := x }
       (s.mgmt.needsReset = false → core → exec (.partitionEn part true) s = .next (on 1)) ∧
       (s.mgmt.needsReset = false → ¬ core → exec (.partitionEn part true) s =
         .next (if part = 0 then (on 2).notify 0 10 0 0 2 else ((on 2).notify 0 10 0 0 2).notify part 10 0 0 2)) ∧
       (s.mgmt.needsReset = true → ∃ t, exec (.partitionEn part true) s = .next t ∧
         t.part part = { p with en := true, ending := false, pst := 2 })) ∧
     (s.partEn part = true ∨ p.pclust = 0 ∨ ¬ may ∨ clash → exec (.partitionEn part true) s = .next s) ∧
     ((∀ x ∈ s.gangs, ¬ out x.2) → exec (.partitionEn part false) s = .next (s.putPart part
       { p with en := false, ending := false, pst := if s.mgmt.needsReset = true then p.pst else 0 })) ∧
     ((∃ x ∈ s.gangs, out x.2) → exec (.partitionEn part false) s = .next s) ∧
     (∀ en n, let gone := fun k => s.partEn k = true ∧ if k = 0 then en = true else en = false ∨ n < k
       (s.launches = [] → ∃ t, exec (.vfEnableChange en n) s = .next t ∧ t = { s with vfEn := en, numVfs := n, parts := t.parts } ∧
         (gone part → t.part part = { p with ending := true }) ∧ (¬ gone part → t.part part = p)) ∧
       (∃ t, exec (.vfEnableChange en n) s = .next t ∧ t.vfEn = en ∧ t.numVfs = n ∧
         ∀ k l, FMap.get? s.launches k = some l → l.part < 9 → gone l.part → (FMap.get? t.launches k).map (·.killed) = some true)) ∧
     (∀ die (mask : BitVec 64), die < 4 →
       ((∀ n, n < 9 → n ≠ part → CMap.get (s.part n).phmask die &&& mask = 0) →
         (∀ h, h < 64 → (CMap.get p.phmask die).getLsbD h = true → mask.getLsbD h = false →
           (s.hole (64 * die + h)).head = (s.hole (64 * die + h)).tail) →
         exec (.phmask part die mask) s = .next (s.putPart part { p with phmask := CMap.set p.phmask die mask })) ∧
       ((∃ n, n < 9 ∧ n ≠ part ∧ CMap.get (s.part n).phmask die &&& mask ≠ 0) ∨
         (∃ h, h < 64 ∧ (CMap.get p.phmask die).getLsbD h = true ∧ mask.getLsbD h = false ∧
           (s.hole (64 * die + h)).head ≠ (s.hole (64 * die + h)).tail) → exec (.phmask part die mask) s = .next s))) ∧
  (∀ (s : State) (v : BitVec 64),
     let f := s.fn 0
     exec (.registerWrite 0 0x00 v) s = .next (s.putFn 0 { f with base := v }) ∧
     (v.toNat % 32 = 0 ∨ 4 ≤ v.toNat % 32 ∧ v.toNat % 32 ≤ 12 →
       exec (.registerWrite 0 0x08 v) s = .next (s.putFn 0 { f with log := v.toNat % 32 })) ∧
     (v.toNat % 32 ≠ 0 → v.toNat % 32 < 4 ∨ 12 < v.toNat % 32 → exec (.registerWrite 0 0x08 v) s = .next (s.putFn 0 f)) ∧
     exec (.registerWrite 0 0x0C v) s = .next (s.putFn 0 f) ∧
     (Hosted s 0 →
       (∀ q, q < 16 → (s.queue q).head = (s.queue q).tail →
         exec (.registerWrite 0 (0x10000 + 0x40 * q) v) s = .next (s.putQueue q { s.queue q with base := v })) ∧
       (∀ c, c < 64 →
         (v ≠ 0 ∨ s.gangs = [] →
           exec (.registerWrite 0 (0x20000 + 0x100 * c + 0x68) v) s = .next (s.putCtx 0 c { s.ctx 0 c with hentry := v })) ∧
         exec (.registerWrite 0 (0x20000 + 0x100 * c + 0x08) v) s = .next (s.putCtx 0 c { s.ctx 0 c with sysbase := v }))) ∧
     (¬ Hosted s 0 → ∀ off, 0x1000 ≤ off → off < 0x30000 → exec (.registerWrite 0 off v) s = .next s) ∧
     (∀ l, l < 16 →
       exec (.registerWrite 0 (0x40000 + 0x100 * l) v) s = .next (s.putLink l { s.link l with
         tmo := BitVec.ofNat 24 (max 10000 (min (v.toNat % 2 ^ 24) 10000000)) }) ∧
       exec (.registerWrite 0 (0x40000 + 0x100 * l + 4) v) s = .next (s.putLink l { s.link l with
         keywarn := (s.link l).keywarn && !v.getLsbD 4, keyerr := (s.link l).keyerr && !v.getLsbD 6 })) ∧
     (∀ n, n < 9 → exec (.registerWrite 0 (0x61000 + 0x40 * n) v) s = .next (s.putPart n { s.part n with ptroot := v })) ∧
     (∀ part ctx, (Hosted s part → exec (.resclr part ctx) s = .next { s with filters := s.filters.filter fun x => x.2.1 != 64 * part + ctx }) ∧
       (¬ Hosted s part → exec (.resclr part ctx) s = .next s)) ∧
     (∀ part ctx n, n < 8 → Hosted s part →
       let c := s.ctx part ctx
       let x := v &&& 0x07FFFFFFFFFFFFFF
       let mine := fun k => ∃ g, FMap.get? s.gangs (k / 4096) = some g ∧ g.part = part ∧ g.ctx = ctx
       (∃ t, exec (.apertureHostWrite part ctx n v) s = .next t ∧ t = { s with ctxs := t.ctxs, paths := t.paths } ∧
         t.ctx part ctx = { c with aper := CMap.set c.aper n x } ∧
         ∀ k p, FMap.get? s.paths k = some p → ∃ p', FMap.get? t.paths k = some p' ∧ (¬ mine k → p' = p) ∧
           (mine k → c.swapst = 2 → p'.aper = CMap.set p.aper n x) ∧
           (mine k → c.swapst ≠ 2 → (∃ g, (k / 4096, g) ∈ s.gangs ∧ g.part = part ∧ g.ctx = ctx ∧ g.status ≠ 4 ∧ g.status ≠ 5) → p'.aper = p.aper)))) ∧
  (∀ (s : State),
     let val := s.registerRead
     let vf := fun fn => 1 ≤ fn ∧ Hosted s fn
     (∀ fn off, off % 4 = 0 → (val fn off = none ↔ ¬ (fn = 0 ∨ vf fn ∨ (fn = 9 ∧ s.mgmt.isl 173 ≠ 2)))) ∧
     (∀ fn, fn = 0 ∨ vf fn →
       let f := s.fn fn
       val fn 0x00 = some (f.base.extractLsb' 0 32) ∧ val fn 0x04 = some (f.base.extractLsb' 32 32) ∧ val fn 0x08 = some (BitVec.ofNat 32 f.log) ∧
         val fn 0x0C = some f.head ∧ val fn 0x10 = some f.tail ∧ val fn 0x14 = some f.lost ∧
         (∀ off, off % 4 = 0 → 0x18 ≤ off → off < 0x1000 → val fn off = some 0) ∧
       (∀ h off, h < 256 → off % 4 = 0 → off < 0x20 → ¬ Hosted s fn ∨ s.holeOwner h ≠ some fn → val fn (0x1000 + 0x20 * h + off) = some 0) ∧
       (∀ h, h < 256 → Hosted s fn → s.holeOwner h = some fn → let x := s.hole h
         val fn (0x1000 + 0x20 * h + 0x0C) = some x.tail ∧ val fn (0x1000 + 0x20 * h + 0x10) = some x.head ∧
         ∃ e : BitVec 32, val fn (0x1000 + 0x20 * h + 0x14) = some e ∧ ∀ i, i < 32 → e.getLsbD i = (decide (i < 3) && x.err.getLsbD i)) ∧
       (¬ Hosted s fn → ∀ off, off % 4 = 0 → 0x3000 ≤ off → off < 0x30000 → val fn off = some 0) ∧
       (Hosted s fn → ∀ q c, q < 16 → c < 64 → let x := s.queue (16 * fn + q)
         let y := s.ctx fn c
         val fn (0x10000 + 0x40 * q + 0x0C) = some 0 ∧ val fn (0x10000 + 0x40 * q + 0x10) = some x.head ∧
         val fn (0x10000 + 0x40 * q + 0x14) = some (if x.err = true then 1 else 0) ∧ val fn (0x10000 + 0x40 * q + 0x18) = some 0 ∧
         val fn (0x20000 + 0x100 * c + 0x14) = some y.syshead ∧ val fn (0x20000 + 0x100 * c + 0x18) = some y.systail ∧
         val fn (0x20000 + 0x100 * c + 0x44) = some 0 ∧
         val fn (0x20000 + 0x100 * c + 0x68) = some (y.hentry.extractLsb' 0 32) ∧
         (∃ e : BitVec 32, val fn (0x20000 + 0x100 * c + 0x64) = some e ∧
           ∀ i, i < 32 → e.getLsbD i = (decide (i = 16) && y.sealing.isSome || decide (i = 17) && y.sealerr)) ∧
         val fn (0x20000 + 0x100 * c + 0x90) = some 0 ∧ val fn (0x20000 + 0x100 * c + 0x94) = some (y.dbg.status.setWidth 32) ∧
         ∀ n, n < 8 → val fn (0x20000 + 0x100 * c + 0xC0 + 8 * n) = some ((CMap.get y.aper n).extractLsb' 0 32) ∧
           val fn (0x20000 + 0x100 * c + 0xC4 + 8 * n) = some ((CMap.get y.aper n).extractLsb' 32 32))) ∧
     (∀ fn off, vf fn → off % 4 = 0 → 0x30000 ≤ off → val fn off = some 0) ∧
     (∀ off, s.mgmt.isl 173 ≠ 2 → off % 4 = 0 → 0x1000 ≤ off → val 9 off = some 0) ∧
     (∀ i, i < 512 → val 0 (0x30000 + 4 * i) = some (BitVec.ofNat 32 (leNat ((s.mgmt.record.drop (4 * i)).take 4)))) ∧
     val 0 0x30800 = some (s.mgmt.fwstat.setWidth 32) ∧ val 0 0x30814 = some 0 ∧ val 0 0x3084C = some (s.mgmt.attst.setWidth 32) ∧
     (∀ i, i < 8 → val 0 (0x30820 + 4 * i) = some 0) ∧
     (∀ l, l < 16 → val 0 (0x40000 + 0x100 * l + 0x1C) = some (s.link l).late ∧
       ∀ i, i < 20 → val 0 (0x40000 + 0x100 * l + 0x80 + 4 * i) = some 0) ∧
     val 0 0x50014 = some (BitVec.ofNat 32 ((s.selv.jobs.filter fun x => x.2.running).length)) ∧
     (∀ n, n < 9 → val 0 (0x60000 + 0x20 * n + 4) = some (if s.partEn n = true then 1 else 0) ∧ val 0 (0x61000 + 0x40 * n + 0x10) = some 0)) ∧
  (∀ (s : State) (part : Nat), part < 9 →
     (∀ ctx (v : BitVec 32), (¬ Hosted s part → exec (.sealgrp part ctx v) s = .next s) ∧
       (Hosted s part →
         let c := s.ctx part ctx
         let g := (v.extractLsb' 0 16).toNat
         let s0 := if v.getLsbD 17 = true then s.putCtx part ctx { c with sealerr := false } else s
         let erred := fun u : State => u.putCtx part ctx { u.ctx part ctx with sealerr := true }
         (c.sealing ≠ none → exec (.sealgrp part ctx v) s = .next s0) ∧
         (c.sealing = none → c.sgn ≤ g → exec (.sealgrp part ctx v) s = .next (erred s0)) ∧
         (∀ m u, c.sealing = none → g < c.sgn → s0.members part ctx g = (m, u) →
           (m = none → exec (.sealgrp part ctx v) s = .next (erred u)) ∧
           (∀ a, m = some (a, 0) → exec (.sealgrp part ctx v) s = .next u) ∧
           (∀ a n, m = some (a, n + 1) → exec (.sealgrp part ctx v) s =
             .next (u.putCtx part ctx { u.ctx part ctx with sealing := some (a, n + 1, 0) }))))) ∧
     (∀ ctx, ((s.ctx part ctx).sealing = none → s.sealStep part ctx = s) ∧
       (∀ a n i y u, (s.ctx part ctx).sealing = some (a, n, i) → s.readVA part ctx 2 (a.toNat + 8 * i) 8 = (y, u) →
         let next := if i + 1 < n then some (a, n, i + 1) else none
         let bad := s.sealStep part ctx = u.putCtx part ctx { u.ctx part ctx with sealerr := true, sealing := next }
         (y = none → bad) ∧
         (∀ bs, y = some bs → let va := BitVec.ofNat 64 (leNat bs)
           (∀ t, va.toNat % 64 = 0 → u.sealHdr (.g part ctx va) = some t →
             s.sealStep part ctx = t.putCtx part ctx { t.ctx part ctx with sealing := next }) ∧
           (va.toNat % 64 ≠ 0 ∨ u.sealHdr (.g part ctx va) = none → bad)))) ∧
     (let p := s.part part
      (p.invbusy = true → exec (.invalidateAll part) s = .next s ∧ exec (.invalidatePage part) s = .next s) ∧
      (p.invbusy = false → s.sidelog = [] → (∀ x ∈ s.gangs, x.2.insts = []) → s.holes = [] →
        exec (.invalidateAll part) s = .next ({ s with tlb := s.tlb.filter fun x => x.1 / 2 ^ 36 != part }.putPart part
          { p with invbusy := true, invall := true }) ∧
        ∃ t, exec (.invalidatePage part) s = .next t ∧ t = { s with tlb := t.tlb, parts := t.parts } ∧
          t.part part = { p with invbusy := true, invall := false } ∧
          ∀ x, x ∈ t.tlb ↔ x ∈ s.tlb ∧ x.1 ≠ tlbKey part p.invia.toNat ∧
            ¬ (x.2.getLsbD 28 = true ∧ x.1 / 32 = tlbKey part p.invia.toNat / 32)) ∧
      exec (.invalidationDone part) s = .next (s.putPart part { p with invbusy := false, invall := false })))

/-- R131, R133, R90, R129, R150: the next gang of a launch, or the gang of a running wave task or parcel handler, is placed at the lowest
place that qualifies, else it is not placed: its number is the context's next SEQ (a number that a gang of the context has is passed over:
the model's choice, log 81), rank w is on the core at position p + w, and every group starts with one split of 32 lanes at its entry,
registers zero but for its arguments.

R142, R192, R25, R98, R109, R141, R147, R187: a quiet gang that does not lead, where a docket of higher priority or another context's launch
waits, or one on a draining core, can be taken off its cores, its registers and
memories kept, its paths stopped with 0x23, or 0x21 at their BRK; one that leads stays while no core of it drains; it migrates to a place where it
fits with what it holds, else stays, and from a draining core it goes to the lowest place that qualifies; it resumes at the lowest such place, its
paths' STOP 0 again unless it is halted, under the pool size in force; where only banks are wanting it claims them, else it waits. -/
def Obligations.Gangs : Prop :=
  (∀ (s : State) (cl p : Nat),
     (∀ k l, Due s k l → (∀ c x, c < 24 → x < 8 → s.fits (launchNeeds l) c x = false) → exec (.gangPlace k false) s = .next s) ∧
     (∀ k l seq, Due s k l → SeqIs s l.part l.ctx seq → Lowest (s.fits (launchNeeds l)) (List.range 24) cl p → l.record.sched = [] →
       l.record.wgs ≤ 8 → l.record.grps ≤ 16 →
       let r := l.record
       let gid := 2 ^ 32 * (64 * l.part + l.ctx) + seq.toNat
       let stage := fun w => (r.stagemap.toNat / 2 ^ (4 * w)) % 16
       ∃ t g, exec (.gangPlace k false) s = .next t ∧ FMap.get? t.gangs gid = some g ∧ g.src = .launch k ∧ g.cluster = cl ∧ g.pos = p ∧
         g.nwg = r.wgs ∧ g.seq = seq ∧ g.linear = l.next ∧ g.gx = l.next % r.gx ∧ g.gy = l.next / r.gx % r.gy ∧
         g.gz = l.next / (r.gx * r.gy) ∧ g.status = 0 ∧ g.evc = [] ∧ g.stageCtr = 0 ∧ g.cmem = [] ∧
         (FMap.get? t.launches k).map (·.next) = some (l.next + 1) ∧ (t.ctx l.part l.ctx).nextSeq = seq + 1 ∧
         ∀ w j, w < r.wgs → j < r.grps →
           (∃ x, FMap.get? t.wgs (8 * gid + w) = some x ∧ x.core = 8 * cl + p + w ∧ x.stage = stage w ∧ x.ngrp = r.grps ∧ x.slice = r.slice ∧
             x.spages = r.scratch ∧ x.scratch = [] ∧ x.slices = [] ∧ x.acc = none) ∧
           Fresh t (16 * (8 * gid + w) + j) (fun n => if n = 0 then r.args.setWidth 32 else if n = 1 then r.args.extractLsb' 32 32 else 0)
             (r.entries.getD (stage w) 0) (s.ctx l.part l.ctx).aper) ∧
     (∀ k d seq (slot : BitVec 64), FMap.get? s.dockets k = some d → d.state = 3 → d.kind = 0 ∨ d.kind = 4 →
       (∀ x ∈ s.gangs, x.2.src ≠ .docket k) →
       s.mgmt.needsReset = false → (s.ctx d.part d.ctx).swapst = 0 → s.partEn d.part = true → (s.part d.part).pst = 1 → SeqIs s d.part d.ctx seq →
       let post := d.last.getD 0
       (post = 0 → slot = 0) →
       (post ≠ 0 → ∃ h, s.readHdr (.g d.part d.subctx d.subhdr) = some h ∧ slot = h.extractLsb' (if post.toNat % 2 = 0 then 64 else 128) 64) →
       let f := fun lo n => (d.geom.extractLsb' lo n).toNat
       let q : GReq := ⟨d.part, f 0 3 + 1, f 3 4 + 1, f 7 5, f 12 11, f 23 10⟩
       s.backed q = true → Lowest (s.fits q) ((List.range 6).map (· + 6 * (d.hole / 64))) cl p →
       let gid := 2 ^ 32 * (64 * d.part + d.ctx) + seq.toNat
       ∃ t g, exec (.gangPlace k true) s = .next t ∧ FMap.get? t.gangs gid = some g ∧ g.src = .docket k ∧ g.cluster = cl ∧ g.pos = p ∧
         g.nwg = q.nwg ∧ ∀ w j, w < q.nwg → j < q.ngrp →
           Fresh t (16 * (8 * gid + w) + j) (fun n => if n < 4 then d.args.extractLsb' (32 * n) 32 else if n = 4 then d.addr.setWidth 32
             else if n = 5 then d.addr.extractLsb' 32 32 else if n = 6 then post else if n = 8 then slot.setWidth 32
             else if n = 9 then slot.extractLsb' 32 32 else 0) d.entry (s.ctx d.part d.ctx).aper)) ∧
  (∀ (s : State) (gid : Nat) (g : Gang), FMap.get? s.gangs gid = some g →
     let back := fun x : Path => { x with stop := if g.halted = true then x.stop else 0 }
     let onCores := fun (u t : State) (cl p : Nat) => t.groups = u.groups ∧
       FMap.get? t.gangs gid = some { g with status := 0, cluster := cl, pos := p, drained := false } ∧
       ((∃ x ∈ u.gangs, x.2.part = g.part ∧ (x.2.status = 0 ∨ x.2.status = 5)) → (t.part g.part).sbsize = (u.part g.part).sbsize) ∧
       ((∀ x ∈ u.gangs, x.2.part = g.part → x.2.status ≠ 0 ∧ x.2.status ≠ 5) → (t.part g.part).sbsize = (u.part g.part).sbnext) ∧
       (∀ k x, FMap.get? u.paths k = some x → FMap.get? t.paths k = some (if k / 4096 = gid then back x else x)) ∧
       ∀ i w, i < g.nwg → FMap.get? u.wgs (8 * gid + i) = some w → ∃ w', FMap.get? t.wgs (8 * gid + i) = some w' ∧
         w'.core = 8 * cl + p + i ∧ w'.scratch = w.scratch ∧ w'.slices = w.slices
     (g.status = 0 → s.onDraining gid g = false → ¬ Follows s g ∨ ¬ Wanted s g → exec (.gangPreempt gid) s = .next s) ∧
     (g.status = 0 → s.quiet gid g = false → exec (.gangPreempt gid) s = .next s) ∧
     (g.status = 0 → s.quiet gid g = true → (Follows s g ∧ Wanted s g) ∨ s.onDraining gid g = true → (∀ x ∈ s.paths, x.1 / 4096 = gid → x.2.loads = []) →
       ∃ t, exec (.gangPreempt gid) s = .next t ∧ t.groups = s.groups ∧ MemSame s t ∧
         (∀ k, FMap.get? t.gangs k = if k = gid then some { g with status := 1, cluster := 1000, drained := s.onDraining gid g }
           else FMap.get? s.gangs k) ∧ Kept s t gid g ∧
         ∀ k x, FMap.get? s.paths k = some x → ∃ x', FMap.get? t.paths k = some x' ∧ (k / 4096 ≠ gid → x' = x) ∧
           (k / 4096 = gid → Stopped s k x x')) ∧
     (∀ cl p, g.status = 0 → s.quiet gid g = true →
       let u := s.unplace gid
       let ok := u.fits (s.greqOf gid g) cl p && u.bringRoom gid cl p g && u.bringBanks gid cl p g
       (s.onDraining gid g = true → u.mgmt.needsReset = false → exec (.gangMigrate gid cl p) s = exec (.gangResume gid) u) ∧
       (s.onDraining gid g = false → cl ∉ g.clusters ∨ ok = false → exec (.gangMigrate gid cl p) s = .next s) ∧
       (s.onDraining gid g = false → cl ∈ g.clusters → ok = true →
         FMap.get? u.gangs gid = some { g with status := 1, cluster := 1000, drained := false } →
         ∃ t, exec (.gangMigrate gid cl p) s = .next t ∧ onCores u t cl p)) ∧
     (g.status = 1 → (s.ctx g.part g.ctx).swapst = 0 → s.mgmt.needsReset = false →
       let room := fun c x => s.fits (s.greqOf gid g) c x && s.bringRoom gid c x g
       let ok := fun c x => room c x && s.bringBanks gid c x g
       ((∀ c x, c ∈ g.clusters → x < 8 → room c x = false) → exec (.gangResume gid) s = .next s) ∧
       (∀ cl p, Lowest room g.clusters cl p → (∀ c x, c ∈ g.clusters → x < 8 → ok c x = false) →
         exec (.gangResume gid) s = .next (s.claim gid cl p g)) ∧
       (∀ cl p, Lowest ok g.clusters cl p → ∃ t, exec (.gangResume gid) s = .next t ∧ onCores s t cl p)))

/-- R86, R87, R93, R94, R144, R147: a swap is queued by its command and completes in turn: out once its placed gangs are quiet, which leave their
cores as a pre-empted gang does, SAVEAREA's bytes then open within its size (log 48), in with its held replies delivered; each posts SWAP_DONE, one of a context suspended under R27 MAP_SUSPEND as well. A page in transit
becomes resident in a frame of its phase; where a group's access started the fill, a page found among the victim tags raises the score of
the group recorded there by 8, to 255 at most; the halving halves every score. -/
def Obligations.SwapsAndPages : Prop :=
  ∀ (s : State) (part ctx : Nat),
    let k := 64 * part + ctx
    let c := s.ctx part ctx
    (¬ Hosted s part → exec (.swapOut part ctx) s = .next s ∧ exec (.swapIn part ctx) s = .next s) ∧
    (Hosted s part →
      exec (.swapOut part ctx) s = .next (if c.swapst = 0 then { s.putCtx part ctx { c with swapst := 1 } with swaps := s.swaps ++ [k] } else s) ∧
      exec (.swapIn part ctx) s = .next (if c.swapst = 2 then { s.putCtx part ctx { c with swapst := 3 } with swaps := s.swaps ++ [k] } else s)) ∧
    (s.swaps.head? ≠ some k → exec (.swapDone part ctx) s = .next s) ∧
    (c.swapst = 1 → (∃ x ∈ s.gangs, x.2.part = part ∧ x.2.ctx = ctx ∧ x.2.status = 0 ∧ s.quiet x.1 x.2 = false) →
      exec (.swapDone part ctx) s = .next s) ∧
    (∀ rest, s.swaps = k :: rest → part < 9 → ctx < 64 →
      let stale := decide (c.acked ≠ s.mgmt.mapver)
      (c.swapst = 1 → (∀ x ∈ s.gangs, x.2.part = part → x.2.ctx = ctx → x.2.status ≠ 0) → ∃ (u : State) (m : CMap 8),
        let v := u.notify part 9 0 ctx 0
        let w := if c.suspmap = true then v.notify part 1 0 ctx s.mgmt.mapver else v
        let clusters := ((List.range 24).filter fun cl => (s.part part).pclust.getLsbD cl).length
        exec (.swapDone part ctx) s = .next { w with mem := m } ∧
        (∀ a, a < c.savearea.toNat ∨ c.savearea.toNat + 2 ^ 24 * clusters ≤ a → CMap.get m a = CMap.get w.mem a) ∧
        u = { s.putCtx part ctx { c with swapst := 2 } with swaps := rest, gangs := u.gangs, cores := u.cores, wgs := u.wgs, free := s.free + 1 } ∧
        ∀ j, FMap.get? u.gangs j = (FMap.get? s.gangs j).map fun g =>
          if g.part = part ∧ g.ctx = ctx ∧ g.status = 1 then { g with status := 2 } else g) ∧
      (c.swapst = 1 → (s.gangs.map (·.1)).Nodup → (∀ x ∈ s.gangs, x.2.part = part → x.2.ctx = ctx → x.2.status = 0 →
          s.quiet x.1 x.2 = true ∧ x.2.nwg ≤ 8 ∧ ∀ y ∈ s.paths, y.1 / 4096 = x.1 → y.2.loads = [] ∧ y.2.wait ≠ .banks) →
        let mine := fun g : Gang => g.part = part ∧ g.ctx = ctx
        let off := fun gid : Nat => ∃ g, FMap.get? s.gangs gid = some g ∧ mine g ∧ g.status = 0
        ∃ t, exec (.swapDone part ctx) s = .next t ∧ t.ctx part ctx = { c with swapst := 2 } ∧ t.swaps = rest ∧ t.groups = s.groups ∧
          (∀ j, FMap.get? t.gangs j = (FMap.get? s.gangs j).map fun g =>
            if mine g ∧ g.status = 0 then { g with status := 2, cluster := 1000, drained := s.onDraining j g }
            else if mine g ∧ g.status = 1 then { g with status := 2 } else g) ∧
          (∀ j g, FMap.get? s.gangs j = some g → mine g → g.status = 0 → Kept s t j g) ∧
          (∀ j g n, FMap.get? s.gangs j = some g → mine g → g.status ≤ 1 → n < 192 →
            (∀ x ∈ (t.core n).bankQueue, x.1 / 8 ≠ j) ∧ ∀ x ∈ (t.core n).bankOwner, x.2 / 8 ≠ j) ∧
          ∀ j x, FMap.get? s.paths j = some x → ∃ x', FMap.get? t.paths j = some x' ∧ (¬ off (j / 4096) → x' = x) ∧
            (off (j / 4096) → Stopped s j x x')) ∧
      (c.swapst = 3 →
        let back := { c with swapst := 0, suspmap := false, grace := stale, chg := if stale && c.suspmap then [s.mgmt.mapver] else c.chg }
        let resumed := fun (u : State) => ∀ j, FMap.get? u.gangs j = (FMap.get? s.gangs j).map fun g =>
          if g.part = part ∧ g.ctx = ctx ∧ g.status = 2 then { g with status := 1 } else g
        let held := s.replies.filter fun x => x.1 == k
        (held = [] → ∃ u : State, exec (.swapDone part ctx) s = .next (u.notify part 9 0 ctx 0) ∧
          u = { s.putCtx part ctx back with swaps := rest, gangs := u.gangs, replies := u.replies } ∧ u.replies = s.replies ∧ resumed u) ∧
        (∀ (j : Nat) (seq v : BitVec 32) r, held = [(k, seq, v)] → (j, seq, k) ∈ s.parked →
          (∀ y ∈ s.parked, y.2.1 = seq → y.2.2 = k → y = (j, seq, k)) → s.runAt j = some r →
          ∃ t q g, exec (.swapDone part ctx) s = .next t ∧ t.ctx part ctx = back ∧ t.swaps = rest ∧ resumed t ∧
            t.replies = s.replies.filter (fun x => x.1 != k) ∧ t.parked = s.parked.filter (fun y => !(y.2.1 == seq && y.2.2 == k)) ∧
            FMap.get? t.paths j = some q ∧ Switched s r q (r.path.pc + 4) ∧ (∀ i, i ≠ j → FMap.get? t.paths i = FMap.get? s.paths i) ∧
            FMap.get? t.groups r.gk = some g ∧ g = { r.group with s := g.s } ∧ g.sreg 0 = v ∧ ∀ n, n ≠ 0 → g.sreg n = r.group.sreg n))) ∧
    (∀ wk page w, FMap.get? s.wgs wk = some w → (CMap.get w.pages page ≠ 3 → exec (.pagerTransferDone wk page) s = .next s) ∧
      (CMap.get w.pages page = 3 → w.core ≠ 1000 → (∃ j, j < 128 ∧ 3 * j + page % 3 ∉ s.usedFrames w.core) →
        let started := ((w.fills.find? fun x => x.1 == page).map (·.2)).getD 0
        ∃ t w' f, exec (.pagerTransferDone wk page) s = .next t ∧ t = { s with wgs := t.wgs, cores := t.cores } ∧
          FMap.get? t.wgs wk = some w' ∧ CMap.get w'.pages page = 1 ∧ FMap.get? w'.frames page = some f ∧ f % 3 = page % 3 ∧ f < 384 ∧
          f ∉ s.usedFrames w.core ∧
          (started = 0 ∨ (∀ x ∈ (s.core w.core).victims, ¬ (x.1 = wk ∧ x.2.1 = page)) →
            (t.core w.core).scores = (s.core w.core).scores ∧ (t.core w.core).victims = (s.core w.core).victims) ∧
          (∀ g, started ≠ 0 → (s.core w.core).victims = [(wk, page, g)] → (t.core w.core).victims = [] ∧
            CMap.get (t.core w.core).scores g = BitVec.ofNat 8 (min 255 ((CMap.get (s.core w.core).scores g).toNat + 8))))) ∧
    (∀ n, CMap.ok (s.core n).scores = true → ∃ t, exec (.scoreHalving n) s = .next t ∧ t = { s with cores := t.cores } ∧
      ∀ g, CMap.get (t.core n).scores g = CMap.get (s.core n).scores g >>> 1)

/-- R54, R56, R57, R58, R59, R60: the compositing docket whose turn it is starts its pass, with the rank's image, the empty image on postmark 0,
and its first tiles go out; another stays. An expected tile is kept until its round is complete, and the round's merge sends the next round's
tiles; a tile that no round expects changes nothing, and before the first issue every tile of the first pass is kept. A differing digest, of any
round, ends the job with PEER_MISMATCH, a malformed tile with
TILE_FORMAT, a tile that is missing at its time-out with PEER_TIMEOUT: the code is in the status record, and JOBFAIL counts it. After the last
merge the rank's tiles, or all at the root of a gather, are written to their places in DST, or in the slot of its header that is not current,
which is then posted and, in the final pass, sealed; a slot with readers, and borrowers that have not answered, are waited for; the OK record has
FINAL where every source was sealed, and the docket's run is complete.

R50, R51: a merge takes each pixel from two tiles by the mode: the front record, the front's channels over the other's, or the average by the
counts, rounded once. R52: what each round of binary swap and of ring sends and receives, and how a round's tiles are merged. R55: each channel's
block is CONST, PLANE or RAW, and a tile that is written is read back as it was; a block of another kind, one cut short, and bytes left over are
malformed.

The model's choices (log 52): a differing digest of any round, also of a tile that no round expects, ends the job; the digest's form is the model's
own. The tiles that come before the first issue are judged by the descriptor read at the issue (R56). -/
def Obligations.CompositingPasses : Prop :=
  (∀ (s : State) (k : Nat),
    let die := k / 2 ^ 32 / 64
    ((∀ d, s.pickDocket die 3 0 ≠ some (k, d)) → exec (.compositingPassStart k) s = .next s) ∧
    (∀ d d' j u1 (own : Bool), s.pickDocket die 3 0 = some (k, d) → FMap.get? s.dockets k = some d → d.kind = 3 →
      let u := { s with lastHole := FMap.set s.lastHole (4 * die + d.prio) d.hole }.startRun k d
      FMap.get? u.dockets k = some d' → PassJob u u1 k d' j → j.arrived = [] → j.receives j.first ≠ [] →
      ((j.sub = false ∧ own = false) ∨ (j.sub = true ∧ ∃ h, u1.readHdr (.g d'.part d'.ctx j.src) = some h ∧ own = h.getLsbD 32)) →
      (j.sub = true → d'.last.getD 0 = 0 → ∃ t j', exec (.compositingPassStart k) s = .next t ∧ FMap.get? t.selv.jobs k = some j' ∧
        j'.pass = j.pass + 1 ∧ j'.running = true ∧ j'.round = j.first ∧ j'.sealed = own ∧ t.netOut = u1.netOut ++ j'.messages j.first ∧
        t.dockets = u1.dockets ∧ ∀ i, i < j.tiles → j'.tile i = (List.range (64 * j.chans)).map fun w =>
          if w < 64 ∧ j.mode ≠ 2 then 0x7FC00000 else 0) ∧
      (∀ bs u2, j.sub = false ∨ d'.last.getD 0 ≠ 0 →
        u1.readVA d'.part d'.ctx (256 * j.chans * j.tiles / 65536 + 2)
          (if j.sub = true then (hSlot ((u1.readHdr (.g d'.part d'.ctx j.src)).getD 0) (d'.last.getD 0)).toNat else j.src.toNat)
          (256 * j.chans * j.tiles) = (some bs, u2) →
        ∃ t j', exec (.compositingPassStart k) s = .next t ∧ FMap.get? t.selv.jobs k = some j' ∧ j'.pass = j.pass + 1 ∧ j'.running = true ∧
          j'.round = j.first ∧ j'.sealed = own ∧ t.netOut = u2.netOut ++ j'.messages j.first ∧
          ∀ i w, i < j.tiles → w < 64 * j.chans → (j'.tile i)[w]? =
            some (BitVec.ofNat 32 (leNat (((bs.drop (256 * j.chans * i)).drop (4 * w)).take 4))))) ∧
    (∀ d sender round tile allSealed digest bytes, FMap.get? s.dockets k = some d → d.kind = 3 → d.state ≠ 5 → d.state ≠ 6 →
      FMap.get? s.selv.jobs k = none →
      (∀ pass, pass ≠ 1 → exec (.compositingTileArrival k sender pass round tile allSealed digest bytes) s = .next s) ∧
      ∃ j, j.pass = 0 ∧ j.running = false ∧ j.arrived = [tileMsg sender 1 round tile allSealed digest bytes] ∧
        exec (.compositingTileArrival k sender 1 round tile allSealed digest bytes) s =
          .next (if d.state = 4 then (s.putJob k j).putDocket k { d with state := 2 } else s.putJob k j)) ∧
    (∀ d j sender round tile allSealed digest bytes, FMap.get? s.dockets k = some d → d.kind = 3 → d.state = 3 →
      FMap.get? s.selv.jobs k = some j → j.running = true → 0 < j.pass → j.arrived = [] → j.round ≤ j.last →
      let x := exec (.compositingTileArrival k sender j.pass round tile allSealed digest bytes) s
      let j' := { j with arrived := [tileMsg sender j.pass round tile allSealed digest bytes] }
      let closes := fun (j2 : Job) (out : List NetMsg) => ∃ u : State, x = .next (u.closePass k j2) ∧
        u = { s with netOut := s.netOut ++ out, selv := { s.selv with jobs := u.selv.jobs } } ∧
        ∀ i, FMap.get? u.selv.jobs i = if i = k then some j2 else FMap.get? s.selv.jobs i
      (digest = j.digest → round < j.round ∨ (sender, tile) ∉ j.receives round → x = .next s) ∧
      (digest = j.digest → j.round ≤ round → (sender, tile) ∈ j.receives round → (decodeTile j.chans j.ring bytes).isSome = true →
        (∃ y ∈ j.receives j.round, round ≠ j.round ∨ y ≠ (sender, tile)) → x = .next (s.putJob k j')) ∧
      (digest = j.digest → round = j.round → j.receives round = [(sender, tile)] → (decodeTile j.chans j.ring bytes).isSome = true →
        j'.mergeRound = { j'.mergeOne (tileMsg sender j.pass round tile allSealed digest bytes) with round := round + 1 } ∧
        (round < j.last → j.receives (round + 1) ≠ [] →
          x = .next ({ s with netOut := s.netOut ++ j'.mergeRound.messages (round + 1) }.putJob k j'.mergeRound)) ∧
        (round + 1 = j.last → j.receives j.last = [] → closes { j'.mergeRound with round := j.last + 1 } (j'.mergeRound.messages j.last)) ∧
        (round = j.last → closes j'.mergeRound [])) ∧
      (digest = j.digest → j.round ≤ round → (sender, tile) ∈ j.receives round → decodeTile j.chans j.ring bytes = none →
        ∃ t, x = .next t ∧ JobFails (s.putJob k j') k d j 3 0 false t) ∧
      (digest ≠ j.digest → ∃ t, x = .next t ∧ JobFails (s.putJob k j') k d j 4 0 false t)) ∧
    (∀ j d, FMap.get? s.selv.jobs k = some j → FMap.get? s.dockets k = some d →
      (j.running = false ∨ j.last < j.round → exec (.peerTimeout k) s = .next s) ∧
      (j.running = true → j.round ≤ j.last → ∃ t, exec (.peerTimeout k) s = .next t ∧ JobFails s k d j 2 0 false t)) ∧
    (∀ j d, FMap.get? s.dockets k = some d → (∀ m ∈ j.arrived, m.pass ≤ j.pass) → j.posted = false →
      let final := j.sub && j.allSealed && decide (j.last < j.round)
      let ts := if j.gather = true then List.range j.tiles else j.held j.me
      let ends := fun u : State => PassEnds u k d j final (s.closePass k j)
      (j.gather = true → j.me ≠ 0 → ends s) ∧
      (j.gather = false ∨ j.me = 0 →
        (j.dsthdr = false → (∀ u, TilesPut d j j.dst.toNat s ts u → ends u) ∧
          ∀ t rest s1, ts = t :: rest → s.wroteVA d.part d.ctx 3 (j.dst.toNat + 256 * j.chans * t)
              ((j.tile t).flatMap fun w => leBytes w.toNat 4) = (false, s1) →
            JobFails s1 k d j 6 (s.rangeCause d.part d.ctx (j.dst.toNat + 256 * j.chans * t) (256 * j.chans) .wr) final (s.closePass k j)) ∧
        (j.dsthdr = true →
          let loc := HLoc.g d.part d.ctx j.dst
          let s0 := s.walkHdr loc
          ∀ h, s0.readHdr loc = some h →
            let even := h.getLsbD 0
            (h.extractLsb' (if even = true then 288 else 304) 16 ≠ 0 → s.closePass k j = s0.putJob k { j with posted := false }) ∧
            (h.extractLsb' (if even = true then 288 else 304) 16 = 0 → ∀ u u2,
              TilesPut d j (h.extractLsb' (if even = true then 64 else 128) 64).toNat s0 ts u → u.postHdr loc = .ok u2 →
              (u2.noticed loc = true → s.closePass k j = u2.putJob k { j with posted := true }) ∧
              (u2.noticed loc = false → (final = false → ends u2) ∧ (final = true → ∀ u3, u2.sealHdr loc = some u3 → ends u3))))))) ∧
  (∀ (mode : Nat) (a b : List (BitVec 32)) (ra rb : Nat), a.length = b.length → 0 < a.length →
    let z := mergePixel mode a b ra rb
    let front := DepthBefore (a.getD 0 0) (b.getD 0 0) ∨ (¬ DepthBefore (b.getD 0 0) (a.getD 0 0) ∧ ra < rb)
    (∀ f k rf, (front ∧ f = a ∧ k = b ∧ rf = ra) ∨ (¬ front ∧ f = b ∧ k = a ∧ rf = rb) →
      (mode = 0 → z = (f, rf, false)) ∧
      (mode = 1 → z.2 = (rf, false) ∧ z.1.length = f.length ∧ z.1.getD 0 0 = f.getD 0 0 ∧
        let w := v32 (r32 (minus (whole 1) (v32 (f.getD 1 0))))
        ∀ c, 1 ≤ c → c < f.length → z.1.getD c 0 = r32 (plus (times w (v32 (k.getD c 0))) (v32 (f.getD c 0))))) ∧
    (mode = 2 →
      let na := (a.getLastD 0).toNat
      let nb := (b.getLastD 0).toNat
      z.2 = (min ra rb, decide (2 ^ 32 ≤ na + nb)) ∧ z.1.length = a.length ∧ z.1.getLastD 0 = BitVec.ofNat 32 (min (na + nb) (2 ^ 32 - 1)) ∧
      ∀ c, c + 1 < a.length →
        let v := plus (times (v32 (a.getD c 0)) (whole na)) (times (v32 (b.getD c 0)) (whole nb))
        (na + nb = 0 → z.1.getD c 0 = 0) ∧
        (na + nb ≠ 0 → ¬ FinVal v ∨ ZeroVal v → z.1.getD c 0 = r32 v) ∧
        (na + nb ≠ 0 → FinVal v → ¬ ZeroVal v → ∃ q st e, z.1.getD c 0 = r32 (.fin v.sign (2 * q + st) e) ∧ st ≤ 1 ∧ 2 ^ 31 ≤ q ∧
          e + 1 ≤ expo v ∧
          let m := (scaled v (e + 1)).natAbs
          q * (na + nb) ≤ m ∧ m < (q + 1) * (na + nb) ∧ (st = 0 ↔ q * (na + nb) = m)))) ∧
  (∀ (mode chans : Nat) (a b : List (BitVec 32)) (ra rb : List Nat), 1 ≤ chans →
    let z := mergeTiles mode chans a b ra rb
    let y := fun i => mergePixel mode (pixel chans a i) (pixel chans b i) (ra.getD i 0) (rb.getD i 0)
    (z.2.2 = true ↔ ∃ i, i < 64 ∧ (y i).2.2 = true) ∧
    ∀ i, i < 64 → pixel chans z.1 i = (y i).1 ∧ z.2.1[i]? = some (y i).2.1) ∧
  (∀ (j : Job) (m : TileMsg) t rs, decodeTile j.chans j.ring m.bytes = some (t, rs) → (∃ w, (m.tile, w) ∈ j.part) →
    let z := j.mergeOne m
    let b := 2 ^ m.round
    let of := fun r : Nat => List.replicate 64 (r / b * b)
    z.allSealed = (j.allSealed && m.allSealed) ∧ (∀ i, i ≠ m.tile → z.tile i = j.tile i ∧ z.plane i = if j.ring = true then j.plane i else []) ∧
    (m.round = j.last → z.tile m.tile = t ∧ z.sat = j.sat) ∧
    (m.round ≠ j.last → ∀ y,
      y = (if j.ring = true then mergeTiles j.mode j.chans t (j.tile m.tile) rs (List.replicate 64 j.me)
        else if j.me.testBit m.round = false then mergeTiles j.mode j.chans (j.tile m.tile) t (of j.me) (of (j.me ^^^ b))
        else mergeTiles j.mode j.chans t (j.tile m.tile) (of (j.me ^^^ b)) (of j.me)) →
      z.tile m.tile = y.1 ∧ z.sat = (j.sat || y.2.2) ∧ (j.ring = true → (∃ w, (m.tile, w) ∈ j.planes) → z.plane m.tile = y.2.1))) ∧
  (∀ (tiles q n : Nat), swapRegion tiles q 0 = (0, tiles) ∧
    (let x := swapRegion tiles q n
     swapRegion tiles q (n + 1) = if q.testBit n = false then (x.1, (x.2 + 1) / 2) else (x.1 + (x.2 + 1) / 2, x.2 / 2)) ∧
    segment tiles n q = (q * tiles / n, (q + 1) * tiles / n - q * tiles / n)) ∧
  (∀ (j : Job) (r : Nat), j.me < j.ranks →
    let run := fun x : Nat × Nat => (List.range x.2).map fun i => x.1 + i
    (j.ring = false → j.first = 0 ∧ j.last = Nat.log2 j.ranks ∧ j.held j.me = run (swapRegion j.tiles j.me j.last) ∧
      (r < j.last → j.sends r = some (j.me ^^^ 2 ^ r, run (swapRegion j.tiles (j.me ^^^ 2 ^ r) (r + 1))) ∧
        j.receives r = (run (swapRegion j.tiles j.me (r + 1))).map fun t => (j.me ^^^ 2 ^ r, t))) ∧
    (j.ring = true → j.first = 1 ∧ j.last = j.ranks ∧ j.held j.me = run (segment j.tiles j.ranks j.me) ∧
      (1 ≤ r → r < j.ranks → ∃ a b, a < j.ranks ∧ b < j.ranks ∧ (a + r) % j.ranks = j.me ∧ (b + r + 1) % j.ranks = j.me ∧
        j.sends r = some ((j.me + 1) % j.ranks, run (segment j.tiles j.ranks a)) ∧
        j.receives r = (run (segment j.tiles j.ranks b)).map fun t => ((j.me + j.ranks - 1) % j.ranks, t))) ∧
    (0 < j.last → j.sends j.last = if j.gather = true ∧ j.me ≠ 0 then some (0, j.held j.me) else none) ∧
    (0 < j.last → (j.gather = false ∨ j.me ≠ 0 → j.receives j.last = []) ∧
      (j.gather = true → j.me = 0 → ∀ q t, (q, t) ∈ j.receives j.last ↔ 0 < q ∧ q < j.ranks ∧ t ∈ j.held q)) ∧
    ∀ q ts, j.sends r = some (q, ts) → j.messages r = ts.map fun t => ⟨j.peers.getD q 0, 1,
      [j.tag, j.pass, r, t, if j.allSealed = true then 1 else 0, j.digest.toNat, j.me],
      encodeTile j.mode j.chans (j.tile t) (if j.ring = true then some (j.plane t) else none)⟩) ∧
  (∀ (may : Bool) (vs : List (BitVec 32)), vs.length = 64 →
    let v := vs.getD 0 0
    let b := r32 (minus (v32 (vs.getD 1 0)) (v32 v))
    let c := r32 (minus (v32 (vs.getD 8 0)) (v32 v))
    ((∀ x ∈ vs, x = v) → encodeBlock may vs = 0 :: leBytes v.toNat 4) ∧
    ((∃ x ∈ vs, x ≠ v) → Planar may vs b c → encodeBlock may vs = 1 :: (leBytes v.toNat 4 ++ leBytes b.toNat 4 ++ leBytes c.toNat 4)) ∧
    ((∃ x ∈ vs, x ≠ v) → ¬ Planar may vs b c → encodeBlock may vs = 2 :: vs.flatMap fun x => leBytes x.toNat 4)) ∧
  (∀ (mode chans : Nat) (t : List (BitVec 32)) (p : Option (List Nat)), t.length = 64 * chans →
    (∀ rs, p = some rs → rs.length = 64 ∧ ∀ r ∈ rs, r < 256) →
    encodeTile mode chans t p = ((List.range chans).flatMap fun c =>
      encodeBlock (decide (¬ (mode = 0 ∧ 1 ≤ c) ∧ ¬ (mode = 2 ∧ c + 1 = chans))) ((t.drop (64 * c)).take 64)) ++
      (match p with
        | none => []
        | some rs => if rs.all (fun r => r == rs.headD 0) = true then [0, BitVec.ofNat 8 (rs.headD 0)] else 2 :: rs.map (BitVec.ofNat 8)) ∧
    decodeTile chans p.isSome (encodeTile mode chans t p) = some (t, p.getD [])) ∧
  (∀ (h : BitVec 8) (body : List (BitVec 8)), decodeBlock [] = none ∧ decodeRanks [] = none ∧
    (decodeBlock (h :: body) = none ↔
      ¬ ((h = 0 ∧ 4 ≤ body.length) ∨ (h = 1 ∧ 12 ≤ body.length) ∨ (h = 2 ∧ 256 ≤ body.length))) ∧
    (decodeRanks (h :: body) = none ↔ ¬ ((h = 0 ∧ 1 ≤ body.length) ∨ (h = 2 ∧ 64 ≤ body.length))) ∧
    (h = 1 → 12 ≤ body.length → decodeBlock (h :: body) = some ((List.range 64).map (planeWord (BitVec.ofNat 32 (leNat (body.take 4)))
      (BitVec.ofNat 32 (leNat ((body.drop 4).take 4))) (BitVec.ofNat 32 (leNat ((body.drop 8).take 4)))), body.drop 12)) ∧
    ∀ chans ring, (decodeBlocks chans body = none → decodeTile chans ring body = none) ∧
      ∀ t rest, decodeBlocks chans body = some (t, rest) → (ring = false → rest ≠ [] → decodeTile chans ring body = none) ∧
        (ring = true → (∀ rs, decodeRanks rest ≠ some (rs, [])) → decodeTile chans ring body = none))

/-- R61 to R65: CCMD 1 checks the staged entry, BAD_ENTRY or IN_USE, else exchanges set-up messages with the peers; the entry is created when
all agree, SETUP_FAILED else; OFFLOAD is kept where encryption is off and the switch advertised it, and counted as ignored where encryption rules
it out; a tear-down frees the entry, after an exchange in progress, NOT_SET_UP without one; once every rank's pairs are there the results
overwrite the elements, the marks clear, GEN advances, DONE takes it and DOCKET goes down by one; then the stores held meanwhile are performed and
counted in the next generation. R64: COMBINE and FINAL, and the order in which binary swap and ring combine the ranks' pairs.

The model's choices (log 53): a peer table without use, and a full collective table, end in SETUP_FAILED; DONE takes GEN as four bytes; commands
are ignored while the Selvedge has stopped. -/
def Obligations.Collectives : Prop :=
  (∀ (a b : BitVec 32 × BitVec 32),
    let add := fun x y => r32 (plus (v32 x) (v32 y))
    let sub := fun x y => r32 (minus (v32 x) (v32 y))
    let s := add a.1 b.1
    let bv := sub s a.1
    let av := sub s bv
    let t := add (sub a.1 av) (sub b.1 bv)
    (¬ FinVal (v32 s) → combine a b = (s, 0)) ∧ (FinVal (v32 s) → combine a b = (s, add (add a.2 b.2) t))) ∧
  (∀ (c : Coll) (i : Nat) (l : List (BitVec 32 × BitVec 32)), l.length = c.ranks →
    (∀ k, c.ring = false → c.ranks = 2 ^ k → FinalOf c (tree k l) (c.result i l)) ∧
    (∀ j (acc : Nat → BitVec 32 × BitVec 32), c.ring = true → i < c.elems → j < c.ranks →
      (segment c.elems c.ranks j).1 ≤ i → i < (segment c.elems c.ranks j).1 + (segment c.elems c.ranks j).2 →
      acc 0 = l.getD ((j + 1) % c.ranks) (0, 0) → (∀ n, acc (n + 1) = combine (acc n) (l.getD ((j + n + 2) % c.ranks) (0, 0))) →
      FinalOf c (acc (c.ranks - 1)) (c.result i l))) ∧
  ∀ (s : State), let v := s.selv
    let x := v.entry.toNat
    let key := (64 * v.cpart.toNat + v.cctx.toNat) * 4096 + v.cid.toNat
    (v.cst ≠ 1 → s.mgmt.selvDown = false →
      (¬ EntryOk x → exec .collectiveSetup s = .next { s with selv := { v with cst := 4 } }) ∧
      (EntryOk x → FMap.get? v.colls key ≠ none → exec .collectiveSetup s = .next { s with selv := { v with cst := 5 } }) ∧
      (EntryOk x → FMap.get? v.colls key = none → 4096 ≤ v.colls.length → exec .collectiveSetup s = .next { s with selv := { v with cst := 3 } }) ∧
      (∀ c, EntryOk x → FMap.get? v.colls key = none → v.colls.length < 4096 → stagedColl v = some c →
        c.elems = field x 4 4 ∧ c.ranks = field x 2 1 + 1 ∧ c.me = field x 3 1 ∧ c.base.toNat = field x 8 8 ∧ c.done.toNat = field x 0x18 8 ∧
        c.gen = 0 ∧ c.marks = [] ∧ c.busy = false ∧
        (∀ s1, s.collPeers c = (none, s1) → exec .collectiveSetup s = .next { s1 with selv := { s1.selv with cst := 3 } }) ∧
        (∀ ps s1, s.collPeers c = (some ps, s1) → ∃ t, exec .collectiveSetup s = .next t ∧
          t = { s1 with selv := { v with cst := 1, pend := some c }, netOut := t.netOut } ∧
          t.netOut.map (·.dest) = s1.netOut.map (·.dest) ++ ps))) ∧
    (∀ c, v.pend = some c → ∀ plain : Option Bool,
      exec (.collectiveSetupDone false plain) s = .next { s with selv := { v with cst := 3, pend := none } } ∧
      exec (.collectiveSetupDone true plain) s = .next { s with selv := { v with
        cst := 2, pend := none
        colls := FMap.set v.colls ((64 * c.part + c.ctx) * 4096 + c.cid) { c with offload := c.offload && plain == some true }
        offign := if c.offload = true ∧ plain = none ∧ v.offign ≠ 0xFFFFFFFF then v.offign + 1 else v.offign } }) ∧
    (v.cst ≠ 1 → s.mgmt.selvDown = false →
      (FMap.get? v.colls key = none → exec .collectiveTeardown s = .next { s with selv := { v with cst := 6 } }) ∧
      (∀ c, FMap.get? v.colls key = some c → exec .collectiveTeardown s = .next { s with selv :=
        if c.busy = true then { v with cst := 1, colls := FMap.set v.colls key { c with leaving := true } }
        else { v with cst := 2, colls := FMap.erase v.colls key } })) ∧
    (v.cst = 1 ∨ s.mgmt.selvDown = true → exec .collectiveSetup s = .next s ∧ exec .collectiveTeardown s = .next s) ∧
    (∀ k c, (k, c) ∈ v.colls → c.leaving = true → c.busy = false → (∀ y ∈ v.colls, y.2.leaving = true → y = (k, c)) →
      exec .collectiveTeardownDone s = .next { s with selv := { v with cst := 2, colls := FMap.erase v.colls k } }) ∧
    (∀ k c (others : List (Nat × List (BitVec 32 × BitVec 32))), FMap.get? v.colls k = some c →
      (c.busy = false ∨ s.mgmt.selvDown = true → exec (.reductionExchange k others) s = .next s) ∧
      (∀ (rows : List (List (BitVec 32 × BitVec 32))) bs s1 s2 out, c.busy = true → s.mgmt.selvDown = false →
        let w := if c.bf16 then 2 else 4
        rows.length = c.ranks → c.me < c.ranks →
        (∀ r, r < c.ranks → r ≠ c.me → ∃ l, others.find? (fun y => y.1 == r && y.2.length == c.elems) = some (r, l) ∧ rows[r]? = some l) →
        rows[c.me]? = some ((List.range c.elems).map fun i =>
          (BitVec.ofNat 32 (leNat ((bs.drop (w * i)).take w) * if c.bf16 then 2 ^ 16 else 1), 0)) →
        out = (List.range c.elems).flatMap (fun i => leBytes (c.result i (rows.map fun l => l.getD i (0, 0))) w) →
        s.readVA c.part c.ctx (c.elems * w / 65536 + 2) c.base.toNat (c.elems * w) = (some bs, s1) →
        s1.wroteVA c.part c.ctx (c.elems * w / 65536 + 2) c.base.toNat out = (true, s2) →
        let s3 := s2.putColl k { c with marks := [], busy := false, gen := c.gen + 1, held := [] }
        let s4 := (s3.wroteVA c.part c.ctx 2 c.done.toNat (leBytes (c.gen + 1).toNat 4)).2
        let s5 := if c.docket = 0 then s4 else s4.decDep c.part c.ctx c.docket
        (c.held = [] → s5.reqs = [] → s5.exits = [] → exec (.reductionExchange k others) s = .next s5) ∧
        (∀ h, c.held = [h] → h.req = none → h.bytes ≠ [] → s5.reqs = [] → s5.exits = [] → StaysPlaced s5 (h.path / 4096) →
          FMap.get? s5.selv.colls k = some { c with marks := [], busy := false, gen := c.gen + 1, held := [] } →
          ∃ c', exec (.reductionExchange k others) s = .next { s5.putColl k c' with mem := Memory.writeBytes s5.mem h.pa h.bytes } ∧
            c' = { c with marks := c'.marks, busy := c'.busy, gen := c.gen + 1, held := [] } ∧ (c'.busy = true ↔ c'.marks.length = c.elems) ∧
            ∀ e, CMap.get c'.marks e ≠ 0 ↔ e < c.elems ∧ h.ext.1 ≤ c.base.toNat + w * e ∧ c.base.toNat + w * e + w ≤ h.ext.1 + h.ext.2 ∧
              h.va.toNat < c.base.toNat + w * e + w ∧ c.base.toNat + w * e + w ≤ h.va.toNat + h.bytes.length)))

/-- R69, R70, R302: a gather is answered with the line and the header's postmark, and the pair recorded while the table has room, whichever
address names the header; a response is cached, and of a full set only the least recently read line goes; it gives its data where its postmark is
the expected one and no newer is known, else STALE_POSTMARK, counted once for a read; a read not answered fails with TIMEOUT_UNKNOWN; a notice
makes the postmark known and is acknowledged; an acknowledgement ends a notice, as does its time-out, counted and posted.

The model's choice (log 21): the lender reads the header through the first context of the partition that can read it, and two addresses of one
place name one header. -/
def Obligations.BorrowedLines : Prop :=
  ∀ (s : State), let v := s.selv
    (∀ borrower part (ia header : BitVec 64),
      (s.mgmt.selvDown = true → exec (.borrowGatherRequest borrower part ia header) s = .next s) ∧
      (∀ pa x y s1 c p, s.mgmt.selvDown = false → s.walk part (ia.toNat / 256 * 256) .rd = (.ok pa x y, s1) → s.lentPost part header = some (c, p) →
        let s2 := s1.walkHdr (.g part c header)
        let known := ∃ y ∈ s1.selv.lender, y.2 = borrower ∧ s1.lentAs part c header y.1 = true
        ∃ t n, exec (.borrowGatherRequest borrower part ia header) s = .next t ∧
          t.netOut = s2.netOut ++ [⟨borrower, 7, [ia.toNat, p.toNat, n], Memory.bytes s2.mem pa 256⟩] ∧
          (known → n = 0 ∧ t.selv = s2.selv) ∧
          (¬ known → s1.selv.lender.length < 4096 → n = 0 ∧
            t.selv = { s2.selv with lender := s2.selv.lender ++ [(2 ^ 64 * (64 * part + c) + header.toNat, borrower)] }) ∧
          (¬ known → 4096 ≤ s1.selv.lender.length → n = 1 ∧ t.selv = s2.selv))) ∧
    (∀ r, v.reads = [r] → ∀ (p : BitVec 32) unwatched (line : BitVec 2048),
      let hk := Config.borrowPkg r.ia * 2 ^ 64 + (Config.borrowHeader r.ia).toNat
      let fresh := p = r.expect ∧ (CMap.get v.newer hk).toNat ≤ r.expect.toNat
      let counted := ∃ k q, s.loadPath (r.path / 32) r.load r.lane = some k ∧ FMap.get? s.paths k = some q ∧
        ∃ l ∈ q.loads, l.id = r.load ∧ ∃ y ∈ l.lanes, y.lane = r.lane ∧ y.code = 8
      let tags := fun y : BLine => y.ia = r.ia / 256 ∧ y.pkg = Config.borrowPkg r.ia ∧ y.header = Config.borrowHeader r.ia
      let set := v.lines.filter fun y => decide (¬ tags y) && decide (y.ia % 8192 = r.ia / 256 % 8192)
      ∃ u, OnlySelv s u u.selv ∧ u.selv.reads = [] ∧ (CMap.get u.selv.newer hk).toNat = max p.toNat (CMap.get v.newer hk).toNat ∧
        (s.mgmt.isl 170 = 0 → s.mgmt.isl 171 = 0 →
          ⟨Config.borrowPkg r.ia, r.ia / 256, Config.borrowHeader r.ia, p, unwatched, line⟩ ∈ u.selv.lines ∧
          ∀ y ∈ v.lines, ¬ tags y → y.ia % 8192 ≠ r.ia / 256 % 8192 ∨ set.length < 16 ∨ set.head? ≠ some y → y ∈ u.selv.lines) ∧
        (fresh → u.selv.stale = v.stale ∧ exec (.borrowGatherResponse r.id p unwatched line) s =
          .next (u.laneArrived (r.path / 32) r.load r.lane r.off 0 (line.toNat / 2 ^ (8 * (r.ia % 256)) % 2 ^ (8 * r.len)))) ∧
        (¬ fresh → (counted → u.selv.stale = v.stale) ∧
          (¬ counted → u.selv.stale = if v.stale = 0xFFFFFFFF then v.stale else v.stale + 1) ∧
          exec (.borrowGatherResponse r.id p unwatched line) s = .next (u.laneArrived (r.path / 32) r.load r.lane r.off 8 0))) ∧
    (∀ r, v.reads = [r] → exec (.borrowGatherTimeout r.id) s =
      .next ({ s with selv := { v with reads := [] } }.laneArrived (r.path / 32) r.load r.lane r.off 1 0)) ∧
    (∀ source (header : BitVec 64) (p : BitVec 32),
      (s.mgmt.selvDown = true → exec (.postmarkNotice source header p) s = .next s) ∧
      (s.mgmt.selvDown = false → ∃ t, exec (.postmarkNotice source header p) s = .next t ∧
        t = { s with selv := { v with newer := t.selv.newer }, netOut := s.netOut ++ [⟨source, 9, [header.toNat], []⟩] } ∧
        (CMap.get t.selv.newer (source * 2 ^ 64 + header.toNat)).toNat = max p.toNat (CMap.get v.newer (source * 2 ^ 64 + header.toNat)).toNat)) ∧
    (∀ h b, exec (.noticeAck h b) s = .next { s with selv := { v with notices := v.notices.erase (h, b) } } ∧
      ((h, b) ∉ v.notices → exec (.noticeTimeout h b) s = .next s) ∧
      ((h, b) ∈ v.notices → exec (.noticeTimeout h b) s = .next ({ s with selv := { v with
        notices := v.notices.erase (h, b), notefail := if v.notefail = 0xFFFFFFFF then v.notefail else v.notefail + 1 } }.notify 0 6 0 0 0)))

/-- R88, R89, R192, R286: a command while STATUS is PENDING is ignored; one for a gang that does not exist gets BAD_SELECT, a HALT of one
swapped out NOT_RESIDENT. HALT stops the gang's paths, PENDING until its counters are zero; RESUME of a halted gang lets its paths go on, past a
BRK, STOP zero unless the gang is off its cores; STEP runs one instruction of the selected path, which then is halted again, BAD_SELECT where
there is no such path. RESUME and STEP of a gang that is not halted, or whose counters are not zero yet, get NOT_HALTED.

R88, R89: READ, WRITE and FORCE act on a halted gang alone, NOT_HALTED, and on a register that exists, BAD_SELECT; READ returns a word of every
register; WRITE changes that word, a latch then being live, READ_ONLY for p0 and read-only registers, BAD_SELECT for a PC that is not aligned; both
are BUSY while a load is to write the register; FORCE writes and cancels the load's writeback.

The model's choices (logs 54 and 101): RESUME and STEP of a gang that is not halted get NOT_HALTED; a gang that has ended gets BAD_SELECT; HALT and
STEP are PENDING, and the gang counts as not halted, until its counters are zero, those of its ended paths and of stores that the Selvedge holds
too; a gm that is not accepted stays, with OK; a latch that is written is live. -/
def Obligations.Debugger : Prop :=
  (∀ (s : State) (part ctx : Nat),
     let c := s.ctx part ctx
     (∀ i : Instr, i = .halt part ctx ∨ i = .resume part ctx ∨ i = .read part ctx ∨ i = .write part ctx ∨ i = .force part ctx ∨ i = .step part ctx →
       (c.dbg.status = 6 ∨ ¬ Hosted s part → exec i s = .next s) ∧
       (Hosted s part → c.dbg.status ≠ 6 →
         (∀ g, FMap.get? s.gangs (2 ^ 32 * (64 * part + ctx) + c.dbg.gang.toNat) = some g → g.status = 4 ∨ g.status = 5) →
         exec i s = .next (statusSet s part ctx 3))) ∧
     (∀ gid g, Targets s part ctx gid g →
       (s.counted gid = true ↔ ∀ q, q ∈ s.reqs ∨ (∃ x ∈ s.selv.colls, ∃ h ∈ x.2.held, h.req = some q) → q.path / 4096 = gid →
         q.kind = 0 ∨ 5 ≤ q.kind ∨ (q.kind = 4 ∧ q.sent = false)) ∧
       (g.halted = false ∨ s.counted gid = false →
         exec (.resume part ctx) s = .next (statusSet s part ctx 2) ∧ exec (.step part ctx) s = .next (statusSet s part ctx 2)) ∧
       (g.status = 2 → exec (.halt part ctx) s = .next (statusSet s part ctx 5)) ∧
       (g.status ≠ 2 → g.halted = true → exec (.halt part ctx) s = .next (statusSet s part ctx (if s.counted gid = true then 0 else 6))) ∧
       (g.status ≠ 2 → g.halted = false → ∃ t, exec (.halt part ctx) s = .next t ∧ t = { statusSet (s.putGang gid { g with halted := true }) part ctx
             (if s.counted gid = true then 0 else 6) with paths := t.paths } ∧
         ∀ k p, FMap.get? s.paths k = some p → ∃ p', FMap.get? t.paths k = some p' ∧ (k / 4096 ≠ gid → p' = p) ∧
           (k / 4096 = gid → p'.stop = (if p.stop = 0x21 then 0x21 else 0x23) ∧ ((∀ n, p.wait ≠ .pause n) → p' = { p with stop := p'.stop }))) ∧
       (g.halted = true → s.counted gid = true → (∀ x ∈ s.paths, x.1 / 4096 = gid → ∀ l ∈ x.2.loads, l.hold = false) →
         ∃ t, exec (.resume part ctx) s = .next t ∧ t = { statusSet (s.putGang gid { g with halted := false }) part ctx 0 with paths := t.paths } ∧
           ∀ k p, FMap.get? s.paths k = some p → ∃ p', FMap.get? t.paths k = some p' ∧ (k / 4096 ≠ gid → p' = p) ∧
             (k / 4096 = gid → p.stop ≠ 0x21 → p' = { p with stop := if g.status = 0 then 0 else 0x23 }) ∧
             (k / 4096 = gid → p.stop = 0x21 → p'.pc = p.pc + 4 ∧ p'.live = [] ∧ p'.wait = .ready ∧ p'.stop = if g.status = 0 then 0 else 0x23)) ∧
       (g.halted = true → s.counted gid = true → s.runAt (dbgKey s part ctx) = none ∨ (c.dbg.frag = true ∧ 28 ≤ c.dbg.fnum) →
         exec (.step part ctx) s = .next (statusSet s part ctx 3)) ∧
       (∀ r, Selected s part ctx r → r.path.wait = .ready ∨ r.path.wait = .retry → ∃ p, exec (.step part ctx) s = .next
           ((s.putCtx part ctx { c with dbg := { c.dbg with status := 6, step := some (dbgKey s part ctx) } }).putPath r.key p) ∧
         (r.path.stop ≠ 0x21 → p = { r.path with stop := 0 }) ∧ (r.path.stop = 0x21 → p.pc = r.path.pc + 4 ∧ p.stop = 0))) ∧
     (∀ k p, c.dbg.step = some k → FMap.get? s.paths k = some p → ctx < 64 → ∃ p',
       s.endStep (64 * part + ctx) = (s.putCtx part ctx { c with dbg := { c.dbg with
         status := if s.counted (k / 4096) = true then 0 else 6, step := none } }).putPath k p' ∧
       p'.stop = (if p.stop = 0x21 then 0x21 else 0x23) ∧ ((∀ n, p.wait ≠ .pause n) → p' = { p with stop := p'.stop }) ∧
       ∀ n, p.wait = .pause n → p'.pc = p.pc + 4 ∧ p'.wait = .ready ∧ p'.live = []) ∧
     (∀ k ck, s.agenda = [] → s.stepping = some (ck, k) → step s = s.issue k)) ∧
  (∀ (s : State) (part ctx : Nat),
     let c := s.ctx part ctx
     let d := c.dbg
     let ok := fun (t : State) => statusSet t part ctx 0
     (∀ i : Instr, i = .read part ctx ∨ i = .write part ctx ∨ i = .force part ctx →
       (∀ gid g, Targets s part ctx gid g →
         (g.halted = false ∨ s.counted gid = false → exec i s = .next (statusSet s part ctx 2)) ∧
         (g.halted = true → s.counted gid = true → s.runAt (dbgKey s part ctx) = none ∨ (d.frag = true ∧ 28 ≤ d.fnum) → exec i s = .next (statusSet s part ctx 3))) ∧
       (∀ r, Selected s part ctx r → regValue s r d.lane d.reg = none ∨ 2 ≤ d.word ∨
           (d.word = 1 ∧ ∃ x, regValue s r d.lane d.reg = some (false, x)) → exec i s = .next (statusSet s part ctx 3)) ∧
       (∀ r, Selected s part ctx r → d.word = 0 → d.reg < 0x80 → i ≠ .force part ctx → InFlight s r d.reg d.lane →
         exec i s = .next (statusSet s part ctx 1))) ∧
     (∀ r, Selected s part ctx r → NoLoads s r →
       (∀ wide x, regValue s r d.lane d.reg = some (wide, x) → d.word = 0 ∨ (d.word = 1 ∧ wide = true) →
         exec (.read part ctx) s = .next (s.putCtx part ctx { c with dbg := { d with data := x.extractLsb' (32 * d.word) 32, status := 0 } })) ∧
       (∀ i : Instr, i = .write part ctx ∨ i = .force part ctx → d.word = 0 →
         (∀ n, d.reg = n → n < 0x80 → ∃ g, exec i s = .next (ok (s.putGroup r.gk g)) ∧ g = { r.group with v := g.v } ∧
           ∀ m L, L < 32 → d.lane < 32 → g.vreg m L = if m = n ∧ L = d.lane then d.data else r.group.vreg m L) ∧
         (∀ n, d.reg = 0x80 + n → n < 32 → ∃ g, exec i s = .next (ok (s.putGroup r.gk g)) ∧ g = { r.group with s := g.s } ∧
           ∀ m, g.sreg m = if m = n then d.data else r.group.sreg m) ∧
         (∀ n, d.reg = 0xB0 + n → 0 < n → n < 8 → ∃ g, exec i s = .next (ok (s.putGroup r.gk g)) ∧ g = { r.group with p := g.p } ∧
           ∀ m, g.pred m = if m = n then d.data else r.group.pred m) ∧
         (∀ n, d.reg = 0xA0 + n → n < 4 → d.lane < 32 → ∃ p, exec i s = .next (ok (s.putPath r.key p)) ∧
           p = { r.path with fw := p.fw, live := p.live } ∧ ∀ m L, L < 32 → p.latch m L = (if m = n ∧ L = d.lane then d.data else r.path.latch m L) ∧
             (CMap.get p.live m).getLsbD L = (decide (m = n ∧ L = d.lane) || (CMap.get r.path.live m).getLsbD L)) ∧
         (d.reg = 0xB0 ∨ (0x1020 ≤ d.reg ∧ d.reg ≤ 0x1027) ∨ d.reg = 0x1000 → exec i s = .next (statusSet s part ctx 4)) ∧
         (d.reg = 0xC0 → gmAccepts d.data → exec i s = .next (ok (s.putPath r.key { r.path with gm := d.data }))) ∧
         (d.reg = 0xC0 → ¬ gmAccepts d.data → exec i s = .next (ok s)) ∧
         (d.reg = 0xC1 → d.data.toNat % 4 = 0 →
           exec i s = .next (ok (s.putPath r.key { r.path with pc := r.path.pc.extractLsb' 32 32 ++ d.data }))) ∧
         (d.reg = 0xC1 → d.data.toNat % 4 ≠ 0 → exec i s = .next (statusSet s part ctx 3)) ∧
         (d.reg = 0x1009 → exec i s = .next (ok (s.putPath r.key { r.path with hmask := d.data })))) ∧
       (∀ i : Instr, i = .write part ctx ∨ i = .force part ctx → d.word = 1 → d.reg = 0xC1 →
         exec i s = .next (ok (s.putPath r.key { r.path with pc := d.data ++ r.path.pc.extractLsb' 0 32 })))) ∧
     (∀ r l y, Selected s part ctx r → d.word = 0 → d.reg < 0x80 → s.pathsOf r.gk = [(r.key, r.path)] → r.path.loads = [l] → l.wr = true →
       l.lanes = [y] → y.lane = d.lane → y.reg ≤ d.reg → d.reg < y.reg + y.nreg → d.reg ∉ y.skip →
       ∃ t g, exec (.force part ctx) s = .next t ∧ FMap.get? t.groups r.gk = some g ∧ g.vreg d.reg d.lane = d.data ∧
         (FMap.get? t.paths r.key).map (·.loads) = some [{ l with lanes := [{ y with skip := y.skip ++ [d.reg] }] }]))

/-- R150, R151, R152: the next slot of a pigeonhole is accepted: a reserved KIND, a field that must be zero, a SUBHDR that is zero or not aligned
abandons the docket with CODE 2 and sets ERR bit 1; else a docket of the slot's fields is PENDING while its DEP is not 0, without a subscription
READY; the acceptance index passes the slot. A retry does the same for a slot that waits, and nothing otherwise.

R151, R153, R154: an engine takes, of the READY dockets it can, one that was passed over before, then one of the highest PRIO and, among those, of
the pigeonhole whose turn is first, then of the lowest index; that docket is then RUNNING, and a READY wave task that it overtakes for want of a
place is passed over, as is each of them where none finds one; a Loom task's list is in the core's Loom; a stack-dot run reads its command and
vector. With none to take there is no issue.

R158, R139, R178, R126: the run of a wave task or parcel handler completes when its gang has ended, with RUNS one higher, SEEN its postmark: DONE
without a subscription; with one READY where a fire is owed, else IDLE. A stack dot unit writes its results and the status OK, BAD_COMMAND for a
command it does not accept, FAULT with the cause for a vector it could not read, RETIRED for a stack without its unit, and its run is complete.

The model's choices: GEOM that is not 0 outside a wave task is BAD_DOCKET (log 50); the command and the vector are read when the run starts, and a
docket whose command cannot be read has nothing to write and is complete (log 44). -/
def Obligations.Dockets : Prop :=
  (∀ (s : State) (hole part at_ : Nat), SlotDue s hole part at_ →
     let h := s.hole hole
     let x := Memory.read s.hostMem at_ 64
     let kind := x % 8
     let go := exec (if h.waits = true then .docketSlotRetry hole else .docketAccept hole) s
     (h.waits = true → exec (.docketAccept hole) s = .next s) ∧
     (h.waits = false → exec (.docketSlotRetry hole) s = .next s) ∧
     (5 ≤ kind ∨ field x 3 1 ≠ 0 ∨ (kind ≠ 0 ∧ field x 0x10 8 ≠ 0) ∨ (field x 0 1 / 32 % 2 = 1 ∧ field x 0x18 8 % 64 ≠ 0) ∨
         (field x 0 1 / 32 % 2 = 1 ∧ field x 0x18 8 = 0) →
       ∃ t, go = .next t ∧ (t.hole hole).acc = h.acc + 1 ∧ (t.hole hole).waits = false ∧
       (t.hole hole).err = h.err ||| 2 ∧ CMap.get t.hostMem (at_ + 1) = 6 ∧ CMap.get t.hostMem (at_ + 2) = 2) ∧
     (kind = 1 ∨ kind = 2 ∨ kind = 3 → field x 3 1 = 0 → field x 0x10 8 = 0 → field x 0 1 / 32 % 2 = 0 →
       ∃ t d, go = .next t ∧ (t.hole hole).acc = h.acc + 1 ∧ (t.hole hole).waits = false ∧ (t.hole hole).err = h.err ∧ (t.hole hole).head = h.head ∧
         (∀ j, j ≠ hole → t.hole j = s.hole j) ∧
         (∀ k, FMap.get? t.dockets k = if k = hole * 2 ^ 32 + h.acc.toNat then some d else FMap.get? s.dockets k) ∧
         d.hole = hole ∧ d.index = h.acc ∧ d.part = part ∧ d.ctx = h.ctx ∧ d.kind = kind ∧ d.prio = x / 8 % 4 ∧ d.subv = false ∧
         d.entry.toNat = field x 8 8 ∧ d.outhdr.toNat = field x 0x20 8 ∧ d.args.toNat = field x 0x30 16 ∧ d.runs = 0 ∧
         d.state = (if field x 4 4 = 0 then 2 else 1) ∧ CMap.get t.hostMem (at_ + 1) = BitVec.ofNat 8 d.state ∧ CMap.get t.hostMem (at_ + 2) = 0 ∧
         t.groups = s.groups ∧ t.paths = s.paths ∧ t.mem = s.mem)) ∧
  (∀ (s : State) (die kind engine : Nat),
     ((∀ x, ¬ Candidate s die kind engine x) →
       (kind ≠ 0 → exec (.docketIssue die kind engine) s = .next s) ∧
       (kind = 0 → ∃ t, exec (.docketIssue die kind engine) s = .next t ∧ t = { s with dockets := t.dockets } ∧
         ∀ k, FMap.get? t.dockets k = (FMap.get? s.dockets k).map fun e =>
           if e.hole / 64 = die ∧ e.state = 2 ∧ (e.kind = 0 ∨ e.kind = 4) then { e with passed := true } else e)) ∧
     (∀ x, Candidate s die kind engine x → ∃ y, s.pickDocket die kind engine = some y ∧ Candidate s die kind engine y ∧
       (x.2.passed = true → y.2.passed = true) ∧ (x.2.passed = y.2.passed → x.2.prio ≤ y.2.prio ∧
         (x.2.prio = y.2.prio → s.turnOf die y.2 ≤ s.turnOf die x.2 ∧ (s.turnOf die y.2 = s.turnOf die x.2 →
           (y.2.index - (s.hole y.2.hole).head).toNat ≤ (x.2.index - (s.hole x.2.hole).head).toNat)))) ∧
     (∀ k d, s.pickDocket die kind engine = some (k, d) → FMap.get? s.dockets k = some d →
       (d.kind = 0 ∨ d.kind = 1 ∨ d.kind = 2 ∨ d.kind = 4 → ∃ t d', exec (.docketIssue die kind engine) s = .next t ∧
         FMap.get? t.dockets k = some d' ∧ d'.state = 3 ∧
         d' = { d with state := 3, passed := false, last := d'.last, cmd := d'.cmd, vec := d'.vec, vecBad := d'.vecBad } ∧
         (d.subv = false → d'.last = d.last) ∧ (d.kind ≠ 2 → d'.cmd = d.cmd) ∧ FMap.get? t.lastHole (4 * die + d.prio) = some d.hole ∧
         (d.kind = 0 ∨ d.kind = 4 → ∀ j e, FMap.get? s.dockets j = some e → e.hole / 64 = die → e.state = 2 → e.kind = 0 ∨ e.kind = 4 →
           s.before die e d = true → s.canTake die 0 j e = false → (FMap.get? t.dockets j).map (·.passed) = some true) ∧
         (d.kind = 1 → d.subv = false → ∃ l, loomOf t engine = [l] ∧ l.addr = d.entry ∧ l.docket = some k ∧ l.wg = none ∧ l.cmd = 0 ∧ l.step = 0) ∧
         (let u := { s with lastHole := FMap.set s.lastHole (4 * die + d.prio) d.hole }
          ∀ bs s1, d.kind = 2 → u.readVA d.part d.ctx 2 d.entry.toNat 64 = (some bs, s1) →
            let x := leNat bs
            d'.cmd = some (BitVec.ofNat 512 x) ∧
            ∀ vb s2, sduOk x = true → s1.readVA d.part d.ctx 8 (field x 0x18 8) (field x 8 4 * tyBytes (field x 1 1 / 16)) = (some vb, s2) →
              d'.vec = vb ∧ d'.vecBad = d.vecBad)))) ∧
  (∀ (s : State) (k : Nat) (d : Docket), FMap.get? s.dockets k = some d →
     (d.state ≠ 3 → exec (.runComplete k) s = .next s ∧ exec (.sduDone k) s = .next s) ∧
     (d.state = 3 → d.kind = 0 ∨ d.kind = 4 → (∃ x ∈ s.gangs, x.2.src = .docket k) →
       ((∃ x ∈ s.gangs, x.2.src = .docket k ∧ x.2.status ≠ 4) → exec (.runComplete k) s = .next s) ∧
       ((∀ x ∈ s.gangs, x.2.src = .docket k → x.2.status = 4) →
         let s0 := { s with gangs := s.gangs.filter fun x => x.2.src != Source.docket k }
         let u := if d.outhdr = 0 then s0 else s0.walkHdr (.g d.part d.ctx d.outhdr)
         (d.subv = false → d.autoseal = false → ∃ t, exec (.runComplete k) s = .next t ∧
           t.gangs = s0.gangs ∧ t.groups = s.groups ∧ t.paths = s.paths ∧
           ∀ d', FMap.get? t.dockets k = some d' → d'.state = 5 ∧ d'.code = 1 ∧ d'.runs = d.runs + 1 ∧ d'.seen = d.last.getD 0) ∧
         (∀ h, d.subv = true → u.readHdr (.g d.part d.subctx d.subhdr) = some h → h.getLsbD 32 = false →
           ∃ t d', exec (.runComplete k) s = .next t ∧ FMap.get? t.dockets k = some d' ∧ d'.runs = d.runs + 1 ∧ d'.seen = d.last.getD 0 ∧
             d'.state = if d.last.getD 0 = h.extractLsb' 0 32 then 4 else 2))) ∧
     (d.state = 3 → d.kind = 2 →
       (d.cmd = none → exec (.sduDone k) s = .next (s.completeRun k true)) ∧
       (∀ c, d.cmd = some c → let x := c.toNat
         let ends := fun (u : State) (word : Nat) =>
           exec (.sduDone k) s = .next ((u.wroteVA d.part d.ctx 128 (field x 0x28 8) (leBytes word 8)).2.completeRun k true)
         (sduOk x = false → ends s 2) ∧
         (sduOk x = true → s.mgmt.sduDown (x % 8) = true → ends s 5) ∧
         (sduOk x = true → s.mgmt.sduDown (x % 8) = false → d.vecBad ≠ 0 → ends s (4 + 2 ^ 8 * d.vecBad.toNat)) ∧
         (∀ out fmt s2 s3, sduOk x = true → s.mgmt.sduDown (x % 8) = false → d.vecBad = 0 → s.sduRun d.part d.ctx x d.vec = (.ok (out, fmt), s2) →
           s2.wroteVA d.part d.ctx 128 (field x 0x20 8) out = (true, s3) → ends s3 (1 + if fmt = true then 2 ^ 16 else 0)))))

/-- R171, R172: a step of MMA or MMAZ adds to each accumulator of its tile the ADD16 of the sixteen elements of its row and column, from
the value it held, or from zero in the first step of MMAZ, on ring data in the chip scratchpad or in scratch; the list's progress is one step
further. The last step on a slot arrives once on each ring's empty barrier, the last of the command advances both CURSORs by KSLOTS and goes to
the next command; nothing else differs. A step waits for the slots' full barriers. R177: the Loom sees a late store's old bytes.

R173, R170: a list without banks ends with NO_BANKS, one whose banks are of the other kind with BANKKIND, one with a ring access out of bounds
with RING_FAULT, one with a barrier untagged with NOT_BARRIER, one whose command is not valid with BAD_COMMAND.

R174, R170: DRAIN to the chip scratchpad writes every element of the tile, converted, at its row and column, and the list goes to its
next command; END, and an end before it, leaves the Loom with the status word written where the list's END command says, its barrier arrived at,
its event counted or its docket's DEP lowered, and the banks of a Loom task free; a
command whose OP is another leaves the list, one whose OP is none of the four ends it with BAD_COMMAND.

The model's choices: a CURSOR with a barrier tag is RING_FAULT (log 98); which stores are late (log 1). -/
def Obligations.LoomPasses : Prop :=
  (∀ (s : State) (loc : SLoc), (s.stale = [] → s.loomMem loc = s.slocMem loc) ∧
     ∀ x, s.stale = [x] → x.loc = loc → ∀ a, CMap.get (s.loomMem loc) a =
       if x.key ≤ a ∧ a < x.key + x.old.length then x.old.getD (a - x.key) 0 else CMap.get (s.slocMem loc) a) ∧
  (∀ (s s1 : State) (core : Nat) (l : LoomList) (x : BitVec 256) (i : Instr) (zero : Bool), AtCommand s s1 core l x →
     ((i = .mma core ∧ zero = false) ∨ (i = .mmaz core ∧ zero = true) ∨ i = .loomRingPhase core) →
     x.extractLsb' 0 4 = (if zero = true then 2 else 1) →
     let ta := (x.extractLsb' 4 4).toNat
     let tb := (x.extractLsb' 8 4).toNat
     let blk := 32 * 2 ^ (x.extractLsb' 14 2).toNat
     let sps := 32 / tyBits ta
     let uses := (x.extractLsb' 32 16).toNat
     let u := l.step / sps
     let A := ringA x
     let B := ringB x
     let za := A.slotBytes ta blk
     let zb := B.slotBytes tb blk
     let banks := (tileRows x * tileCols x + 4095) / 4096
     let ends := fun code : BitVec 8 => exec i s = .next (s1.endLoom core l code)
     (∀ code, ListEnds s1 core l code (s1.endLoom core l code)) ∧
     (∀ acc loc, MayMultiply s1 l x acc loc zero →
       (¬ RingIn s1 loc A za u → ends 5) ∧ (RingIn s1 loc A za u → ¬ RingTags s1 loc A u → ends 6) ∧
       (RingIn s1 loc A za u → RingTags s1 loc A u → ¬ RingIn s1 loc B zb u → ends 5) ∧
       (RingIn s1 loc A za u → RingTags s1 loc A u → RingIn s1 loc B zb u → ¬ RingTags s1 loc B u → ends 6) ∧
       (RingIn s1 loc A za u → RingTags s1 loc A u → RingIn s1 loc B zb u → RingTags s1 loc B u →
         (l.step % sps = 0 → ¬ (RingFull s1 loc A u ∧ RingFull s1 loc B u) → exec i s = .next s1) ∧
         (l.step % sps = 0 → RingFull s1 loc A u ∧ RingFull s1 loc B u) → NoWaiters s1 →
         let sa := slotOf s1 loc A u
         let sb := slotOf s1 loc B u
         let ea := A.hdr + 8 * (1 + A.n + sa)
         let eb := B.hdr + 8 * (1 + B.n + sb)
         let last := l.step + 1 = uses * sps
         SlotResident s1 loc A za sa → SlotResident s1 loc B zb sb →
         [ea, eb, A.hdr, B.hdr].Pairwise (fun a b => a + 8 ≤ b ∨ b + 8 ≤ a) →
         ∃ v l' acc', exec i s = .next (v.putHead core l' (some acc')) ∧
           l' = { l with step := if last then 0 else l.step + 1, cmd := if last then l.cmd + 1 else l.cmd, fmt := l'.fmt } ∧
           WordsPut s1 v loc.1 ((if l.step % sps + 1 = sps then [(ea, arrived (s1.barWord loc.1 ea)), (eb, arrived (s1.barWord loc.1 eb))] else []) ++
             if last then [(A.hdr, s1.barWord loc.1 A.hdr + BitVec.ofNat 64 uses), (B.hdr, s1.barWord loc.1 B.hdr + BitVec.ofNat 64 uses)] else []) ∧
           acc'.banks = acc.banks ∧
           (∀ q, CMap.get acc'.kinds q = if zero = true ∧ firstBank x ≤ q ∧ q < firstBank x + banks then (if ta = 4 then 1 else 0)
             else CMap.get acc.kinds q) ∧
           (∀ a b, a < tileRows x → b < tileCols x → CMap.get acc'.data (4096 * firstBank x + (a * tileCols x + b)) =
             stepAcc (s1.loomMem loc.1) x sa sb l.step
               (if zero = true ∧ l.step = 0 then 0 else CMap.get acc.data (4096 * firstBank x + (a * tileCols x + b))) a b) ∧
           (∀ e, e < 4096 * firstBank x ∨ 4096 * firstBank x + tileRows x * tileCols x ≤ e → CMap.get acc'.data e = CMap.get acc.data e) ∧
           (ta ≠ 14 → l'.fmt = l.fmt) ∧
           (ta = 14 → (l'.fmt = true ↔ l.fmt = true ∨ ∃ k, k < 16 ∧ let n := 16 * (l.step % sps) + k
             ((∃ a, a < tileRows x ∧ (slotEl (s1.loomMem loc.1) (A.data + sa * za) (tileRows x) ta blk a n).2 = true) ∨
               ∃ b, b < tileCols x ∧ (slotEl (s1.loomMem loc.1) (B.data + sb * zb) (tileCols x) tb blk b n).2 = true))))) ∧
     (mmaOk x l.docket.isSome = true → s1.listAcc l = none → ends 3) ∧
     (∀ acc, mmaOk x l.docket.isSome = true → s1.listAcc l = some acc →
       (acc.banks.length < firstBank x + banks → ends 3) ∧
       (firstBank x + banks ≤ acc.banks.length → zero = false →
         (∃ q, q < banks ∧ CMap.get acc.kinds (firstBank x + q) ≠ if ta = 4 then 1 else 0) → ends 4)) ∧
     (mmaOk x l.docket.isSome = false → ends 2)) ∧
  (∀ (s s1 : State) (core : Nat) (l : LoomList) (x : BitVec 256), AtCommand s s1 core l x →
     ((x.extractLsb' 0 4).toNat ≠ 3 → (x.extractLsb' 0 4).toNat ≤ 3 → exec (.drain core) s = .next s1) ∧
     ((x.extractLsb' 0 4).toNat ≠ 0 → (x.extractLsb' 0 4).toNat ≤ 3 → exec (.endList core) s = .next s1) ∧
     (∀ i : Instr, i = .mma core ∨ i = .mmaz core ∨ i = .drain core ∨ i = .endList core ∨ i = .loomRingPhase core →
       3 < (x.extractLsb' 0 4).toNat → exec i s = .next (s1.endLoom core l 2)) ∧
     (∀ acc k la, l.drained = 0 → x.extractLsb' 0 4 = 3 → drainOk x = true → s1.listAcc l = some acc →
       firstBank x + (tileRows x * tileCols x + 4095) / 4096 ≤ acc.banks.length → x.extractLsb' 10 2 = 1 →
       s1.listLoc l .K = (.chip k, 1024 * la.record.chip) → FMap.get? s1.launches k = some la → la.ktags = [] →
       let w := tyBytes (x.extractLsb' 4 4).toNat
       let addr := (x.extractLsb' 64 64).toNat
       let stride := (x.extractLsb' 128 32).toInt
       (tileCols x * w : Nat) ≤ stride → addr + tileRows x * stride ≤ 1024 * la.record.chip →
       ∃ t la', exec (.drain core) s = .next t ∧ FMap.get? t.launches k = some la' ∧ (∃ rest, loomOf t core = { l with cmd := l.cmd + 1, step := 0 } :: rest) ∧
         ∀ a b, a < tileRows x → b < tileCols x →
           let v := CMap.get acc.data (4096 * firstBank x + (a * tileCols x + b))
           Memory.read la'.chip (addr + a * stride.toNat + b * w) w =
             (convert ⟨0, x.getLsbD 8, false⟩ (x.extractLsb' 4 4).toNat
               (if CMap.get acc.kinds (firstBank x + (a * tileCols x + b) / 4096) = 1 then .int v.toInt else .flt (fmtA80.decode v.toNat))).1 % 2 ^ (8 * w)) ∧
     (x.extractLsb' 0 4 = 0 → ∃ t, exec (.endList core) s = .next t ∧
       ListEnds s1 core l (if endOk x l.docket.isSome = true then 1 else 2) t))

/-- R225, R238: an instruction of the map and its word determine each other: every instruction of the map decodes from its word with every
field at every value, no other word decodes to it, and an event of the device has no word. -/
def Obligations.EncodeDecode : Prop :=
 ∀ (i : Instr) (w : Word), encode i = some w ↔ decode w = .ok i

/-- R226, R225: the worked encodings of the spec and words written out by fields, one or more of each family. -/
def Obligations.DecodeWords : Prop :=
  -- fadd v3, v1, fw0; add -, v1, one; cle p2, v4, s5; ldg v8, s4, -8; loop s3, -3; trap 0x42
  decode 0x500301A0 = .ok (.fadd 0 3 0x01 0xA0) ∧ decode 0x108001A9 = .ok (.add 1 0 0x01 0xA9) ∧
  decode 0x3B020485 = .ok (.cle 2 0x04 0x85) ∧ decode 0xA80884F8 = .ok (.ldg 0 8 0x84 0xF8) ∧
  decode 0x9A3FFFFD = .ok (.loop 3 (-3)) ∧ decode 0xF0000042 = .ok (.trap 0x42) ∧
  -- op, W, D, A, B: cvt v2, v6; ballot s1, v3; atg.add v4, s6, 2; binit s9, v1; mode
  decode (0x70#8 ++ 0#1 ++ 2#7 ++ 0x06#8 ++ 0#8) = .ok (.cvt 0 2 0x06) ∧
  decode (0x84#8 ++ 0#1 ++ 1#7 ++ 0x03#8 ++ 0#8) = .ok (.ballot 0 1 0x03) ∧
  decode (0xBA#8 ++ 0#1 ++ 4#7 ++ 0x86#8 ++ 0x02#8) = .ok (.atgAdd 0 4 0x86 0x02) ∧
  decode (0xF2#8 ++ 1#1 ++ 0#7 ++ 0x0006#16) = .ok (.srd 1 0 6) ∧
  decode (0x01#8 ++ 0#5 ++ 0x00442#19) = .ok (.mode 0x442) ∧
  -- binit s12, s13; barv s2, 0; lque s6; every fence
  decode 0xD2008C8D = .ok (.binit 0x8C 0x8D) ∧ decode (0xD3#8 ++ 0#8 ++ 0x82#8 ++ 0x00#8) = .ok (.barv 0x82 0) ∧
  decode (0xE3#8 ++ 0#8 ++ 0x86#8 ++ 0#8) = .ok (.lque 0x86) ∧
  (∀ (k : BitVec 2) (m : BitVec 8) (d : BitVec 4), decode (0xC8#8 ++ 0#10 ++ k ++ m ++ d) = .ok (.fence k m d)) ∧
  -- an unassigned opcode, and a field that must be zero
  (∀ i, decode 0x08000000 ≠ .ok i) ∧ (∀ i, decode 0x00000001 ≠ .ok i)

/-- R274, R225, R135, R140, R240: with nothing due from outside, the path that the machine picks fetches the word at its PC; when it decodes to an
instruction that waits for no load, the step is that instruction's meaning, then the cycle of its core, the end of a debugger's STEP, the waits that end by
themselves, the deliveries of a switch point, and the turn of the next path where this one gives way. A word that is no instruction raises ILLEGAL, a fetch
that fails its cause. Where no path waits and nothing is owed, only the cycle and the turn are added.

R135: the path picked is one whose turn it is, the one that issued before while it is still its turn; of a group's own slot it is the ready path that is
between two switch points, else the next ready one in the cyclic order. The model's choices: one cycle of the core counted per issue (DESIGN CHOICE, log 12),
a fetch that reads memory directly (DESIGN CHOICE, log 11), whose slot goes first among the slots of the package (DESIGN CHOICE, log 10), and which
instructions let late stores to the on-chip memories stay unseen (DESIGN CHOICE, log 1).

R24, R359: what the agenda says comes next: an event is its meaning and the waits that then end; of causes detected together one that the order of
R24 puts before no other comes first, the others after it; cycles of a core, bytes that the outside writes, a cached table entry that is dropped,
whether the host's bus answers, whether stores to the on-chip memories are seen late, paths that issue in one cycle. The order of the agenda is the model's
choice of what the spec leaves to the outside (DESIGN CHOICE, log 2). -/
def Obligations.StepRunsWhatIsNext : Prop :=
  (∀ (s s1 : State) (k : Nat) (r : Run), s.agenda = [] → s.pick = some k → s.runAt k = some r →
     let u := { s with cur := k }
     (∀ pa i t, u.fetchAt r = (.ok pa, s1) → decode (BitVec.ofNat 32 (Memory.read s1.mem pa 4)) = .ok i →
       (∀ p, FMap.get? s1.paths k = some p → p.interlocked i = false) → exec i (s1.shows k i) = .next t →
       step s = .next (s.after t k r.wg.core (Instr.switchPoint i))) ∧
     (∀ pa e, u.fetchAt r = (.ok pa, s1) → decode (BitVec.ofNat 32 (Memory.read s1.mem pa 4)) = .error e →
       step s = .next (s.after (s1.illegal r) k r.wg.core false)) ∧
     (∀ c, u.fetchAt r = (.error c, s1) →
       step s = .next (s.after (s1.raise r c (lowLane r.path.mask) r.path.pc r.path.mask) k r.wg.core false)) ∧
     (∀ t core, (∀ x ∈ s.paths, x.2.wait = .ready ∨ x.2.wait = .retry) → (∀ x ∈ t.paths, x.2.wait = .ready ∨ x.2.wait = .retry) →
       t.selv.jobs = [] → t.reqs = [] → t.exits = [] → (∀ x ∈ t.ctxs, x.2.dbg.status ≠ 6 ∧ x.2.dbg.step = none ∧ x.2.sealing = none) → (∀ x ∈ t.holes, x.2.again = false) →
       (∀ x ∈ t.gangs, x.2.dq = [] ∧ x.2.status ≠ 1 ∧ t.onDraining x.1 x.2 = false) → (∀ y ∈ t.launches, ∃ x ∈ t.gangs, x.2.src = .launch y.1 ∧ x.2.status ≠ 4) →
       s.inHandler k = true ∨ t.inHandler k = false →
       let v := (t.putCore core { t.core core with cycles := (t.core core).cycles + 1 }).modPath k fun p => { p with mid := true, lent := s.borrows k }
       s.after t k core false = if v.isReady k = true then v else v.moveOn k)) ∧
  (∀ (s : State) (a : Agenda) (rest : List Agenda), s.agenda = a :: rest →
     let u := { s with agenda := rest }
     (∀ i t, a = .event i → encode i = none → exec i (if Instr.loomStep i = true then u else { u with stale := [] }) = .next t → step s = .next (u.settleDown t)) ∧
     (∀ i w, a = .event i → encode i = some w → step s = .next u) ∧
     (∀ i l, a = .together (i :: l) → ∃ j m, (j :: m).Perm (i :: l) ∧ (∀ y ∈ m, causeFirst y j = false) ∧
       step s = State.happen j { u with agenda := if m.isEmpty = true then rest else .together m :: rest }) ∧
     (∀ k, a = .issue k → step s = .next (if u.inTurn k = true then { u with cur := k } else u)) ∧
     (∀ part page, a = .drop part page → step s = .next { u with tlb := FMap.erase u.tlb (part * 2 ^ 36 + page) }) ∧
     (∀ b, a = .hostBus b → step s = .next { u with hostErr := b }) ∧
     (∀ c n, a = .elapse c n → step s = .next (u.settleDown (u.putCore c { u.core c with cycles := (u.core c).cycles + n }))) ∧
     (∀ x bs, a = .hostBytes x bs → step s = .next (u.settleDown { u with hostMem := Memory.writeBytes u.hostMem x bs })) ∧
     (∀ x bs, a = .deviceBytes x bs → step s = .next (u.settleDown { u with mem := Memory.writeBytes u.mem x bs })) ∧
     (∀ b, a = .lag b → step s = .next { u with stale := [], lag := b }) ∧
     (∀ ps, a = .cycle ps → u.sameCycle ps = [] → step s = .next u)) ∧
  -- the turn (R135)
  (∀ (s : State) (k : Nat),
     (s.inTurn k = true ↔ s.isReady k = true ∧ (s.slotNext (k / 32) = some k ∨ s.borrows k = true)) ∧
     (∀ c j, s.stepping = some (c, j) → s.pick = some j) ∧
     (s.stepping = none → (s.inTurn s.cur = true → s.pick = some s.cur) ∧ (s.pick = some k → s.inTurn k = true) ∧
       (s.pick = none → s.inTurn k = false))) ∧
  (∀ (s : State) (gk : Nat) (g : Group), FMap.get? s.groups gk = some g →
     let C := s.paths.filter fun x => x.1 / 32 == gk && !s.borrows x.1 && s.isReady x.1
     (s.slotNext gk = none ↔ C = []) ∧
     (∀ k, s.slotNext gk = some k → ∃ p, (k, p) ∈ C ∧ (p.mid = true ∨ ∀ x ∈ C, x.2.mid = false) ∧
       ∀ x ∈ C, x.2.mid = p.mid → Sooner g.turn (place (k, p)) (place x))) ∧
  -- what late stores an instruction leaves unseen (log 1)
  (∀ (s : State) (k : Nat) (i : Instr) (w : Word), encode i = some w →
     let op := (w.extractLsb' 24 8).toNat
     (s.stale = [] → s.shows k i = s) ∧
     ((op < 0x96 ∨ 0x96 < op ∧ op < 0xA8 ∨ op = 0xAC ∨ op = 0xAD ∨ op = 0xD5 ∨ op = 0xD6) → s.shows k i = s) ∧
     (∀ p, op = 0xD3 ∨ op = 0xD4 → FMap.get? s.paths k = some p → s.shows k i = { s with
       stale := s.stale.map fun (x : Stale) => if x.group = k / 32 ∧ p.mask.getLsbD x.lane = true then { x with loom := true } else x }) ∧
     (op = 0x96 ∨ 0xA8 ≤ op ∧ op < 0xD3 ∧ op ≠ 0xAC ∧ op ≠ 0xAD ∨ 0xD7 ≤ op → s.shows k i = { s with stale := [] }))

/-- Every step answers a next state: no instruction, operand, mode or event stops the machine. -/
def Obligations.StepAnswers : Prop :=
 ∀ s : State, ∃ t, step s = .next t

/-- Every step keeps both memories in their canonical form. -/
def Obligations.StepKeepsMemoryForm : Prop :=
 ∀ s t : State, s.memOk → step s = .next t → t.memOk

/-- R20 to R24, R47, R71, R75, R85, R109, R185: the values the spec gives registers for reset: the Build Map as after bring-up, no partition
enabled, every ring and queue disabled, no handler, time-outs at 1,000,000, WARNEXP 38, every link and port up, every counter zero. Nothing is placed,
nothing is on its way, and both memories have their canonical form. That the size, head and lost count of a notification ring are 0 is the model's choice
(DESIGN CHOICE, log 4): the spec gives them no reset value. -/
def Obligations.ResetState : Prop :=
  let s := State.reset
  s.memOk ∧ s.mgmt.mapver = 1 ∧ s.mgmt.cause = 0 ∧ s.mgmt.subject = 0 ∧ s.mgmt.cores = 192 ∧ s.mgmt.hbmgb = 512 ∧ s.mgmt.l2kib = 196608 ∧
  s.mgmt.fwlen = 0 ∧ s.mgmt.attst = 0 ∧ s.mgmt.leaves = 2 ^ 20 ∧
  (∀ i, i < 240 → coreState s.mgmt i = if i % 10 < 8 then 0 else 1) ∧
  (∀ i, i < 272 → chanState s.mgmt i = if i % 34 < 32 then 0 else 1) ∧
  (∀ l, (s.link l).signal = 0 ∧ (s.link l).tmo = 1000000 ∧ (s.link l).warnexp = 38 ∧ (s.link l).late = 0 ∧ (s.link l).tmocnt = 0 ∧
    (s.link l).failcnt = 0 ∧ (s.link l).keyerr = false) ∧
  s.selv.notetmo = 1000000 ∧ s.selv.cst = 0 ∧ s.selv.jobfail = 0 ∧ s.selv.stale = 0 ∧
  (∀ n, (s.part n).en = false ∧ (s.part n).pst = 0 ∧ (s.part n).ptroot = 0 ∧ (s.part n).ftlog = 0) ∧
  (∀ n, (s.fn n).log = 0 ∧ (s.fn n).head = 0 ∧ (s.fn n).lost = 0) ∧ (∀ q, (s.queue q).log = 0 ∧ (s.queue q).err = false) ∧
  (∀ h, (s.hole h).log = 0 ∧ (s.hole h).err = 0) ∧
  (∀ part ctx, (s.ctx part ctx).hentry = 0 ∧ (s.ctx part ctx).syslog = 0 ∧ (s.ctx part ctx).swapst = 0 ∧ (s.ctx part ctx).sgn = 0) ∧
  (∀ k, FMap.get? s.paths k = none) ∧ s.reqs = [] ∧ s.exits = [] ∧ s.stale = [] ∧ s.lag = false

end
end

