-- ==== Sys2Proof/Laws/Map.lean ====
section
/-! SUPPORT. Laws of the sparse tables: what a read after a write gives, and that every write keeps the canonical form. -/

namespace Sys2Proof

/-! ### Records -/

@[simp] theorem FMap.get?_nil {α : Type} (k : Nat) : FMap.get? ([] : FMap α) k = none := rfl

theorem FMap.get?_cons {α : Type} (j : Nat) (v : α) (t : FMap α) (k : Nat) :
    FMap.get? ((j, v) :: t) k = if j = k then some v else FMap.get? t k := rfl

@[simp] theorem FMap.get?_erase_self {α : Type} (m : FMap α) (k : Nat) : FMap.get? (FMap.erase m k) k = none := by
  induction m with
  | nil => rfl
  | cons x t ih =>
    obtain ⟨j, v⟩ := x
    by_cases h : j = k
    · simp [FMap.erase, h, ih]
    · simp [FMap.erase, h, FMap.get?_cons, ih]

theorem FMap.get?_erase_of_ne {α : Type} (m : FMap α) {j k : Nat} (h : j ≠ k) : FMap.get? (FMap.erase m k) j = FMap.get? m j := by
  induction m with
  | nil => rfl
  | cons x t ih =>
    obtain ⟨i, v⟩ := x
    by_cases hi : i = k
    · have : i ≠ j := fun e => h (e.symm.trans hi)
      simp [FMap.erase, hi, FMap.get?_cons, ih, Ne.symm h]
    · rw [FMap.erase, if_neg hi, FMap.get?_cons, FMap.get?_cons, ih]

theorem FMap.get?_ins_of_ne {α : Type} (m : FMap α) {j k : Nat} (x : α) (h : j ≠ k) :
    FMap.get? (FMap.ins m k x) j = FMap.get? m j := by
  induction m with
  | nil => simp [FMap.ins, FMap.get?_cons, Ne.symm h]
  | cons y t ih =>
    obtain ⟨i, v⟩ := y
    by_cases hk : k < i
    · simp [FMap.ins, hk, FMap.get?_cons, Ne.symm h]
    · rw [FMap.ins, if_neg hk, FMap.get?_cons, FMap.get?_cons, ih]

theorem FMap.get?_ins_self {α : Type} (m : FMap α) (k : Nat) (x : α) (h : FMap.get? m k = none) :
    FMap.get? (FMap.ins m k x) k = some x := by
  induction m with
  | nil => simp [FMap.ins, FMap.get?_cons]
  | cons y t ih =>
    obtain ⟨i, v⟩ := y
    by_cases hi : i = k
    · simp [FMap.get?_cons, hi] at h
    · have ht : FMap.get? t k = none := by simpa [FMap.get?_cons, hi] using h
      by_cases hk : k < i <;> simp [FMap.ins, hk, FMap.get?_cons, hi, ih ht]

/-- A record written reads back. -/
@[simp] theorem FMap.get?_set_self {α : Type} (m : FMap α) (k : Nat) (x : α) : FMap.get? (FMap.set m k x) k = some x :=
  FMap.get?_ins_self _ _ _ (FMap.get?_erase_self m k)

/-- A write leaves every other key alone. -/
theorem FMap.get?_set_of_ne {α : Type} (m : FMap α) {j k : Nat} (x : α) (h : j ≠ k) :
    FMap.get? (FMap.set m k x) j = FMap.get? m j := by
  unfold FMap.set
  rw [FMap.get?_ins_of_ne _ x h, FMap.get?_erase_of_ne m h]

theorem FMap.getD_set_self {α : Type} (m : FMap α) (k : Nat) (x d : α) : FMap.getD (FMap.set m k x) k d = x := by
  simp [FMap.getD]

theorem FMap.getD_set_of_ne {α : Type} (m : FMap α) {j k : Nat} (x d : α) (h : j ≠ k) :
    FMap.getD (FMap.set m k x) j d = FMap.getD m j d := by
  simp [FMap.getD, FMap.get?_set_of_ne m x h]

/-! ### Words -/

@[simp] theorem CMap.get_nil {n : Nat} (k : Nat) : CMap.get ([] : CMap n) k = 0 := rfl

/-- A word written reads back. -/
@[simp] theorem CMap.get_set_self {n : Nat} (m : CMap n) (k : Nat) (x : BitVec n) : CMap.get (CMap.set m k x) k = x := by
  unfold CMap.get CMap.set
  by_cases h : x = 0
  · simp [h]
  · rw [if_neg h, FMap.get?_ins_self _ _ _ (FMap.get?_erase_self m k)]; rfl

/-- A write leaves every other word alone. -/
theorem CMap.get_set_of_ne {n : Nat} (m : CMap n) {j k : Nat} (x : BitVec n) (h : j ≠ k) :
    CMap.get (CMap.set m k x) j = CMap.get m j := by
  unfold CMap.get CMap.set
  by_cases hx : x = 0
  · rw [if_pos hx, FMap.get?_erase_of_ne m h]
  · rw [if_neg hx, FMap.get?_ins_of_ne _ x h, FMap.get?_erase_of_ne m h]

/-- A word after a write, at any key. -/
theorem CMap.get_set {n : Nat} (m : CMap n) (j k : Nat) (x : BitVec n) :
    CMap.get (CMap.set m k x) j = if j = k then x else CMap.get m j := by
  by_cases h : j = k
  · subst h; simp
  · simp [h, CMap.get_set_of_ne m x h]

/-- A word that no write of a list names is unchanged. -/
theorem CMap.get_setMany_of_not {n : Nat} (l : List (Nat × BitVec n)) (m : CMap n) (k : Nat) (h : ∀ x ∈ l, x.1 ≠ k) :
    CMap.get (CMap.setMany m l) k = CMap.get m k := by
  induction l generalizing m with
  | nil => rfl
  | cons x t ih =>
    have hx := h x (by simp)
    have := ih (CMap.set m x.1 x.2) fun y hy => h y (by simp [hy])
    simpa [CMap.setMany, List.foldl, CMap.get_set_of_ne m x.2 (Ne.symm hx)] using this

/-- The last of a list of writes with different keys reads back. -/
theorem CMap.get_setMany_of_mem {n : Nat} (l : List (Nat × BitVec n)) (m : CMap n) (k : Nat) (v : BitVec n)
    (hm : (k, v) ∈ l) (hd : l.Pairwise fun x y => x.1 ≠ y.1) : CMap.get (CMap.setMany m l) k = v := by
  induction l generalizing m with
  | nil => cases hm
  | cons x t ih =>
    rw [List.pairwise_cons] at hd
    rcases List.mem_cons.mp hm with h | h
    · subst h
      have := CMap.get_setMany_of_not t (CMap.set m k v) k fun y hy => Ne.symm (hd.1 y hy)
      simpa [CMap.setMany, List.foldl] using this
    · exact ih (CMap.set m x.1 x.2) h hd.2

/-! ### The canonical form -/

theorem CMap.okFrom_mono {n : Nat} {a b : Nat} (m : CMap n) (h : a ≤ b) (hm : CMap.okFrom b m = true) : CMap.okFrom a m = true := by
  cases m with
  | nil => rfl
  | cons x t =>
    simp only [CMap.okFrom, Bool.and_eq_true, decide_eq_true_eq] at hm ⊢
    exact ⟨⟨Nat.le_trans h hm.1.1, hm.1.2⟩, hm.2⟩

theorem CMap.okFrom_erase {n : Nat} (m : CMap n) (a k : Nat) (hm : CMap.okFrom a m = true) :
    CMap.okFrom a (FMap.erase m k) = true := by
  induction m generalizing a with
  | nil => rfl
  | cons x t ih =>
    obtain ⟨j, v⟩ := x
    simp only [CMap.okFrom, Bool.and_eq_true, decide_eq_true_eq] at hm
    by_cases h : j = k
    · simp only [FMap.erase, h, if_true]
      exact CMap.okFrom_mono _ (Nat.le_trans (h ▸ hm.1.1) (Nat.le_succ _)) (ih (k + 1) (h ▸ hm.2))
    · simp only [FMap.erase, h, if_false, CMap.okFrom, Bool.and_eq_true, decide_eq_true_eq]
      exact ⟨hm.1, ih _ hm.2⟩

theorem CMap.okFrom_ins {n : Nat} (m : CMap n) (a k : Nat) (x : BitVec n) (hx : x ≠ 0) (ha : a ≤ k)
    (hk : FMap.get? m k = none) (hm : CMap.okFrom a m = true) : CMap.okFrom a (FMap.ins m k x) = true := by
  induction m generalizing a with
  | nil => simpa [FMap.ins, CMap.okFrom, ha] using hx
  | cons y t ih =>
    obtain ⟨j, v⟩ := y
    simp only [CMap.okFrom, Bool.and_eq_true, decide_eq_true_eq] at hm
    by_cases h : k < j
    · simp only [FMap.ins, h, if_true, CMap.okFrom, Bool.and_eq_true, decide_eq_true_eq]
      exact ⟨⟨ha, hx⟩, ⟨⟨h, hm.1.2⟩, hm.2⟩⟩
    · have hj : j ≠ k := fun e => by simp [FMap.get?_cons, e] at hk
      have ht : FMap.get? t k = none := by simpa [FMap.get?_cons, hj] using hk
      simp only [FMap.ins, h, if_false, CMap.okFrom, Bool.and_eq_true, decide_eq_true_eq]
      exact ⟨hm.1, ih (j + 1) (by omega) ht hm.2⟩

/-- A write of a word keeps the form. -/
theorem CMap.ok_set {n : Nat} (m : CMap n) (k : Nat) (x : BitVec n) (h : m.ok = true) : (CMap.set m k x).ok = true := by
  unfold CMap.set CMap.ok
  split
  · exact CMap.okFrom_erase _ _ _ h
  · rename_i hx
    exact CMap.okFrom_ins _ _ _ _ hx (Nat.zero_le _) (FMap.get?_erase_self m k) (CMap.okFrom_erase _ _ _ h)

theorem CMap.ok_setMany {n : Nat} (l : List (Nat × BitVec n)) (m : CMap n) (h : m.ok = true) : (CMap.setMany m l).ok = true := by
  induction l generalizing m with
  | nil => exact h
  | cons x t ih => exact ih _ (CMap.ok_set m x.1 x.2 h)

/-! ### Memory -/

theorem Memory.wf_set (m : Memory) (k : Nat) (x : Byte) (h : m.wf = true) : Memory.wf (CMap.set m k x) = true := CMap.ok_set m k x h

/-- Memory.write keeps the canonical form. -/
theorem Memory.wf_write (n : Nat) (m : Memory) (a x : Nat) (h : m.wf = true) : (Memory.write m a n x).wf = true := by
  induction n generalizing m a x with
  | zero => exact h
  | succ n ih => exact ih _ _ _ (Memory.wf_set m a _ h)

/-- Memory.writeBytes keeps the canonical form. -/
theorem Memory.wf_writeBytes (l : List Byte) (m : Memory) (a : Nat) (h : m.wf = true) : (Memory.writeBytes m a l).wf = true := by
  induction l generalizing m a with
  | nil => exact h
  | cons b t ih => exact ih _ _ (Memory.wf_set m a b h)

/-- A byte outside the bytes written is unchanged. -/
theorem Memory.get_write_of_out (n : Nat) (m : Memory) (a x k : Nat) (h : k < a ∨ a + n ≤ k) :
    CMap.get (Memory.write m a n x) k = CMap.get m k := by
  induction n generalizing m a x with
  | zero => rfl
  | succ n ih =>
    have hk : k ≠ a := by omega
    rw [Memory.write, ih _ _ _ (by omega), CMap.get_set_of_ne m _ hk]

/-- A byte inside the bytes written is that byte of the number. -/
theorem Memory.get_write_of_in (n : Nat) (m : Memory) (a x i : Nat) (h : i < n) :
    CMap.get (Memory.write m a n x) (a + i) = BitVec.ofNat 8 (x / 256 ^ i) := by
  induction n generalizing m a x i with
  | zero => omega
  | succ n ih =>
    cases i with
    | zero => rw [Memory.write, Nat.add_zero, Memory.get_write_of_out _ _ _ _ _ (by omega)]; simp
    | succ i =>
      have := ih (CMap.set m a (BitVec.ofNat 8 x)) (a + 1) (x / 256) i (by omega)
      rw [Memory.write, show a + (i + 1) = a + 1 + i by omega, this, Nat.div_div_eq_div_mul, Nat.pow_succ, Nat.mul_comm]

theorem Memory.get_writeBytes_of_out (l : List Byte) (m : Memory) (a k : Nat) (h : k < a ∨ a + l.length ≤ k) :
    CMap.get (Memory.writeBytes m a l) k = CMap.get m k := by
  induction l generalizing m a with
  | nil => rfl
  | cons b t ih =>
    simp only [List.length_cons] at h
    have hk : k ≠ a := by omega
    rw [Memory.writeBytes, ih _ _ (by omega), CMap.get_set_of_ne m _ hk]

/-- A byte of a list written reads back. -/
theorem Memory.get_writeBytes_of_in (l : List Byte) (m : Memory) (a i : Nat) (h : i < l.length) :
    CMap.get (Memory.writeBytes m a l) (a + i) = l[i] := by
  induction l generalizing m a i with
  | nil => simp at h
  | cons b t ih =>
    cases i with
    | zero => rw [Memory.writeBytes, Nat.add_zero, Memory.get_writeBytes_of_out _ _ _ _ (by omega)]; simp
    | succ i =>
      have := ih (CMap.set m a b) (a + 1) i (by simpa using h)
      rw [Memory.writeBytes, show a + (i + 1) = a + 1 + i by omega, this]; rfl

/-- A number of n bytes reads back modulo 2^(8n). -/
theorem Memory.read_write_self (n : Nat) (m : Memory) (a x : Nat) : Memory.read (Memory.write m a n x) a n = x % 256 ^ n := by
  induction n generalizing m a x with
  | zero => simp [Memory.read, Nat.mod_one]
  | succ n ih =>
    rw [Memory.read, Memory.write, Memory.get_write_of_out _ _ _ _ _ (by omega), CMap.get_set_self, ih]
    rw [BitVec.toNat_ofNat, Nat.pow_succ (n := 256), Nat.mul_comm (256 ^ n) 256, Nat.mod_mul]

end Sys2Proof
end

