-- ==== Sys2Proof/Laws/State.lean ====
section
/-! SUPPORT. One lemma per field per update of a record of State, true by rfl, and what the accessors read after an update. -/

namespace Sys2Proof.Machine

/-! ### putPath -/

@[simp] theorem State.putPath_agenda (s : State) (k : Nat) (p : Path) : (s.putPath k p).agenda = s.agenda := rfl
@[simp] theorem State.putPath_cur (s : State) (k : Nat) (p : Path) : (s.putPath k p).cur = s.cur := rfl
@[simp] theorem State.putPath_mem (s : State) (k : Nat) (p : Path) : (s.putPath k p).mem = s.mem := rfl
@[simp] theorem State.putPath_hostMem (s : State) (k : Nat) (p : Path) : (s.putPath k p).hostMem = s.hostMem := rfl
@[simp] theorem State.putPath_paths (s : State) (k : Nat) (p : Path) : (s.putPath k p).paths = FMap.set s.paths k p := rfl
@[simp] theorem State.putPath_groups (s : State) (k : Nat) (p : Path) : (s.putPath k p).groups = s.groups := rfl
@[simp] theorem State.putPath_wgs (s : State) (k : Nat) (p : Path) : (s.putPath k p).wgs = s.wgs := rfl
@[simp] theorem State.putPath_gangs (s : State) (k : Nat) (p : Path) : (s.putPath k p).gangs = s.gangs := rfl
@[simp] theorem State.putPath_launches (s : State) (k : Nat) (p : Path) : (s.putPath k p).launches = s.launches := rfl
@[simp] theorem State.putPath_dockets (s : State) (k : Nat) (p : Path) : (s.putPath k p).dockets = s.dockets := rfl
@[simp] theorem State.putPath_ctxs (s : State) (k : Nat) (p : Path) : (s.putPath k p).ctxs = s.ctxs := rfl
@[simp] theorem State.putPath_parts (s : State) (k : Nat) (p : Path) : (s.putPath k p).parts = s.parts := rfl
@[simp] theorem State.putPath_fns (s : State) (k : Nat) (p : Path) : (s.putPath k p).fns = s.fns := rfl
@[simp] theorem State.putPath_queues (s : State) (k : Nat) (p : Path) : (s.putPath k p).queues = s.queues := rfl
@[simp] theorem State.putPath_holes (s : State) (k : Nat) (p : Path) : (s.putPath k p).holes = s.holes := rfl
@[simp] theorem State.putPath_lastHole (s : State) (k : Nat) (p : Path) : (s.putPath k p).lastHole = s.lastHole := rfl
@[simp] theorem State.putPath_links (s : State) (k : Nat) (p : Path) : (s.putPath k p).links = s.links := rfl
@[simp] theorem State.putPath_reqs (s : State) (k : Nat) (p : Path) : (s.putPath k p).reqs = s.reqs := rfl
@[simp] theorem State.putPath_sidelog (s : State) (k : Nat) (p : Path) : (s.putPath k p).sidelog = s.sidelog := rfl
@[simp] theorem State.putPath_cores (s : State) (k : Nat) (p : Path) : (s.putPath k p).cores = s.cores := rfl
@[simp] theorem State.putPath_tlb (s : State) (k : Nat) (p : Path) : (s.putPath k p).tlb = s.tlb := rfl
@[simp] theorem State.putPath_filters (s : State) (k : Nat) (p : Path) : (s.putPath k p).filters = s.filters := rfl
@[simp] theorem State.putPath_parked (s : State) (k : Nat) (p : Path) : (s.putPath k p).parked = s.parked := rfl
@[simp] theorem State.putPath_replies (s : State) (k : Nat) (p : Path) : (s.putPath k p).replies = s.replies := rfl
@[simp] theorem State.putPath_selv (s : State) (k : Nat) (p : Path) : (s.putPath k p).selv = s.selv := rfl
@[simp] theorem State.putPath_mgmt (s : State) (k : Nat) (p : Path) : (s.putPath k p).mgmt = s.mgmt := rfl
@[simp] theorem State.putPath_swaps (s : State) (k : Nat) (p : Path) : (s.putPath k p).swaps = s.swaps := rfl
@[simp] theorem State.putPath_vfEn (s : State) (k : Nat) (p : Path) : (s.putPath k p).vfEn = s.vfEn := rfl
@[simp] theorem State.putPath_numVfs (s : State) (k : Nat) (p : Path) : (s.putPath k p).numVfs = s.numVfs := rfl
@[simp] theorem State.putPath_owing (s : State) (k : Nat) (p : Path) : (s.putPath k p).owing = s.owing := rfl
@[simp] theorem State.putPath_hostErr (s : State) (k : Nat) (p : Path) : (s.putPath k p).hostErr = s.hostErr := rfl
@[simp] theorem State.putPath_lag (s : State) (k : Nat) (p : Path) : (s.putPath k p).lag = s.lag := rfl
@[simp] theorem State.putPath_stale (s : State) (k : Nat) (p : Path) : (s.putPath k p).stale = s.stale := rfl
@[simp] theorem State.putPath_exits (s : State) (k : Nat) (p : Path) : (s.putPath k p).exits = s.exits := rfl
@[simp] theorem State.putPath_netOut (s : State) (k : Nat) (p : Path) : (s.putPath k p).netOut = s.netOut := rfl
@[simp] theorem State.putPath_free (s : State) (k : Nat) (p : Path) : (s.putPath k p).free = s.free := rfl
@[simp] theorem State.putPath_uid (s : State) (k : Nat) (p : Path) : (s.putPath k p).uid = s.uid := rfl

/-! ### putGroup -/

@[simp] theorem State.putGroup_agenda (s : State) (k : Nat) (g : Group) : (s.putGroup k g).agenda = s.agenda := rfl
@[simp] theorem State.putGroup_cur (s : State) (k : Nat) (g : Group) : (s.putGroup k g).cur = s.cur := rfl
@[simp] theorem State.putGroup_mem (s : State) (k : Nat) (g : Group) : (s.putGroup k g).mem = s.mem := rfl
@[simp] theorem State.putGroup_hostMem (s : State) (k : Nat) (g : Group) : (s.putGroup k g).hostMem = s.hostMem := rfl
@[simp] theorem State.putGroup_paths (s : State) (k : Nat) (g : Group) : (s.putGroup k g).paths = s.paths := rfl
@[simp] theorem State.putGroup_groups (s : State) (k : Nat) (g : Group) : (s.putGroup k g).groups = FMap.set s.groups k g := rfl
@[simp] theorem State.putGroup_wgs (s : State) (k : Nat) (g : Group) : (s.putGroup k g).wgs = s.wgs := rfl
@[simp] theorem State.putGroup_gangs (s : State) (k : Nat) (g : Group) : (s.putGroup k g).gangs = s.gangs := rfl
@[simp] theorem State.putGroup_launches (s : State) (k : Nat) (g : Group) : (s.putGroup k g).launches = s.launches := rfl
@[simp] theorem State.putGroup_dockets (s : State) (k : Nat) (g : Group) : (s.putGroup k g).dockets = s.dockets := rfl
@[simp] theorem State.putGroup_ctxs (s : State) (k : Nat) (g : Group) : (s.putGroup k g).ctxs = s.ctxs := rfl
@[simp] theorem State.putGroup_parts (s : State) (k : Nat) (g : Group) : (s.putGroup k g).parts = s.parts := rfl
@[simp] theorem State.putGroup_fns (s : State) (k : Nat) (g : Group) : (s.putGroup k g).fns = s.fns := rfl
@[simp] theorem State.putGroup_queues (s : State) (k : Nat) (g : Group) : (s.putGroup k g).queues = s.queues := rfl
@[simp] theorem State.putGroup_holes (s : State) (k : Nat) (g : Group) : (s.putGroup k g).holes = s.holes := rfl
@[simp] theorem State.putGroup_lastHole (s : State) (k : Nat) (g : Group) : (s.putGroup k g).lastHole = s.lastHole := rfl
@[simp] theorem State.putGroup_links (s : State) (k : Nat) (g : Group) : (s.putGroup k g).links = s.links := rfl
@[simp] theorem State.putGroup_reqs (s : State) (k : Nat) (g : Group) : (s.putGroup k g).reqs = s.reqs := rfl
@[simp] theorem State.putGroup_sidelog (s : State) (k : Nat) (g : Group) : (s.putGroup k g).sidelog = s.sidelog := rfl
@[simp] theorem State.putGroup_cores (s : State) (k : Nat) (g : Group) : (s.putGroup k g).cores = s.cores := rfl
@[simp] theorem State.putGroup_tlb (s : State) (k : Nat) (g : Group) : (s.putGroup k g).tlb = s.tlb := rfl
@[simp] theorem State.putGroup_filters (s : State) (k : Nat) (g : Group) : (s.putGroup k g).filters = s.filters := rfl
@[simp] theorem State.putGroup_parked (s : State) (k : Nat) (g : Group) : (s.putGroup k g).parked = s.parked := rfl
@[simp] theorem State.putGroup_replies (s : State) (k : Nat) (g : Group) : (s.putGroup k g).replies = s.replies := rfl
@[simp] theorem State.putGroup_selv (s : State) (k : Nat) (g : Group) : (s.putGroup k g).selv = s.selv := rfl
@[simp] theorem State.putGroup_mgmt (s : State) (k : Nat) (g : Group) : (s.putGroup k g).mgmt = s.mgmt := rfl
@[simp] theorem State.putGroup_swaps (s : State) (k : Nat) (g : Group) : (s.putGroup k g).swaps = s.swaps := rfl
@[simp] theorem State.putGroup_vfEn (s : State) (k : Nat) (g : Group) : (s.putGroup k g).vfEn = s.vfEn := rfl
@[simp] theorem State.putGroup_numVfs (s : State) (k : Nat) (g : Group) : (s.putGroup k g).numVfs = s.numVfs := rfl
@[simp] theorem State.putGroup_owing (s : State) (k : Nat) (g : Group) : (s.putGroup k g).owing = s.owing := rfl
@[simp] theorem State.putGroup_hostErr (s : State) (k : Nat) (g : Group) : (s.putGroup k g).hostErr = s.hostErr := rfl
@[simp] theorem State.putGroup_lag (s : State) (k : Nat) (g : Group) : (s.putGroup k g).lag = s.lag := rfl
@[simp] theorem State.putGroup_stale (s : State) (k : Nat) (g : Group) : (s.putGroup k g).stale = s.stale := rfl
@[simp] theorem State.putGroup_exits (s : State) (k : Nat) (g : Group) : (s.putGroup k g).exits = s.exits := rfl
@[simp] theorem State.putGroup_netOut (s : State) (k : Nat) (g : Group) : (s.putGroup k g).netOut = s.netOut := rfl
@[simp] theorem State.putGroup_free (s : State) (k : Nat) (g : Group) : (s.putGroup k g).free = s.free := rfl
@[simp] theorem State.putGroup_uid (s : State) (k : Nat) (g : Group) : (s.putGroup k g).uid = s.uid := rfl

/-! ### putWg -/

@[simp] theorem State.putWg_agenda (s : State) (k : Nat) (w : Wg) : (s.putWg k w).agenda = s.agenda := rfl
@[simp] theorem State.putWg_cur (s : State) (k : Nat) (w : Wg) : (s.putWg k w).cur = s.cur := rfl
@[simp] theorem State.putWg_mem (s : State) (k : Nat) (w : Wg) : (s.putWg k w).mem = s.mem := rfl
@[simp] theorem State.putWg_hostMem (s : State) (k : Nat) (w : Wg) : (s.putWg k w).hostMem = s.hostMem := rfl
@[simp] theorem State.putWg_paths (s : State) (k : Nat) (w : Wg) : (s.putWg k w).paths = s.paths := rfl
@[simp] theorem State.putWg_groups (s : State) (k : Nat) (w : Wg) : (s.putWg k w).groups = s.groups := rfl
@[simp] theorem State.putWg_wgs (s : State) (k : Nat) (w : Wg) : (s.putWg k w).wgs = FMap.set s.wgs k w := rfl
@[simp] theorem State.putWg_gangs (s : State) (k : Nat) (w : Wg) : (s.putWg k w).gangs = s.gangs := rfl
@[simp] theorem State.putWg_launches (s : State) (k : Nat) (w : Wg) : (s.putWg k w).launches = s.launches := rfl
@[simp] theorem State.putWg_dockets (s : State) (k : Nat) (w : Wg) : (s.putWg k w).dockets = s.dockets := rfl
@[simp] theorem State.putWg_ctxs (s : State) (k : Nat) (w : Wg) : (s.putWg k w).ctxs = s.ctxs := rfl
@[simp] theorem State.putWg_parts (s : State) (k : Nat) (w : Wg) : (s.putWg k w).parts = s.parts := rfl
@[simp] theorem State.putWg_fns (s : State) (k : Nat) (w : Wg) : (s.putWg k w).fns = s.fns := rfl
@[simp] theorem State.putWg_queues (s : State) (k : Nat) (w : Wg) : (s.putWg k w).queues = s.queues := rfl
@[simp] theorem State.putWg_holes (s : State) (k : Nat) (w : Wg) : (s.putWg k w).holes = s.holes := rfl
@[simp] theorem State.putWg_lastHole (s : State) (k : Nat) (w : Wg) : (s.putWg k w).lastHole = s.lastHole := rfl
@[simp] theorem State.putWg_links (s : State) (k : Nat) (w : Wg) : (s.putWg k w).links = s.links := rfl
@[simp] theorem State.putWg_reqs (s : State) (k : Nat) (w : Wg) : (s.putWg k w).reqs = s.reqs := rfl
@[simp] theorem State.putWg_sidelog (s : State) (k : Nat) (w : Wg) : (s.putWg k w).sidelog = s.sidelog := rfl
@[simp] theorem State.putWg_cores (s : State) (k : Nat) (w : Wg) : (s.putWg k w).cores = s.cores := rfl
@[simp] theorem State.putWg_tlb (s : State) (k : Nat) (w : Wg) : (s.putWg k w).tlb = s.tlb := rfl
@[simp] theorem State.putWg_filters (s : State) (k : Nat) (w : Wg) : (s.putWg k w).filters = s.filters := rfl
@[simp] theorem State.putWg_parked (s : State) (k : Nat) (w : Wg) : (s.putWg k w).parked = s.parked := rfl
@[simp] theorem State.putWg_replies (s : State) (k : Nat) (w : Wg) : (s.putWg k w).replies = s.replies := rfl
@[simp] theorem State.putWg_selv (s : State) (k : Nat) (w : Wg) : (s.putWg k w).selv = s.selv := rfl
@[simp] theorem State.putWg_mgmt (s : State) (k : Nat) (w : Wg) : (s.putWg k w).mgmt = s.mgmt := rfl
@[simp] theorem State.putWg_swaps (s : State) (k : Nat) (w : Wg) : (s.putWg k w).swaps = s.swaps := rfl
@[simp] theorem State.putWg_vfEn (s : State) (k : Nat) (w : Wg) : (s.putWg k w).vfEn = s.vfEn := rfl
@[simp] theorem State.putWg_numVfs (s : State) (k : Nat) (w : Wg) : (s.putWg k w).numVfs = s.numVfs := rfl
@[simp] theorem State.putWg_owing (s : State) (k : Nat) (w : Wg) : (s.putWg k w).owing = s.owing := rfl
@[simp] theorem State.putWg_hostErr (s : State) (k : Nat) (w : Wg) : (s.putWg k w).hostErr = s.hostErr := rfl
@[simp] theorem State.putWg_lag (s : State) (k : Nat) (w : Wg) : (s.putWg k w).lag = s.lag := rfl
@[simp] theorem State.putWg_stale (s : State) (k : Nat) (w : Wg) : (s.putWg k w).stale = s.stale := rfl
@[simp] theorem State.putWg_exits (s : State) (k : Nat) (w : Wg) : (s.putWg k w).exits = s.exits := rfl
@[simp] theorem State.putWg_netOut (s : State) (k : Nat) (w : Wg) : (s.putWg k w).netOut = s.netOut := rfl
@[simp] theorem State.putWg_free (s : State) (k : Nat) (w : Wg) : (s.putWg k w).free = s.free := rfl
@[simp] theorem State.putWg_uid (s : State) (k : Nat) (w : Wg) : (s.putWg k w).uid = s.uid := rfl

/-! ### putGang -/

@[simp] theorem State.putGang_agenda (s : State) (k : Nat) (q : Gang) : (s.putGang k q).agenda = s.agenda := rfl
@[simp] theorem State.putGang_cur (s : State) (k : Nat) (q : Gang) : (s.putGang k q).cur = s.cur := rfl
@[simp] theorem State.putGang_mem (s : State) (k : Nat) (q : Gang) : (s.putGang k q).mem = s.mem := rfl
@[simp] theorem State.putGang_hostMem (s : State) (k : Nat) (q : Gang) : (s.putGang k q).hostMem = s.hostMem := rfl
@[simp] theorem State.putGang_paths (s : State) (k : Nat) (q : Gang) : (s.putGang k q).paths = s.paths := rfl
@[simp] theorem State.putGang_groups (s : State) (k : Nat) (q : Gang) : (s.putGang k q).groups = s.groups := rfl
@[simp] theorem State.putGang_wgs (s : State) (k : Nat) (q : Gang) : (s.putGang k q).wgs = s.wgs := rfl
@[simp] theorem State.putGang_gangs (s : State) (k : Nat) (q : Gang) : (s.putGang k q).gangs = FMap.set s.gangs k q := rfl
@[simp] theorem State.putGang_launches (s : State) (k : Nat) (q : Gang) : (s.putGang k q).launches = s.launches := rfl
@[simp] theorem State.putGang_dockets (s : State) (k : Nat) (q : Gang) : (s.putGang k q).dockets = s.dockets := rfl
@[simp] theorem State.putGang_ctxs (s : State) (k : Nat) (q : Gang) : (s.putGang k q).ctxs = s.ctxs := rfl
@[simp] theorem State.putGang_parts (s : State) (k : Nat) (q : Gang) : (s.putGang k q).parts = s.parts := rfl
@[simp] theorem State.putGang_fns (s : State) (k : Nat) (q : Gang) : (s.putGang k q).fns = s.fns := rfl
@[simp] theorem State.putGang_queues (s : State) (k : Nat) (q : Gang) : (s.putGang k q).queues = s.queues := rfl
@[simp] theorem State.putGang_holes (s : State) (k : Nat) (q : Gang) : (s.putGang k q).holes = s.holes := rfl
@[simp] theorem State.putGang_lastHole (s : State) (k : Nat) (q : Gang) : (s.putGang k q).lastHole = s.lastHole := rfl
@[simp] theorem State.putGang_links (s : State) (k : Nat) (q : Gang) : (s.putGang k q).links = s.links := rfl
@[simp] theorem State.putGang_reqs (s : State) (k : Nat) (q : Gang) : (s.putGang k q).reqs = s.reqs := rfl
@[simp] theorem State.putGang_sidelog (s : State) (k : Nat) (q : Gang) : (s.putGang k q).sidelog = s.sidelog := rfl
@[simp] theorem State.putGang_cores (s : State) (k : Nat) (q : Gang) : (s.putGang k q).cores = s.cores := rfl
@[simp] theorem State.putGang_tlb (s : State) (k : Nat) (q : Gang) : (s.putGang k q).tlb = s.tlb := rfl
@[simp] theorem State.putGang_filters (s : State) (k : Nat) (q : Gang) : (s.putGang k q).filters = s.filters := rfl
@[simp] theorem State.putGang_parked (s : State) (k : Nat) (q : Gang) : (s.putGang k q).parked = s.parked := rfl
@[simp] theorem State.putGang_replies (s : State) (k : Nat) (q : Gang) : (s.putGang k q).replies = s.replies := rfl
@[simp] theorem State.putGang_selv (s : State) (k : Nat) (q : Gang) : (s.putGang k q).selv = s.selv := rfl
@[simp] theorem State.putGang_mgmt (s : State) (k : Nat) (q : Gang) : (s.putGang k q).mgmt = s.mgmt := rfl
@[simp] theorem State.putGang_swaps (s : State) (k : Nat) (q : Gang) : (s.putGang k q).swaps = s.swaps := rfl
@[simp] theorem State.putGang_vfEn (s : State) (k : Nat) (q : Gang) : (s.putGang k q).vfEn = s.vfEn := rfl
@[simp] theorem State.putGang_numVfs (s : State) (k : Nat) (q : Gang) : (s.putGang k q).numVfs = s.numVfs := rfl
@[simp] theorem State.putGang_owing (s : State) (k : Nat) (q : Gang) : (s.putGang k q).owing = s.owing := rfl
@[simp] theorem State.putGang_hostErr (s : State) (k : Nat) (q : Gang) : (s.putGang k q).hostErr = s.hostErr := rfl
@[simp] theorem State.putGang_lag (s : State) (k : Nat) (q : Gang) : (s.putGang k q).lag = s.lag := rfl
@[simp] theorem State.putGang_stale (s : State) (k : Nat) (q : Gang) : (s.putGang k q).stale = s.stale := rfl
@[simp] theorem State.putGang_exits (s : State) (k : Nat) (q : Gang) : (s.putGang k q).exits = s.exits := rfl
@[simp] theorem State.putGang_netOut (s : State) (k : Nat) (q : Gang) : (s.putGang k q).netOut = s.netOut := rfl
@[simp] theorem State.putGang_free (s : State) (k : Nat) (q : Gang) : (s.putGang k q).free = s.free := rfl
@[simp] theorem State.putGang_uid (s : State) (k : Nat) (q : Gang) : (s.putGang k q).uid = s.uid := rfl

/-! ### putCtx -/

@[simp] theorem State.putCtx_agenda (s : State) (part ctx : Nat) (c : Ctx) : (s.putCtx part ctx c).agenda = s.agenda := rfl
@[simp] theorem State.putCtx_cur (s : State) (part ctx : Nat) (c : Ctx) : (s.putCtx part ctx c).cur = s.cur := rfl
@[simp] theorem State.putCtx_mem (s : State) (part ctx : Nat) (c : Ctx) : (s.putCtx part ctx c).mem = s.mem := rfl
@[simp] theorem State.putCtx_hostMem (s : State) (part ctx : Nat) (c : Ctx) : (s.putCtx part ctx c).hostMem = s.hostMem := rfl
@[simp] theorem State.putCtx_paths (s : State) (part ctx : Nat) (c : Ctx) : (s.putCtx part ctx c).paths = s.paths := rfl
@[simp] theorem State.putCtx_groups (s : State) (part ctx : Nat) (c : Ctx) : (s.putCtx part ctx c).groups = s.groups := rfl
@[simp] theorem State.putCtx_wgs (s : State) (part ctx : Nat) (c : Ctx) : (s.putCtx part ctx c).wgs = s.wgs := rfl
@[simp] theorem State.putCtx_gangs (s : State) (part ctx : Nat) (c : Ctx) : (s.putCtx part ctx c).gangs = s.gangs := rfl
@[simp] theorem State.putCtx_launches (s : State) (part ctx : Nat) (c : Ctx) : (s.putCtx part ctx c).launches = s.launches := rfl
@[simp] theorem State.putCtx_dockets (s : State) (part ctx : Nat) (c : Ctx) : (s.putCtx part ctx c).dockets = s.dockets := rfl
@[simp] theorem State.putCtx_ctxs (s : State) (part ctx : Nat) (c : Ctx) : (s.putCtx part ctx c).ctxs = FMap.set s.ctxs (ctxKey part ctx) c := rfl
@[simp] theorem State.putCtx_parts (s : State) (part ctx : Nat) (c : Ctx) : (s.putCtx part ctx c).parts = s.parts := rfl
@[simp] theorem State.putCtx_fns (s : State) (part ctx : Nat) (c : Ctx) : (s.putCtx part ctx c).fns = s.fns := rfl
@[simp] theorem State.putCtx_queues (s : State) (part ctx : Nat) (c : Ctx) : (s.putCtx part ctx c).queues = s.queues := rfl
@[simp] theorem State.putCtx_holes (s : State) (part ctx : Nat) (c : Ctx) : (s.putCtx part ctx c).holes = s.holes := rfl
@[simp] theorem State.putCtx_lastHole (s : State) (part ctx : Nat) (c : Ctx) : (s.putCtx part ctx c).lastHole = s.lastHole := rfl
@[simp] theorem State.putCtx_links (s : State) (part ctx : Nat) (c : Ctx) : (s.putCtx part ctx c).links = s.links := rfl
@[simp] theorem State.putCtx_reqs (s : State) (part ctx : Nat) (c : Ctx) : (s.putCtx part ctx c).reqs = s.reqs := rfl
@[simp] theorem State.putCtx_sidelog (s : State) (part ctx : Nat) (c : Ctx) : (s.putCtx part ctx c).sidelog = s.sidelog := rfl
@[simp] theorem State.putCtx_cores (s : State) (part ctx : Nat) (c : Ctx) : (s.putCtx part ctx c).cores = s.cores := rfl
@[simp] theorem State.putCtx_tlb (s : State) (part ctx : Nat) (c : Ctx) : (s.putCtx part ctx c).tlb = s.tlb := rfl
@[simp] theorem State.putCtx_filters (s : State) (part ctx : Nat) (c : Ctx) : (s.putCtx part ctx c).filters = s.filters := rfl
@[simp] theorem State.putCtx_parked (s : State) (part ctx : Nat) (c : Ctx) : (s.putCtx part ctx c).parked = s.parked := rfl
@[simp] theorem State.putCtx_replies (s : State) (part ctx : Nat) (c : Ctx) : (s.putCtx part ctx c).replies = s.replies := rfl
@[simp] theorem State.putCtx_selv (s : State) (part ctx : Nat) (c : Ctx) : (s.putCtx part ctx c).selv = s.selv := rfl
@[simp] theorem State.putCtx_mgmt (s : State) (part ctx : Nat) (c : Ctx) : (s.putCtx part ctx c).mgmt = s.mgmt := rfl
@[simp] theorem State.putCtx_swaps (s : State) (part ctx : Nat) (c : Ctx) : (s.putCtx part ctx c).swaps = s.swaps := rfl
@[simp] theorem State.putCtx_vfEn (s : State) (part ctx : Nat) (c : Ctx) : (s.putCtx part ctx c).vfEn = s.vfEn := rfl
@[simp] theorem State.putCtx_numVfs (s : State) (part ctx : Nat) (c : Ctx) : (s.putCtx part ctx c).numVfs = s.numVfs := rfl
@[simp] theorem State.putCtx_owing (s : State) (part ctx : Nat) (c : Ctx) : (s.putCtx part ctx c).owing = s.owing := rfl
@[simp] theorem State.putCtx_hostErr (s : State) (part ctx : Nat) (c : Ctx) : (s.putCtx part ctx c).hostErr = s.hostErr := rfl
@[simp] theorem State.putCtx_lag (s : State) (part ctx : Nat) (c : Ctx) : (s.putCtx part ctx c).lag = s.lag := rfl
@[simp] theorem State.putCtx_stale (s : State) (part ctx : Nat) (c : Ctx) : (s.putCtx part ctx c).stale = s.stale := rfl
@[simp] theorem State.putCtx_exits (s : State) (part ctx : Nat) (c : Ctx) : (s.putCtx part ctx c).exits = s.exits := rfl
@[simp] theorem State.putCtx_netOut (s : State) (part ctx : Nat) (c : Ctx) : (s.putCtx part ctx c).netOut = s.netOut := rfl
@[simp] theorem State.putCtx_free (s : State) (part ctx : Nat) (c : Ctx) : (s.putCtx part ctx c).free = s.free := rfl
@[simp] theorem State.putCtx_uid (s : State) (part ctx : Nat) (c : Ctx) : (s.putCtx part ctx c).uid = s.uid := rfl

/-! ### putPart -/

@[simp] theorem State.putPart_agenda (s : State) (n : Nat) (p : Part) : (s.putPart n p).agenda = s.agenda := rfl
@[simp] theorem State.putPart_cur (s : State) (n : Nat) (p : Part) : (s.putPart n p).cur = s.cur := rfl
@[simp] theorem State.putPart_mem (s : State) (n : Nat) (p : Part) : (s.putPart n p).mem = s.mem := rfl
@[simp] theorem State.putPart_hostMem (s : State) (n : Nat) (p : Part) : (s.putPart n p).hostMem = s.hostMem := rfl
@[simp] theorem State.putPart_paths (s : State) (n : Nat) (p : Part) : (s.putPart n p).paths = s.paths := rfl
@[simp] theorem State.putPart_groups (s : State) (n : Nat) (p : Part) : (s.putPart n p).groups = s.groups := rfl
@[simp] theorem State.putPart_wgs (s : State) (n : Nat) (p : Part) : (s.putPart n p).wgs = s.wgs := rfl
@[simp] theorem State.putPart_gangs (s : State) (n : Nat) (p : Part) : (s.putPart n p).gangs = s.gangs := rfl
@[simp] theorem State.putPart_launches (s : State) (n : Nat) (p : Part) : (s.putPart n p).launches = s.launches := rfl
@[simp] theorem State.putPart_dockets (s : State) (n : Nat) (p : Part) : (s.putPart n p).dockets = s.dockets := rfl
@[simp] theorem State.putPart_ctxs (s : State) (n : Nat) (p : Part) : (s.putPart n p).ctxs = s.ctxs := rfl
@[simp] theorem State.putPart_parts (s : State) (n : Nat) (p : Part) : (s.putPart n p).parts = FMap.set s.parts n p := rfl
@[simp] theorem State.putPart_fns (s : State) (n : Nat) (p : Part) : (s.putPart n p).fns = s.fns := rfl
@[simp] theorem State.putPart_queues (s : State) (n : Nat) (p : Part) : (s.putPart n p).queues = s.queues := rfl
@[simp] theorem State.putPart_holes (s : State) (n : Nat) (p : Part) : (s.putPart n p).holes = s.holes := rfl
@[simp] theorem State.putPart_lastHole (s : State) (n : Nat) (p : Part) : (s.putPart n p).lastHole = s.lastHole := rfl
@[simp] theorem State.putPart_links (s : State) (n : Nat) (p : Part) : (s.putPart n p).links = s.links := rfl
@[simp] theorem State.putPart_reqs (s : State) (n : Nat) (p : Part) : (s.putPart n p).reqs = s.reqs := rfl
@[simp] theorem State.putPart_sidelog (s : State) (n : Nat) (p : Part) : (s.putPart n p).sidelog = s.sidelog := rfl
@[simp] theorem State.putPart_cores (s : State) (n : Nat) (p : Part) : (s.putPart n p).cores = s.cores := rfl
@[simp] theorem State.putPart_tlb (s : State) (n : Nat) (p : Part) : (s.putPart n p).tlb = s.tlb := rfl
@[simp] theorem State.putPart_filters (s : State) (n : Nat) (p : Part) : (s.putPart n p).filters = s.filters := rfl
@[simp] theorem State.putPart_parked (s : State) (n : Nat) (p : Part) : (s.putPart n p).parked = s.parked := rfl
@[simp] theorem State.putPart_replies (s : State) (n : Nat) (p : Part) : (s.putPart n p).replies = s.replies := rfl
@[simp] theorem State.putPart_selv (s : State) (n : Nat) (p : Part) : (s.putPart n p).selv = s.selv := rfl
@[simp] theorem State.putPart_mgmt (s : State) (n : Nat) (p : Part) : (s.putPart n p).mgmt = s.mgmt := rfl
@[simp] theorem State.putPart_swaps (s : State) (n : Nat) (p : Part) : (s.putPart n p).swaps = s.swaps := rfl
@[simp] theorem State.putPart_vfEn (s : State) (n : Nat) (p : Part) : (s.putPart n p).vfEn = s.vfEn := rfl
@[simp] theorem State.putPart_numVfs (s : State) (n : Nat) (p : Part) : (s.putPart n p).numVfs = s.numVfs := rfl
@[simp] theorem State.putPart_owing (s : State) (n : Nat) (p : Part) : (s.putPart n p).owing = s.owing := rfl
@[simp] theorem State.putPart_hostErr (s : State) (n : Nat) (p : Part) : (s.putPart n p).hostErr = s.hostErr := rfl
@[simp] theorem State.putPart_lag (s : State) (n : Nat) (p : Part) : (s.putPart n p).lag = s.lag := rfl
@[simp] theorem State.putPart_stale (s : State) (n : Nat) (p : Part) : (s.putPart n p).stale = s.stale := rfl
@[simp] theorem State.putPart_exits (s : State) (n : Nat) (p : Part) : (s.putPart n p).exits = s.exits := rfl
@[simp] theorem State.putPart_netOut (s : State) (n : Nat) (p : Part) : (s.putPart n p).netOut = s.netOut := rfl
@[simp] theorem State.putPart_free (s : State) (n : Nat) (p : Part) : (s.putPart n p).free = s.free := rfl
@[simp] theorem State.putPart_uid (s : State) (n : Nat) (p : Part) : (s.putPart n p).uid = s.uid := rfl

/-! ### putCore -/

@[simp] theorem State.putCore_agenda (s : State) (n : Nat) (c : Core) : (s.putCore n c).agenda = s.agenda := rfl
@[simp] theorem State.putCore_cur (s : State) (n : Nat) (c : Core) : (s.putCore n c).cur = s.cur := rfl
@[simp] theorem State.putCore_mem (s : State) (n : Nat) (c : Core) : (s.putCore n c).mem = s.mem := rfl
@[simp] theorem State.putCore_hostMem (s : State) (n : Nat) (c : Core) : (s.putCore n c).hostMem = s.hostMem := rfl
@[simp] theorem State.putCore_paths (s : State) (n : Nat) (c : Core) : (s.putCore n c).paths = s.paths := rfl
@[simp] theorem State.putCore_groups (s : State) (n : Nat) (c : Core) : (s.putCore n c).groups = s.groups := rfl
@[simp] theorem State.putCore_wgs (s : State) (n : Nat) (c : Core) : (s.putCore n c).wgs = s.wgs := rfl
@[simp] theorem State.putCore_gangs (s : State) (n : Nat) (c : Core) : (s.putCore n c).gangs = s.gangs := rfl
@[simp] theorem State.putCore_launches (s : State) (n : Nat) (c : Core) : (s.putCore n c).launches = s.launches := rfl
@[simp] theorem State.putCore_dockets (s : State) (n : Nat) (c : Core) : (s.putCore n c).dockets = s.dockets := rfl
@[simp] theorem State.putCore_ctxs (s : State) (n : Nat) (c : Core) : (s.putCore n c).ctxs = s.ctxs := rfl
@[simp] theorem State.putCore_parts (s : State) (n : Nat) (c : Core) : (s.putCore n c).parts = s.parts := rfl
@[simp] theorem State.putCore_fns (s : State) (n : Nat) (c : Core) : (s.putCore n c).fns = s.fns := rfl
@[simp] theorem State.putCore_queues (s : State) (n : Nat) (c : Core) : (s.putCore n c).queues = s.queues := rfl
@[simp] theorem State.putCore_holes (s : State) (n : Nat) (c : Core) : (s.putCore n c).holes = s.holes := rfl
@[simp] theorem State.putCore_lastHole (s : State) (n : Nat) (c : Core) : (s.putCore n c).lastHole = s.lastHole := rfl
@[simp] theorem State.putCore_links (s : State) (n : Nat) (c : Core) : (s.putCore n c).links = s.links := rfl
@[simp] theorem State.putCore_reqs (s : State) (n : Nat) (c : Core) : (s.putCore n c).reqs = s.reqs := rfl
@[simp] theorem State.putCore_sidelog (s : State) (n : Nat) (c : Core) : (s.putCore n c).sidelog = s.sidelog := rfl
@[simp] theorem State.putCore_cores (s : State) (n : Nat) (c : Core) : (s.putCore n c).cores = FMap.set s.cores n c := rfl
@[simp] theorem State.putCore_tlb (s : State) (n : Nat) (c : Core) : (s.putCore n c).tlb = s.tlb := rfl
@[simp] theorem State.putCore_filters (s : State) (n : Nat) (c : Core) : (s.putCore n c).filters = s.filters := rfl
@[simp] theorem State.putCore_parked (s : State) (n : Nat) (c : Core) : (s.putCore n c).parked = s.parked := rfl
@[simp] theorem State.putCore_replies (s : State) (n : Nat) (c : Core) : (s.putCore n c).replies = s.replies := rfl
@[simp] theorem State.putCore_selv (s : State) (n : Nat) (c : Core) : (s.putCore n c).selv = s.selv := rfl
@[simp] theorem State.putCore_mgmt (s : State) (n : Nat) (c : Core) : (s.putCore n c).mgmt = s.mgmt := rfl
@[simp] theorem State.putCore_swaps (s : State) (n : Nat) (c : Core) : (s.putCore n c).swaps = s.swaps := rfl
@[simp] theorem State.putCore_vfEn (s : State) (n : Nat) (c : Core) : (s.putCore n c).vfEn = s.vfEn := rfl
@[simp] theorem State.putCore_numVfs (s : State) (n : Nat) (c : Core) : (s.putCore n c).numVfs = s.numVfs := rfl
@[simp] theorem State.putCore_owing (s : State) (n : Nat) (c : Core) : (s.putCore n c).owing = s.owing := rfl
@[simp] theorem State.putCore_hostErr (s : State) (n : Nat) (c : Core) : (s.putCore n c).hostErr = s.hostErr := rfl
@[simp] theorem State.putCore_lag (s : State) (n : Nat) (c : Core) : (s.putCore n c).lag = s.lag := rfl
@[simp] theorem State.putCore_stale (s : State) (n : Nat) (c : Core) : (s.putCore n c).stale = s.stale := rfl
@[simp] theorem State.putCore_exits (s : State) (n : Nat) (c : Core) : (s.putCore n c).exits = s.exits := rfl
@[simp] theorem State.putCore_netOut (s : State) (n : Nat) (c : Core) : (s.putCore n c).netOut = s.netOut := rfl
@[simp] theorem State.putCore_free (s : State) (n : Nat) (c : Core) : (s.putCore n c).free = s.free := rfl
@[simp] theorem State.putCore_uid (s : State) (n : Nat) (c : Core) : (s.putCore n c).uid = s.uid := rfl

/-! ### putLink -/

@[simp] theorem State.putLink_agenda (s : State) (n : Nat) (l : Link) : (s.putLink n l).agenda = s.agenda := rfl
@[simp] theorem State.putLink_cur (s : State) (n : Nat) (l : Link) : (s.putLink n l).cur = s.cur := rfl
@[simp] theorem State.putLink_mem (s : State) (n : Nat) (l : Link) : (s.putLink n l).mem = s.mem := rfl
@[simp] theorem State.putLink_hostMem (s : State) (n : Nat) (l : Link) : (s.putLink n l).hostMem = s.hostMem := rfl
@[simp] theorem State.putLink_paths (s : State) (n : Nat) (l : Link) : (s.putLink n l).paths = s.paths := rfl
@[simp] theorem State.putLink_groups (s : State) (n : Nat) (l : Link) : (s.putLink n l).groups = s.groups := rfl
@[simp] theorem State.putLink_wgs (s : State) (n : Nat) (l : Link) : (s.putLink n l).wgs = s.wgs := rfl
@[simp] theorem State.putLink_gangs (s : State) (n : Nat) (l : Link) : (s.putLink n l).gangs = s.gangs := rfl
@[simp] theorem State.putLink_launches (s : State) (n : Nat) (l : Link) : (s.putLink n l).launches = s.launches := rfl
@[simp] theorem State.putLink_dockets (s : State) (n : Nat) (l : Link) : (s.putLink n l).dockets = s.dockets := rfl
@[simp] theorem State.putLink_ctxs (s : State) (n : Nat) (l : Link) : (s.putLink n l).ctxs = s.ctxs := rfl
@[simp] theorem State.putLink_parts (s : State) (n : Nat) (l : Link) : (s.putLink n l).parts = s.parts := rfl
@[simp] theorem State.putLink_fns (s : State) (n : Nat) (l : Link) : (s.putLink n l).fns = s.fns := rfl
@[simp] theorem State.putLink_queues (s : State) (n : Nat) (l : Link) : (s.putLink n l).queues = s.queues := rfl
@[simp] theorem State.putLink_holes (s : State) (n : Nat) (l : Link) : (s.putLink n l).holes = s.holes := rfl
@[simp] theorem State.putLink_lastHole (s : State) (n : Nat) (l : Link) : (s.putLink n l).lastHole = s.lastHole := rfl
@[simp] theorem State.putLink_links (s : State) (n : Nat) (l : Link) : (s.putLink n l).links = FMap.set s.links n l := rfl
@[simp] theorem State.putLink_reqs (s : State) (n : Nat) (l : Link) : (s.putLink n l).reqs = s.reqs := rfl
@[simp] theorem State.putLink_sidelog (s : State) (n : Nat) (l : Link) : (s.putLink n l).sidelog = s.sidelog := rfl
@[simp] theorem State.putLink_cores (s : State) (n : Nat) (l : Link) : (s.putLink n l).cores = s.cores := rfl
@[simp] theorem State.putLink_tlb (s : State) (n : Nat) (l : Link) : (s.putLink n l).tlb = s.tlb := rfl
@[simp] theorem State.putLink_filters (s : State) (n : Nat) (l : Link) : (s.putLink n l).filters = s.filters := rfl
@[simp] theorem State.putLink_parked (s : State) (n : Nat) (l : Link) : (s.putLink n l).parked = s.parked := rfl
@[simp] theorem State.putLink_replies (s : State) (n : Nat) (l : Link) : (s.putLink n l).replies = s.replies := rfl
@[simp] theorem State.putLink_selv (s : State) (n : Nat) (l : Link) : (s.putLink n l).selv = s.selv := rfl
@[simp] theorem State.putLink_mgmt (s : State) (n : Nat) (l : Link) : (s.putLink n l).mgmt = s.mgmt := rfl
@[simp] theorem State.putLink_swaps (s : State) (n : Nat) (l : Link) : (s.putLink n l).swaps = s.swaps := rfl
@[simp] theorem State.putLink_vfEn (s : State) (n : Nat) (l : Link) : (s.putLink n l).vfEn = s.vfEn := rfl
@[simp] theorem State.putLink_numVfs (s : State) (n : Nat) (l : Link) : (s.putLink n l).numVfs = s.numVfs := rfl
@[simp] theorem State.putLink_owing (s : State) (n : Nat) (l : Link) : (s.putLink n l).owing = s.owing := rfl
@[simp] theorem State.putLink_hostErr (s : State) (n : Nat) (l : Link) : (s.putLink n l).hostErr = s.hostErr := rfl
@[simp] theorem State.putLink_lag (s : State) (n : Nat) (l : Link) : (s.putLink n l).lag = s.lag := rfl
@[simp] theorem State.putLink_stale (s : State) (n : Nat) (l : Link) : (s.putLink n l).stale = s.stale := rfl
@[simp] theorem State.putLink_exits (s : State) (n : Nat) (l : Link) : (s.putLink n l).exits = s.exits := rfl
@[simp] theorem State.putLink_netOut (s : State) (n : Nat) (l : Link) : (s.putLink n l).netOut = s.netOut := rfl
@[simp] theorem State.putLink_free (s : State) (n : Nat) (l : Link) : (s.putLink n l).free = s.free := rfl
@[simp] theorem State.putLink_uid (s : State) (n : Nat) (l : Link) : (s.putLink n l).uid = s.uid := rfl

/-! ### putHole -/

@[simp] theorem State.putHole_agenda (s : State) (n : Nat) (h : Hole) : (s.putHole n h).agenda = s.agenda := rfl
@[simp] theorem State.putHole_cur (s : State) (n : Nat) (h : Hole) : (s.putHole n h).cur = s.cur := rfl
@[simp] theorem State.putHole_mem (s : State) (n : Nat) (h : Hole) : (s.putHole n h).mem = s.mem := rfl
@[simp] theorem State.putHole_hostMem (s : State) (n : Nat) (h : Hole) : (s.putHole n h).hostMem = s.hostMem := rfl
@[simp] theorem State.putHole_paths (s : State) (n : Nat) (h : Hole) : (s.putHole n h).paths = s.paths := rfl
@[simp] theorem State.putHole_groups (s : State) (n : Nat) (h : Hole) : (s.putHole n h).groups = s.groups := rfl
@[simp] theorem State.putHole_wgs (s : State) (n : Nat) (h : Hole) : (s.putHole n h).wgs = s.wgs := rfl
@[simp] theorem State.putHole_gangs (s : State) (n : Nat) (h : Hole) : (s.putHole n h).gangs = s.gangs := rfl
@[simp] theorem State.putHole_launches (s : State) (n : Nat) (h : Hole) : (s.putHole n h).launches = s.launches := rfl
@[simp] theorem State.putHole_dockets (s : State) (n : Nat) (h : Hole) : (s.putHole n h).dockets = s.dockets := rfl
@[simp] theorem State.putHole_ctxs (s : State) (n : Nat) (h : Hole) : (s.putHole n h).ctxs = s.ctxs := rfl
@[simp] theorem State.putHole_parts (s : State) (n : Nat) (h : Hole) : (s.putHole n h).parts = s.parts := rfl
@[simp] theorem State.putHole_fns (s : State) (n : Nat) (h : Hole) : (s.putHole n h).fns = s.fns := rfl
@[simp] theorem State.putHole_queues (s : State) (n : Nat) (h : Hole) : (s.putHole n h).queues = s.queues := rfl
@[simp] theorem State.putHole_holes (s : State) (n : Nat) (h : Hole) : (s.putHole n h).holes = FMap.set s.holes n h := rfl
@[simp] theorem State.putHole_lastHole (s : State) (n : Nat) (h : Hole) : (s.putHole n h).lastHole = s.lastHole := rfl
@[simp] theorem State.putHole_links (s : State) (n : Nat) (h : Hole) : (s.putHole n h).links = s.links := rfl
@[simp] theorem State.putHole_reqs (s : State) (n : Nat) (h : Hole) : (s.putHole n h).reqs = s.reqs := rfl
@[simp] theorem State.putHole_sidelog (s : State) (n : Nat) (h : Hole) : (s.putHole n h).sidelog = s.sidelog := rfl
@[simp] theorem State.putHole_cores (s : State) (n : Nat) (h : Hole) : (s.putHole n h).cores = s.cores := rfl
@[simp] theorem State.putHole_tlb (s : State) (n : Nat) (h : Hole) : (s.putHole n h).tlb = s.tlb := rfl
@[simp] theorem State.putHole_filters (s : State) (n : Nat) (h : Hole) : (s.putHole n h).filters = s.filters := rfl
@[simp] theorem State.putHole_parked (s : State) (n : Nat) (h : Hole) : (s.putHole n h).parked = s.parked := rfl
@[simp] theorem State.putHole_replies (s : State) (n : Nat) (h : Hole) : (s.putHole n h).replies = s.replies := rfl
@[simp] theorem State.putHole_selv (s : State) (n : Nat) (h : Hole) : (s.putHole n h).selv = s.selv := rfl
@[simp] theorem State.putHole_mgmt (s : State) (n : Nat) (h : Hole) : (s.putHole n h).mgmt = s.mgmt := rfl
@[simp] theorem State.putHole_swaps (s : State) (n : Nat) (h : Hole) : (s.putHole n h).swaps = s.swaps := rfl
@[simp] theorem State.putHole_vfEn (s : State) (n : Nat) (h : Hole) : (s.putHole n h).vfEn = s.vfEn := rfl
@[simp] theorem State.putHole_numVfs (s : State) (n : Nat) (h : Hole) : (s.putHole n h).numVfs = s.numVfs := rfl
@[simp] theorem State.putHole_owing (s : State) (n : Nat) (h : Hole) : (s.putHole n h).owing = s.owing := rfl
@[simp] theorem State.putHole_hostErr (s : State) (n : Nat) (h : Hole) : (s.putHole n h).hostErr = s.hostErr := rfl
@[simp] theorem State.putHole_lag (s : State) (n : Nat) (h : Hole) : (s.putHole n h).lag = s.lag := rfl
@[simp] theorem State.putHole_stale (s : State) (n : Nat) (h : Hole) : (s.putHole n h).stale = s.stale := rfl
@[simp] theorem State.putHole_exits (s : State) (n : Nat) (h : Hole) : (s.putHole n h).exits = s.exits := rfl
@[simp] theorem State.putHole_netOut (s : State) (n : Nat) (h : Hole) : (s.putHole n h).netOut = s.netOut := rfl
@[simp] theorem State.putHole_free (s : State) (n : Nat) (h : Hole) : (s.putHole n h).free = s.free := rfl
@[simp] theorem State.putHole_uid (s : State) (n : Nat) (h : Hole) : (s.putHole n h).uid = s.uid := rfl

/-! ### putQueue -/

@[simp] theorem State.putQueue_agenda (s : State) (n : Nat) (q : Queue) : (s.putQueue n q).agenda = s.agenda := rfl
@[simp] theorem State.putQueue_cur (s : State) (n : Nat) (q : Queue) : (s.putQueue n q).cur = s.cur := rfl
@[simp] theorem State.putQueue_mem (s : State) (n : Nat) (q : Queue) : (s.putQueue n q).mem = s.mem := rfl
@[simp] theorem State.putQueue_hostMem (s : State) (n : Nat) (q : Queue) : (s.putQueue n q).hostMem = s.hostMem := rfl
@[simp] theorem State.putQueue_paths (s : State) (n : Nat) (q : Queue) : (s.putQueue n q).paths = s.paths := rfl
@[simp] theorem State.putQueue_groups (s : State) (n : Nat) (q : Queue) : (s.putQueue n q).groups = s.groups := rfl
@[simp] theorem State.putQueue_wgs (s : State) (n : Nat) (q : Queue) : (s.putQueue n q).wgs = s.wgs := rfl
@[simp] theorem State.putQueue_gangs (s : State) (n : Nat) (q : Queue) : (s.putQueue n q).gangs = s.gangs := rfl
@[simp] theorem State.putQueue_launches (s : State) (n : Nat) (q : Queue) : (s.putQueue n q).launches = s.launches := rfl
@[simp] theorem State.putQueue_dockets (s : State) (n : Nat) (q : Queue) : (s.putQueue n q).dockets = s.dockets := rfl
@[simp] theorem State.putQueue_ctxs (s : State) (n : Nat) (q : Queue) : (s.putQueue n q).ctxs = s.ctxs := rfl
@[simp] theorem State.putQueue_parts (s : State) (n : Nat) (q : Queue) : (s.putQueue n q).parts = s.parts := rfl
@[simp] theorem State.putQueue_fns (s : State) (n : Nat) (q : Queue) : (s.putQueue n q).fns = s.fns := rfl
@[simp] theorem State.putQueue_queues (s : State) (n : Nat) (q : Queue) : (s.putQueue n q).queues = FMap.set s.queues n q := rfl
@[simp] theorem State.putQueue_holes (s : State) (n : Nat) (q : Queue) : (s.putQueue n q).holes = s.holes := rfl
@[simp] theorem State.putQueue_lastHole (s : State) (n : Nat) (q : Queue) : (s.putQueue n q).lastHole = s.lastHole := rfl
@[simp] theorem State.putQueue_links (s : State) (n : Nat) (q : Queue) : (s.putQueue n q).links = s.links := rfl
@[simp] theorem State.putQueue_reqs (s : State) (n : Nat) (q : Queue) : (s.putQueue n q).reqs = s.reqs := rfl
@[simp] theorem State.putQueue_sidelog (s : State) (n : Nat) (q : Queue) : (s.putQueue n q).sidelog = s.sidelog := rfl
@[simp] theorem State.putQueue_cores (s : State) (n : Nat) (q : Queue) : (s.putQueue n q).cores = s.cores := rfl
@[simp] theorem State.putQueue_tlb (s : State) (n : Nat) (q : Queue) : (s.putQueue n q).tlb = s.tlb := rfl
@[simp] theorem State.putQueue_filters (s : State) (n : Nat) (q : Queue) : (s.putQueue n q).filters = s.filters := rfl
@[simp] theorem State.putQueue_parked (s : State) (n : Nat) (q : Queue) : (s.putQueue n q).parked = s.parked := rfl
@[simp] theorem State.putQueue_replies (s : State) (n : Nat) (q : Queue) : (s.putQueue n q).replies = s.replies := rfl
@[simp] theorem State.putQueue_selv (s : State) (n : Nat) (q : Queue) : (s.putQueue n q).selv = s.selv := rfl
@[simp] theorem State.putQueue_mgmt (s : State) (n : Nat) (q : Queue) : (s.putQueue n q).mgmt = s.mgmt := rfl
@[simp] theorem State.putQueue_swaps (s : State) (n : Nat) (q : Queue) : (s.putQueue n q).swaps = s.swaps := rfl
@[simp] theorem State.putQueue_vfEn (s : State) (n : Nat) (q : Queue) : (s.putQueue n q).vfEn = s.vfEn := rfl
@[simp] theorem State.putQueue_numVfs (s : State) (n : Nat) (q : Queue) : (s.putQueue n q).numVfs = s.numVfs := rfl
@[simp] theorem State.putQueue_owing (s : State) (n : Nat) (q : Queue) : (s.putQueue n q).owing = s.owing := rfl
@[simp] theorem State.putQueue_hostErr (s : State) (n : Nat) (q : Queue) : (s.putQueue n q).hostErr = s.hostErr := rfl
@[simp] theorem State.putQueue_lag (s : State) (n : Nat) (q : Queue) : (s.putQueue n q).lag = s.lag := rfl
@[simp] theorem State.putQueue_stale (s : State) (n : Nat) (q : Queue) : (s.putQueue n q).stale = s.stale := rfl
@[simp] theorem State.putQueue_exits (s : State) (n : Nat) (q : Queue) : (s.putQueue n q).exits = s.exits := rfl
@[simp] theorem State.putQueue_netOut (s : State) (n : Nat) (q : Queue) : (s.putQueue n q).netOut = s.netOut := rfl
@[simp] theorem State.putQueue_free (s : State) (n : Nat) (q : Queue) : (s.putQueue n q).free = s.free := rfl
@[simp] theorem State.putQueue_uid (s : State) (n : Nat) (q : Queue) : (s.putQueue n q).uid = s.uid := rfl

/-! ### putFn -/

@[simp] theorem State.putFn_agenda (s : State) (n : Nat) (f : Fn) : (s.putFn n f).agenda = s.agenda := rfl
@[simp] theorem State.putFn_cur (s : State) (n : Nat) (f : Fn) : (s.putFn n f).cur = s.cur := rfl
@[simp] theorem State.putFn_mem (s : State) (n : Nat) (f : Fn) : (s.putFn n f).mem = s.mem := rfl
@[simp] theorem State.putFn_hostMem (s : State) (n : Nat) (f : Fn) : (s.putFn n f).hostMem = s.hostMem := rfl
@[simp] theorem State.putFn_paths (s : State) (n : Nat) (f : Fn) : (s.putFn n f).paths = s.paths := rfl
@[simp] theorem State.putFn_groups (s : State) (n : Nat) (f : Fn) : (s.putFn n f).groups = s.groups := rfl
@[simp] theorem State.putFn_wgs (s : State) (n : Nat) (f : Fn) : (s.putFn n f).wgs = s.wgs := rfl
@[simp] theorem State.putFn_gangs (s : State) (n : Nat) (f : Fn) : (s.putFn n f).gangs = s.gangs := rfl
@[simp] theorem State.putFn_launches (s : State) (n : Nat) (f : Fn) : (s.putFn n f).launches = s.launches := rfl
@[simp] theorem State.putFn_dockets (s : State) (n : Nat) (f : Fn) : (s.putFn n f).dockets = s.dockets := rfl
@[simp] theorem State.putFn_ctxs (s : State) (n : Nat) (f : Fn) : (s.putFn n f).ctxs = s.ctxs := rfl
@[simp] theorem State.putFn_parts (s : State) (n : Nat) (f : Fn) : (s.putFn n f).parts = s.parts := rfl
@[simp] theorem State.putFn_fns (s : State) (n : Nat) (f : Fn) : (s.putFn n f).fns = FMap.set s.fns n f := rfl
@[simp] theorem State.putFn_queues (s : State) (n : Nat) (f : Fn) : (s.putFn n f).queues = s.queues := rfl
@[simp] theorem State.putFn_holes (s : State) (n : Nat) (f : Fn) : (s.putFn n f).holes = s.holes := rfl
@[simp] theorem State.putFn_lastHole (s : State) (n : Nat) (f : Fn) : (s.putFn n f).lastHole = s.lastHole := rfl
@[simp] theorem State.putFn_links (s : State) (n : Nat) (f : Fn) : (s.putFn n f).links = s.links := rfl
@[simp] theorem State.putFn_reqs (s : State) (n : Nat) (f : Fn) : (s.putFn n f).reqs = s.reqs := rfl
@[simp] theorem State.putFn_sidelog (s : State) (n : Nat) (f : Fn) : (s.putFn n f).sidelog = s.sidelog := rfl
@[simp] theorem State.putFn_cores (s : State) (n : Nat) (f : Fn) : (s.putFn n f).cores = s.cores := rfl
@[simp] theorem State.putFn_tlb (s : State) (n : Nat) (f : Fn) : (s.putFn n f).tlb = s.tlb := rfl
@[simp] theorem State.putFn_filters (s : State) (n : Nat) (f : Fn) : (s.putFn n f).filters = s.filters := rfl
@[simp] theorem State.putFn_parked (s : State) (n : Nat) (f : Fn) : (s.putFn n f).parked = s.parked := rfl
@[simp] theorem State.putFn_replies (s : State) (n : Nat) (f : Fn) : (s.putFn n f).replies = s.replies := rfl
@[simp] theorem State.putFn_selv (s : State) (n : Nat) (f : Fn) : (s.putFn n f).selv = s.selv := rfl
@[simp] theorem State.putFn_mgmt (s : State) (n : Nat) (f : Fn) : (s.putFn n f).mgmt = s.mgmt := rfl
@[simp] theorem State.putFn_swaps (s : State) (n : Nat) (f : Fn) : (s.putFn n f).swaps = s.swaps := rfl
@[simp] theorem State.putFn_vfEn (s : State) (n : Nat) (f : Fn) : (s.putFn n f).vfEn = s.vfEn := rfl
@[simp] theorem State.putFn_numVfs (s : State) (n : Nat) (f : Fn) : (s.putFn n f).numVfs = s.numVfs := rfl
@[simp] theorem State.putFn_owing (s : State) (n : Nat) (f : Fn) : (s.putFn n f).owing = s.owing := rfl
@[simp] theorem State.putFn_hostErr (s : State) (n : Nat) (f : Fn) : (s.putFn n f).hostErr = s.hostErr := rfl
@[simp] theorem State.putFn_lag (s : State) (n : Nat) (f : Fn) : (s.putFn n f).lag = s.lag := rfl
@[simp] theorem State.putFn_stale (s : State) (n : Nat) (f : Fn) : (s.putFn n f).stale = s.stale := rfl
@[simp] theorem State.putFn_exits (s : State) (n : Nat) (f : Fn) : (s.putFn n f).exits = s.exits := rfl
@[simp] theorem State.putFn_netOut (s : State) (n : Nat) (f : Fn) : (s.putFn n f).netOut = s.netOut := rfl
@[simp] theorem State.putFn_free (s : State) (n : Nat) (f : Fn) : (s.putFn n f).free = s.free := rfl
@[simp] theorem State.putFn_uid (s : State) (n : Nat) (f : Fn) : (s.putFn n f).uid = s.uid := rfl

/-! ### Accessors -/

@[simp] theorem State.ctx_putPath (s : State) (k : Nat) (p : Path) (i j : Nat) : (s.putPath k p).ctx i j = s.ctx i j := rfl
@[simp] theorem State.part_putPath (s : State) (k : Nat) (p : Path) (i : Nat) : (s.putPath k p).part i = s.part i := rfl
@[simp] theorem State.core_putPath (s : State) (k : Nat) (p : Path) (i : Nat) : (s.putPath k p).core i = s.core i := rfl
@[simp] theorem State.link_putPath (s : State) (k : Nat) (p : Path) (i : Nat) : (s.putPath k p).link i = s.link i := rfl
@[simp] theorem State.hole_putPath (s : State) (k : Nat) (p : Path) (i : Nat) : (s.putPath k p).hole i = s.hole i := rfl
@[simp] theorem State.queue_putPath (s : State) (k : Nat) (p : Path) (i : Nat) : (s.putPath k p).queue i = s.queue i := rfl
@[simp] theorem State.fn_putPath (s : State) (k : Nat) (p : Path) (i : Nat) : (s.putPath k p).fn i = s.fn i := rfl
@[simp] theorem State.ctx_putGroup (s : State) (k : Nat) (g : Group) (i j : Nat) : (s.putGroup k g).ctx i j = s.ctx i j := rfl
@[simp] theorem State.part_putGroup (s : State) (k : Nat) (g : Group) (i : Nat) : (s.putGroup k g).part i = s.part i := rfl
@[simp] theorem State.core_putGroup (s : State) (k : Nat) (g : Group) (i : Nat) : (s.putGroup k g).core i = s.core i := rfl
@[simp] theorem State.link_putGroup (s : State) (k : Nat) (g : Group) (i : Nat) : (s.putGroup k g).link i = s.link i := rfl
@[simp] theorem State.hole_putGroup (s : State) (k : Nat) (g : Group) (i : Nat) : (s.putGroup k g).hole i = s.hole i := rfl
@[simp] theorem State.queue_putGroup (s : State) (k : Nat) (g : Group) (i : Nat) : (s.putGroup k g).queue i = s.queue i := rfl
@[simp] theorem State.fn_putGroup (s : State) (k : Nat) (g : Group) (i : Nat) : (s.putGroup k g).fn i = s.fn i := rfl
@[simp] theorem State.ctx_putWg (s : State) (k : Nat) (w : Wg) (i j : Nat) : (s.putWg k w).ctx i j = s.ctx i j := rfl
@[simp] theorem State.part_putWg (s : State) (k : Nat) (w : Wg) (i : Nat) : (s.putWg k w).part i = s.part i := rfl
@[simp] theorem State.core_putWg (s : State) (k : Nat) (w : Wg) (i : Nat) : (s.putWg k w).core i = s.core i := rfl
@[simp] theorem State.link_putWg (s : State) (k : Nat) (w : Wg) (i : Nat) : (s.putWg k w).link i = s.link i := rfl
@[simp] theorem State.hole_putWg (s : State) (k : Nat) (w : Wg) (i : Nat) : (s.putWg k w).hole i = s.hole i := rfl
@[simp] theorem State.queue_putWg (s : State) (k : Nat) (w : Wg) (i : Nat) : (s.putWg k w).queue i = s.queue i := rfl
@[simp] theorem State.fn_putWg (s : State) (k : Nat) (w : Wg) (i : Nat) : (s.putWg k w).fn i = s.fn i := rfl
@[simp] theorem State.ctx_putGang (s : State) (k : Nat) (q : Gang) (i j : Nat) : (s.putGang k q).ctx i j = s.ctx i j := rfl
@[simp] theorem State.part_putGang (s : State) (k : Nat) (q : Gang) (i : Nat) : (s.putGang k q).part i = s.part i := rfl
@[simp] theorem State.core_putGang (s : State) (k : Nat) (q : Gang) (i : Nat) : (s.putGang k q).core i = s.core i := rfl
@[simp] theorem State.link_putGang (s : State) (k : Nat) (q : Gang) (i : Nat) : (s.putGang k q).link i = s.link i := rfl
@[simp] theorem State.hole_putGang (s : State) (k : Nat) (q : Gang) (i : Nat) : (s.putGang k q).hole i = s.hole i := rfl
@[simp] theorem State.queue_putGang (s : State) (k : Nat) (q : Gang) (i : Nat) : (s.putGang k q).queue i = s.queue i := rfl
@[simp] theorem State.fn_putGang (s : State) (k : Nat) (q : Gang) (i : Nat) : (s.putGang k q).fn i = s.fn i := rfl
@[simp] theorem State.part_putCtx (s : State) (part ctx : Nat) (c : Ctx) (i : Nat) : (s.putCtx part ctx c).part i = s.part i := rfl
@[simp] theorem State.core_putCtx (s : State) (part ctx : Nat) (c : Ctx) (i : Nat) : (s.putCtx part ctx c).core i = s.core i := rfl
@[simp] theorem State.link_putCtx (s : State) (part ctx : Nat) (c : Ctx) (i : Nat) : (s.putCtx part ctx c).link i = s.link i := rfl
@[simp] theorem State.hole_putCtx (s : State) (part ctx : Nat) (c : Ctx) (i : Nat) : (s.putCtx part ctx c).hole i = s.hole i := rfl
@[simp] theorem State.queue_putCtx (s : State) (part ctx : Nat) (c : Ctx) (i : Nat) : (s.putCtx part ctx c).queue i = s.queue i := rfl
@[simp] theorem State.fn_putCtx (s : State) (part ctx : Nat) (c : Ctx) (i : Nat) : (s.putCtx part ctx c).fn i = s.fn i := rfl
@[simp] theorem State.ctx_putPart (s : State) (n : Nat) (p : Part) (i j : Nat) : (s.putPart n p).ctx i j = s.ctx i j := rfl
@[simp] theorem State.core_putPart (s : State) (n : Nat) (p : Part) (i : Nat) : (s.putPart n p).core i = s.core i := rfl
@[simp] theorem State.link_putPart (s : State) (n : Nat) (p : Part) (i : Nat) : (s.putPart n p).link i = s.link i := rfl
@[simp] theorem State.hole_putPart (s : State) (n : Nat) (p : Part) (i : Nat) : (s.putPart n p).hole i = s.hole i := rfl
@[simp] theorem State.queue_putPart (s : State) (n : Nat) (p : Part) (i : Nat) : (s.putPart n p).queue i = s.queue i := rfl
@[simp] theorem State.fn_putPart (s : State) (n : Nat) (p : Part) (i : Nat) : (s.putPart n p).fn i = s.fn i := rfl
@[simp] theorem State.ctx_putCore (s : State) (n : Nat) (c : Core) (i j : Nat) : (s.putCore n c).ctx i j = s.ctx i j := rfl
@[simp] theorem State.part_putCore (s : State) (n : Nat) (c : Core) (i : Nat) : (s.putCore n c).part i = s.part i := rfl
@[simp] theorem State.link_putCore (s : State) (n : Nat) (c : Core) (i : Nat) : (s.putCore n c).link i = s.link i := rfl
@[simp] theorem State.hole_putCore (s : State) (n : Nat) (c : Core) (i : Nat) : (s.putCore n c).hole i = s.hole i := rfl
@[simp] theorem State.queue_putCore (s : State) (n : Nat) (c : Core) (i : Nat) : (s.putCore n c).queue i = s.queue i := rfl
@[simp] theorem State.fn_putCore (s : State) (n : Nat) (c : Core) (i : Nat) : (s.putCore n c).fn i = s.fn i := rfl
@[simp] theorem State.ctx_putLink (s : State) (n : Nat) (l : Link) (i j : Nat) : (s.putLink n l).ctx i j = s.ctx i j := rfl
@[simp] theorem State.part_putLink (s : State) (n : Nat) (l : Link) (i : Nat) : (s.putLink n l).part i = s.part i := rfl
@[simp] theorem State.core_putLink (s : State) (n : Nat) (l : Link) (i : Nat) : (s.putLink n l).core i = s.core i := rfl
@[simp] theorem State.hole_putLink (s : State) (n : Nat) (l : Link) (i : Nat) : (s.putLink n l).hole i = s.hole i := rfl
@[simp] theorem State.queue_putLink (s : State) (n : Nat) (l : Link) (i : Nat) : (s.putLink n l).queue i = s.queue i := rfl
@[simp] theorem State.fn_putLink (s : State) (n : Nat) (l : Link) (i : Nat) : (s.putLink n l).fn i = s.fn i := rfl
@[simp] theorem State.ctx_putHole (s : State) (n : Nat) (h : Hole) (i j : Nat) : (s.putHole n h).ctx i j = s.ctx i j := rfl
@[simp] theorem State.part_putHole (s : State) (n : Nat) (h : Hole) (i : Nat) : (s.putHole n h).part i = s.part i := rfl
@[simp] theorem State.core_putHole (s : State) (n : Nat) (h : Hole) (i : Nat) : (s.putHole n h).core i = s.core i := rfl
@[simp] theorem State.link_putHole (s : State) (n : Nat) (h : Hole) (i : Nat) : (s.putHole n h).link i = s.link i := rfl
@[simp] theorem State.queue_putHole (s : State) (n : Nat) (h : Hole) (i : Nat) : (s.putHole n h).queue i = s.queue i := rfl
@[simp] theorem State.fn_putHole (s : State) (n : Nat) (h : Hole) (i : Nat) : (s.putHole n h).fn i = s.fn i := rfl
@[simp] theorem State.ctx_putQueue (s : State) (n : Nat) (q : Queue) (i j : Nat) : (s.putQueue n q).ctx i j = s.ctx i j := rfl
@[simp] theorem State.part_putQueue (s : State) (n : Nat) (q : Queue) (i : Nat) : (s.putQueue n q).part i = s.part i := rfl
@[simp] theorem State.core_putQueue (s : State) (n : Nat) (q : Queue) (i : Nat) : (s.putQueue n q).core i = s.core i := rfl
@[simp] theorem State.link_putQueue (s : State) (n : Nat) (q : Queue) (i : Nat) : (s.putQueue n q).link i = s.link i := rfl
@[simp] theorem State.hole_putQueue (s : State) (n : Nat) (q : Queue) (i : Nat) : (s.putQueue n q).hole i = s.hole i := rfl
@[simp] theorem State.fn_putQueue (s : State) (n : Nat) (q : Queue) (i : Nat) : (s.putQueue n q).fn i = s.fn i := rfl
@[simp] theorem State.ctx_putFn (s : State) (n : Nat) (f : Fn) (i j : Nat) : (s.putFn n f).ctx i j = s.ctx i j := rfl
@[simp] theorem State.part_putFn (s : State) (n : Nat) (f : Fn) (i : Nat) : (s.putFn n f).part i = s.part i := rfl
@[simp] theorem State.core_putFn (s : State) (n : Nat) (f : Fn) (i : Nat) : (s.putFn n f).core i = s.core i := rfl
@[simp] theorem State.link_putFn (s : State) (n : Nat) (f : Fn) (i : Nat) : (s.putFn n f).link i = s.link i := rfl
@[simp] theorem State.hole_putFn (s : State) (n : Nat) (f : Fn) (i : Nat) : (s.putFn n f).hole i = s.hole i := rfl
@[simp] theorem State.queue_putFn (s : State) (n : Nat) (f : Fn) (i : Nat) : (s.putFn n f).queue i = s.queue i := rfl

@[simp] theorem State.part_putPart (s : State) (n : Nat) (p : Part) : (s.putPart n p).part n = p := FMap.getD_set_self _ _ _ _
@[simp] theorem State.core_putCore (s : State) (n : Nat) (c : Core) : (s.putCore n c).core n = c := FMap.getD_set_self _ _ _ _
@[simp] theorem State.link_putLink (s : State) (n : Nat) (l : Link) : (s.putLink n l).link n = l := FMap.getD_set_self _ _ _ _
@[simp] theorem State.hole_putHole (s : State) (n : Nat) (h : Hole) : (s.putHole n h).hole n = h := FMap.getD_set_self _ _ _ _
@[simp] theorem State.queue_putQueue (s : State) (n : Nat) (q : Queue) : (s.putQueue n q).queue n = q := FMap.getD_set_self _ _ _ _
@[simp] theorem State.fn_putFn (s : State) (n : Nat) (f : Fn) : (s.putFn n f).fn n = f := FMap.getD_set_self _ _ _ _
@[simp] theorem State.ctx_putCtx (s : State) (a b : Nat) (c : Ctx) : (s.putCtx a b c).ctx a b = c := FMap.getD_set_self _ _ _ _

/-- Contexts of different keys do not meet. -/
theorem State.ctx_putCtx_of_ne (s : State) (a b i j : Nat) (c : Ctx) (h : ctxKey i j ≠ ctxKey a b) :
    (s.putCtx a b c).ctx i j = s.ctx i j := FMap.getD_set_of_ne _ _ _ h

/-- A path written is the one that issues there, with its other records unchanged. -/
theorem State.runAt_putPath (s : State) (k : Nat) (p : Path) (r : Run) (h : s.runAt k = some r) :
    (s.putPath k p).runAt k = some { r with path := p } := by
  unfold State.runAt at h ⊢
  simp only [State.putPath_paths, State.putPath_groups, State.putPath_wgs, State.putPath_gangs, FMap.get?_set_self]
  split at h <;> simp_all
  subst h; exact ⟨rfl, rfl, rfl, rfl⟩

theorem State.runAt_key (s : State) (k : Nat) (r : Run) (h : s.runAt k = some r) : r.key = k := by
  unfold State.runAt at h
  split at h <;> simp_all
  subst h; rfl

/-- What a run holds: the records under its keys. -/
theorem State.runAt_some (s : State) (k : Nat) (r : Run) :
    s.runAt k = some r ↔ r.key = k ∧ FMap.get? s.paths k = some r.path ∧ FMap.get? s.groups (k / 32) = some r.group ∧
      FMap.get? s.wgs (k / 512) = some r.wg ∧ FMap.get? s.gangs (k / 4096) = some r.gang := by
  unfold State.runAt
  constructor
  · intro h
    split at h <;> simp_all
    subst h; simp
  · rintro ⟨rfl, h1, h2, h3, h4⟩
    simp [h1, h2, h3, h4]

end Sys2Proof.Machine
end

