-- ==== Sys2Proof/Laws/Result.lean ====
section
/-! SUPPORT. What finishV, finishS, finishP and the other ways an instruction of the integer, float, convert, lane and
predicate classes writes its result leave: the relations of Safety, proved once. -/

namespace Sys2Proof.Machine

/-! ### Lanes -/

theorem mem_lanes32 (L : Nat) : L ∈ lanes32 ↔ L < 32 := by
  constructor
  · intro h; simp [lanes32] at h; omega
  · intro h; simp [lanes32]; omega

theorem mem_lanesOf (m : BitVec 32) (L : Nat) : L ∈ lanesOf m ↔ L < 32 ∧ m.getLsbD L = true := by
  simp [lanesOf, mem_lanes32]

theorem lanesOf_nodup (m : BitVec 32) : (lanesOf m).Pairwise (· ≠ ·) :=
  List.Pairwise.filter _ (by decide)

theorem lanesOf_eq_nil {m : BitVec 32} : lanesOf m = [] ↔ m = 0 := by
  constructor
  · intro h
    apply BitVec.eq_of_getLsbD_eq
    intro i hi
    have : i ∉ lanesOf m := by simp [h]
    rw [mem_lanesOf] at this
    simp; simpa [hi] using this
  · rintro rfl; rfl

theorem MemSame.refl (s : State) : MemSame s s := ⟨fun _ => rfl, fun _ => rfl⟩

theorem run_key {s : State} {k : Nat} {r : Run} (h : s.runAt k = some r) : r.key = k := by
  unfold State.runAt at h
  split at h <;> cases h
  rfl

/-- A run's records are those the state holds. -/
theorem run_records {s : State} {k : Nat} {r : Run} (h : s.runAt k = some r) :
    FMap.get? s.paths k = some r.path ∧ FMap.get? s.groups (k / 32) = some r.group ∧
    FMap.get? s.wgs (k / 512) = some r.wg ∧ FMap.get? s.gangs (k / 4096) = some r.gang := by
  unfold State.runAt at h
  split at h <;> cases h
  exact ⟨‹_›, ‹_›, ‹_›, ‹_›⟩

/-! ### Latches -/

theorem shift1_latch (p : Path) (act : BitVec 32) (res : Nat → BitVec 32) (n L : Nat) (hn : n < 4) (hL : L < 32)
    (hm : p.mask.getLsbD L = true) :
    (p.shift1 act res).latch n L =
      match n with
      | 0 => if act.getLsbD L = true then res L else 0
      | k + 1 => p.latch k L := by
  have hmem : L ∈ lanesOf p.mask := (mem_lanesOf _ _).2 ⟨hL, hm⟩
  have hd : ((lanesOf p.mask).flatMap fun L =>
      [(96 + L, p.latch 2 L), (64 + L, p.latch 1 L), (32 + L, p.latch 0 L),
       (L, if act.getLsbD L then res L else 0)]).Pairwise fun x y => x.1 ≠ y.1 := by
    rw [List.pairwise_flatMap]
    refine ⟨?_, ?_⟩
    · intro a ha
      have := ((mem_lanesOf _ _).1 ha).1
      simp
    · refine List.Pairwise.imp_of_mem ?_ (lanesOf_nodup p.mask)
      intro a b ha hb hab x hx y hy
      have h1 := ((mem_lanesOf _ _).1 ha).1
      have h2 := ((mem_lanesOf _ _).1 hb).1
      simp at hx hy
      rcases hx with rfl | rfl | rfl | rfl <;> rcases hy with rfl | rfl | rfl | rfl <;> simp <;> omega
  unfold Path.shift1 Path.latch
  simp only
  refine CMap.get_setMany_of_mem _ _ _ _ ?_ hd
  rw [List.mem_flatMap]
  refine ⟨L, hmem, ?_⟩
  match n, hn with
  | 0, _ => simp
  | 1, _ => simp
  | 2, _ => simp
  | 3, _ => simp

theorem shift1_live (p : Path) (act : BitVec 32) (res : Nat → BitVec 32) (n : Nat) (hn : n < 4) :
    CMap.get (p.shift1 act res).live n =
      match n with
      | 0 => act
      | k + 1 => CMap.get p.live k := by
  unfold Path.shift1
  simp only [CMap.setMany, List.foldl, CMap.get_set]
  match n, hn with
  | 0, _ => simp
  | 1, _ => simp
  | 2, _ => simp
  | 3, _ => simp

theorem shift1_mask (p : Path) (act : BitVec 32) (res : Nat → BitVec 32) : (p.shift1 act res).mask = p.mask := rfl

/-- The shift of R232. -/
theorem shiftRes_shifted (p : Path) (act : BitVec 32) (wide : Bool) (val : Nat → BitVec 64)
    (h : ∀ L, act.getLsbD L = true → p.mask.getLsbD L = true) : Shifted p (p.shiftRes wide act val) act wide val := by
  unfold Path.shiftRes
  cases wide with
  | false =>
    refine ⟨shift1_live _ _ _ 0 (by decide), ?_, by simp, ?_⟩
    · intro L hL ha
      have := shift1_latch p act (fun L => (val L).setWidth 32) 0 L (by decide) hL (h L ha)
      simpa [ha] using this
    · intro k hk
      simp at hk
      exact ⟨by simpa using shift1_live p act _ (k + 1) hk,
        fun L hL hm => by simpa using shift1_latch p act _ (k + 1) L hk hL hm⟩
  | true =>
    simp only [if_true]
    refine ⟨shift1_live _ _ _ 0 (by decide), ?_, ?_, ?_⟩
    · intro L hL ha
      refine (shift1_latch (p.shift1 act _) act _ 0 L (by decide) hL (h L ha)).trans ?_
      simp [ha]
    · intro _
      refine ⟨(shift1_live _ _ _ 1 (by decide)).trans (shift1_live _ _ _ 0 (by decide)), ?_⟩
      intro L hL ha
      refine (shift1_latch (p.shift1 act _) act _ 1 L (by decide) hL (h L ha)).trans ?_
      refine (shift1_latch p act _ 0 L (by decide) hL (h L ha)).trans ?_
      simp [ha]
    · intro k hk
      simp only [if_true] at hk ⊢
      refine ⟨(shift1_live _ _ _ (k + 2) hk).trans (shift1_live _ _ _ (k + 1) (by omega)), ?_⟩
      intro L hL hm
      exact (shift1_latch (p.shift1 act _) act _ (k + 2) L hk hL hm).trans (shift1_latch p act _ (k + 1) L (by omega) hL hm)

theorem active_sub (r : Run) (L : Nat) (h : r.active.getLsbD L = true) : r.path.mask.getLsbD L = true := by
  unfold Run.active at h
  simp at h
  exact h.1

/-! ### Registers -/

/-- What writeV writes: the low words at vD, the high words of a pair at vD+1. -/
theorem writeV_vreg (g : Group) (d : Nat) (wide : Bool) (act : BitVec 32) (val : Nat → BitVec 64) (n L : Nat) (hL : L < 32) :
    (g.writeV d wide ((lanesOf act).map fun L => (L, val L))).vreg n L =
      if act.getLsbD L = true ∧ n = d then (val L).setWidth 32
      else if wide = true ∧ act.getLsbD L = true ∧ n = d + 1 then (val L).extractLsb' 32 32
      else g.vreg n L := by
  have hk : ∀ {a b i : Nat}, i < 32 → 32 * a + i = 32 * b + L → a = b ∧ i = L := by intros; omega
  unfold Group.writeV Group.vreg
  simp only [List.flatMap_map]
  cases wide with
  | false =>
    simp only [Bool.false_eq_true, if_false, false_and]
    split
    · rename_i h
      obtain ⟨ha, rfl⟩ := h
      refine CMap.get_setMany_of_mem _ _ _ _ ?_ ?_
      · rw [List.mem_flatMap]; exact ⟨L, (mem_lanesOf _ _).2 ⟨hL, ha⟩, by simp⟩
      · rw [List.pairwise_flatMap]
        refine ⟨by simp, List.Pairwise.imp_of_mem ?_ (lanesOf_nodup act)⟩
        intro a b _ _ hab x hx y hy
        simp at hx hy; subst hx hy; simp; omega
    · rename_i h
      refine CMap.get_setMany_of_not _ _ _ ?_
      intro x hx
      rw [List.mem_flatMap] at hx
      obtain ⟨i, hi, hx⟩ := hx
      simp at hx; subst hx
      obtain ⟨hi, ha⟩ := (mem_lanesOf _ _).1 hi
      intro he
      obtain ⟨rfl, rfl⟩ := hk hi he
      exact h ⟨ha, rfl⟩
  | true =>
    simp only [if_true, true_and]
    have hd : ((lanesOf act).flatMap fun L =>
        [(32 * d + L, (val L).setWidth 32), (32 * (d + 1) + L, (val L).extractLsb' 32 32)]).Pairwise fun x y => x.1 ≠ y.1 := by
      rw [List.pairwise_flatMap]
      refine ⟨?_, List.Pairwise.imp_of_mem ?_ (lanesOf_nodup act)⟩
      · intro a _
        refine List.pairwise_pair.2 ?_
        show 32 * d + a ≠ 32 * (d + 1) + a
        omega
      · intro a b ha hb hab x hx y hy
        have h1 := ((mem_lanesOf _ _).1 ha).1
        have h2 := ((mem_lanesOf _ _).1 hb).1
        simp at hx hy
        rcases hx with rfl | rfl <;> rcases hy with rfl | rfl <;> simp <;> omega
    split
    · rename_i h
      obtain ⟨ha, rfl⟩ := h
      refine CMap.get_setMany_of_mem _ _ _ _ ?_ hd
      rw [List.mem_flatMap]; exact ⟨L, (mem_lanesOf _ _).2 ⟨hL, ha⟩, by simp⟩
    · rename_i h
      split
      · rename_i h'
        obtain ⟨ha, rfl⟩ := h'
        refine CMap.get_setMany_of_mem _ _ _ _ ?_ hd
        rw [List.mem_flatMap]; exact ⟨L, (mem_lanesOf _ _).2 ⟨hL, ha⟩, by simp⟩
      · rename_i h'
        refine CMap.get_setMany_of_not _ _ _ ?_
        intro x hx
        rw [List.mem_flatMap] at hx
        obtain ⟨i, hi, hx⟩ := hx
        obtain ⟨hi, ha⟩ := (mem_lanesOf _ _).1 hi
        simp at hx
        intro he
        rcases hx with rfl | rfl
        · obtain ⟨rfl, rfl⟩ := hk hi he; exact h ⟨ha, rfl⟩
        · obtain ⟨rfl, rfl⟩ := hk hi he; exact h' ⟨ha, rfl⟩

/-- What writeS writes. -/
theorem writeS_sreg (g : Group) (d : Nat) (wide : Bool) (x : BitVec 64) (n : Nat) :
    (g.writeS d wide x).sreg n =
      if n = d then x.setWidth 32 else if wide = true ∧ n = d + 1 then x.extractLsb' 32 32 else g.sreg n := by
  unfold Group.writeS Group.sreg
  cases wide with
  | false => simp [CMap.setMany, CMap.get_set]
  | true =>
    simp only [if_true, CMap.setMany, List.foldl, CMap.get_set, true_and]
    by_cases h : n = d
    · subst h; simp
    · by_cases h' : n = d + 1 <;> simp [h, h']

/-- Flags gathered over a list of lanes. -/
theorem foldl_flags (l : List (Nat × BitVec 64 × Flags)) (a : Flags) (i : Nat) :
    (l.foldl (fun a x => a ||| x.2.2) a).getLsbD i = (a.getLsbD i || l.any fun x => x.2.2.getLsbD i) := by
  induction l generalizing a with
  | nil => simp
  | cons x t ih => simp [ih, Bool.or_assoc]

theorem raise_aflags (g : Group) (f : Flags) (i : Nat) (hi : i < 32) :
    (g.raise f).aflags.getLsbD i = (g.aflags.getLsbD i || f.getLsbD i) := by
  simp [Group.raise, hi]

/-- The table of a lane's value. -/
theorem getD_map_lanes (act : BitVec 32) (val : Nat → BitVec 64) (L : Nat) (hL : L < 32) (ha : act.getLsbD L = true) :
    FMap.getD ((lanesOf act).map fun L => (L, val L)) L 0 = val L := by
  have hm : L ∈ lanesOf act := (mem_lanesOf _ _).2 ⟨hL, ha⟩
  generalize lanesOf act = l at hm
  induction l with
  | nil => cases hm
  | cons x t ih =>
    unfold FMap.getD
    simp only [List.map_cons, FMap.get?_cons]
    by_cases h : x = L
    · subst h; simp
    · rw [if_neg h]
      refine ih ?_
      rcases List.mem_cons.1 hm with h' | h'
      · exact absurd h'.symm h
      · exact h'

/-! ### The three ways a result is written -/

/-- finishV leaves what R228, R232 and R241 say. -/
theorem finishV_result (s : State) (r : Run) (w : BitVec 1) (d : Nat) (wide : Bool) (f : Nat → BitVec 64 × Flags) :
    VResult s (s.finishV r w d wide f) r w d wide (fun L => (f L).1) (fun L => (f L).2) := by
  let act := r.active
  let tab := (lanesOf act).map fun L => (L, f L)
  let fl : Flags := tab.foldl (fun a x => a ||| x.2.2) 0
  let vals := tab.map fun x => (x.1, x.2.1)
  have hvals : vals = (lanesOf act).map fun L => (L, (f L).1) := by simp [vals, tab, Function.comp_def]
  refine ⟨(if w = 1 then r.group else r.group.writeV d wide vals).raise fl,
    (r.path.shiftRes wide act fun L => FMap.getD vals L 0).past, ⟨rfl, MemSame.refl _⟩, ?_, ?_, ?_, ?_, ?_⟩
  · split <;> rfl
  · intro n L hL
    have hr : ∀ g : Group, (g.raise fl).vreg n L = g.vreg n L := fun _ => rfl
    rw [hr]
    by_cases hw : w = 1
    · subst hw; simp
    · have h0 : w = 0 := by
        rcases BitVec.eq_zero_or_eq_one w with h | h
        · exact h
        · exact absurd h hw
      rw [if_neg hw, hvals, writeV_vreg _ _ _ _ _ _ _ hL]
      simp [h0, act]
  · intro i hi
    rw [raise_aflags _ _ _ hi]
    have : (if w = 1 then r.group else r.group.writeV d wide vals).aflags = r.group.aflags := by split <;> rfl
    rw [this]
    congr 1
    simp only [fl, foldl_flags]
    simp [tab, act, List.any_map, Function.comp_def]
  · unfold Path.shiftRes; cases wide <;> rfl
  · have := shiftRes_shifted r.path act wide (fun L => FMap.getD vals L 0) fun L h => active_sub r L h
    obtain ⟨h1, h2, h3, h4⟩ := this
    have hv : ∀ L, L < 32 → act.getLsbD L = true → FMap.getD vals L 0 = (f L).1 := by
      intro L hL ha
      rw [hvals]; exact getD_map_lanes act (fun L => (f L).1) L hL ha
    refine ⟨h1, ?_, ?_, h4⟩
    · intro L hL ha; exact (h2 L hL ha).trans (congrArg _ (hv L hL ha))
    · intro hw
      refine ⟨(h3 hw).1, ?_⟩
      intro L hL ha; exact ((h3 hw).2 L hL ha).trans (congrArg _ (hv L hL ha))

/-- finishS leaves what R228, R232 and R242 say. -/
theorem finishS_result (s : State) (r : Run) (w : BitVec 1) (d : Nat) (wide : Bool) (x : BitVec 64) (fl : Flags) :
    SResult s (s.finishS r w d wide x fl) r w d wide x fl := by
  refine ⟨if r.active = 0 then r.group else (if w = 1 then r.group else r.group.writeS d wide x).raise fl,
    (r.path.shiftRes wide r.active fun _ => x).past, ⟨rfl, MemSame.refl _⟩, ?_, ?_, ?_, ?_, ?_⟩
  · split
    · rfl
    · split <;> rfl
  · intro n
    by_cases ha : r.active = 0
    · simp [ha]
    · rw [if_neg ha]
      have hr : ∀ g : Group, (g.raise fl).sreg n = g.sreg n := fun _ => rfl
      rw [hr]
      rcases BitVec.eq_zero_or_eq_one w with h | h
      · subst h
        rw [if_neg (by decide), writeS_sreg]
        have ha' : r.active ≠ 0#32 := ha
        simp [ha']
      · subst h; simp
  · intro i hi
    by_cases ha : r.active = 0
    · have hl : lanesOf 0#32 = [] := rfl
      simp [ha, hl]
    · rw [if_neg ha, raise_aflags _ _ _ hi]
      have : (if w = 1 then r.group else r.group.writeS d wide x).aflags = r.group.aflags := by split <;> rfl
      rw [this]
      have hn : lanesOf r.active ≠ [] := fun h => ha (lanesOf_eq_nil.1 h)
      cases hl : lanesOf r.active with
      | nil => exact absurd hl hn
      | cons a t => by_cases hf : fl.getLsbD i <;> simp [hf]
  · unfold Path.shiftRes; cases wide <;> rfl
  · exact shiftRes_shifted _ _ _ _ fun L h => active_sub r L h

/-- finishP leaves what R231 and R254 say. -/
theorem finishP_result (s : State) (r : Run) (d : Nat) (val : BitVec 32) :
    PResult s (s.finishP r d val) r d fun L => val.getLsbD L := by
  refine ⟨r.group.writeP d r.active val, r.path.past, ⟨rfl, MemSame.refl _⟩, rfl, ?_, rfl⟩
  intro n L hL
  unfold Group.pred Group.writeP
  by_cases hn : n = 0
  · simp [hn]
  · simp only [hn, if_false, CMap.get_set]
    by_cases hd : n = d
    · subst hd
      by_cases ha : r.active.getLsbD L = true
      · have ha' : r.active[L] = true := by simpa [BitVec.getLsbD_eq_getElem hL] using ha
        simp [ha', hn, hL]
      · have ha' : r.active[L] = false := by simpa [BitVec.getLsbD_eq_getElem hL] using ha
        simp [ha', hL]
    · simp [hd]

end Sys2Proof.Machine
end

