-- ==== Sys2Proof/Laws/Elems.lean ====
section
/-! SUPPORT. Packed elements: what packElems builds, element by element (R114, R242). -/

namespace Sys2Proof.Machine

/-- Bit j of a register built from fields of b bits. -/
theorem foldl_fields_bit (b : Nat) (hb : 0 < b) (e : Nat → Nat) (n : Nat) (hn : b * n ≤ 64) (j : Nat) (hj : j < 64) :
    (((List.range n).foldl (fun (a : BitVec 64) k => a ||| BitVec.ofNat 64 (e k % 2 ^ b * 2 ^ (b * k))) 0).getLsbD j) =
      (decide (j / b < n) && (e (j / b)).testBit (j % b)) := by
  induction n with
  | zero => simp
  | succ n ih =>
    rw [List.range_succ, List.foldl_append]
    simp only [List.foldl_cons, List.foldl_nil, BitVec.getLsbD_or]
    rw [ih (by rw [Nat.mul_succ] at hn; omega)]
    have hbit : (BitVec.ofNat 64 (e n % 2 ^ b * 2 ^ (b * n))).getLsbD j =
        (decide (j / b = n) && (e n).testBit (j % b)) := by
      rw [BitVec.getLsbD_ofNat, Nat.testBit_mul_two_pow, Nat.testBit_mod_two_pow]
      simp only [hj, decide_true, Bool.true_and]
      by_cases h : j / b = n
      · subst h
        have h1 : b * (j / b) ≤ j := Nat.mul_div_le j b
        have h2 : j - b * (j / b) = j % b := by have := Nat.div_add_mod j b; omega
        simp [h1, h2, Nat.mod_lt j hb]
      · by_cases hle : b * n ≤ j
        · have : ¬ j - b * n < b := by
            intro hlt
            exact h (Nat.div_eq_of_lt_le (by rw [Nat.mul_comm]; exact hle) (by rw [Nat.succ_mul, Nat.mul_comm]; omega))
          simp [this, h]
        · simp [hle, h]
    rw [hbit]
    by_cases h : j / b = n
    · subst h; simp
    · by_cases h' : j / b < n
      · simp [h, h', Nat.lt_succ_of_lt h']
      · have : ¬ j / b < n + 1 := by omega
        simp [h, h', this]

/-- The value and the flags are gathered apart. -/
theorem packElems_fst (t : Nat) (f : Nat → Nat × Flags) :
    (packElems t f).1 = (List.range (tyElems t)).foldl
      (fun (a : BitVec 64) k => a ||| BitVec.ofNat 64 ((f k).1 % 2 ^ tyBits t * 2 ^ (tyBits t * k))) 0 := by
  unfold packElems
  generalize List.range (tyElems t) = l
  suffices ∀ (a : BitVec 64) (b : Flags), (l.foldl (fun a k =>
      (a.1 ||| BitVec.ofNat 64 ((f k).1 % 2 ^ tyBits t * 2 ^ (tyBits t * k)), a.2 ||| (f k).2)) (a, b)).1 =
      l.foldl (fun (a : BitVec 64) k => a ||| BitVec.ofNat 64 ((f k).1 % 2 ^ tyBits t * 2 ^ (tyBits t * k))) a from this 0 0
  induction l with
  | nil => intro a b; rfl
  | cons x l ih => intro a b; exact ih _ _

/-- The flags of a register are those of its elements. -/
theorem packElems_flags (t : Nat) (f : Nat → Nat × Flags) (i : Nat) :
    (packElems t f).2.getLsbD i = (List.range (tyElems t)).any fun k => (f k).2.getLsbD i := by
  unfold packElems
  generalize List.range (tyElems t) = l
  suffices ∀ (a : BitVec 64) (b : Flags), (l.foldl (fun a k =>
      (a.1 ||| BitVec.ofNat 64 ((f k).1 % 2 ^ tyBits t * 2 ^ (tyBits t * k)), a.2 ||| (f k).2)) (a, b)).2.getLsbD i =
      (b.getLsbD i || l.any fun k => (f k).2.getLsbD i) from by simpa using this 0 0
  induction l with
  | nil => intro a b; simp
  | cons x l ih => intro a b; simp [ih, Bool.or_assoc]

/-- The types of R114: a positive width whose elements fit in a register or a pair. -/
theorem ty_fits (t : Nat) (h : t ≤ 14) : 0 < tyBits t ∧ tyBits t * tyElems t ≤ 64 := by
  exact (by decide : ∀ t : Fin 15, 0 < tyBits t.1 ∧ tyBits t.1 * tyElems t.1 ≤ 64) ⟨t, by omega⟩

/-- Element k of a built register is its kth result, to the width of the type. -/
theorem elemU_packElems (t : Nat) (ht : t ≤ 14) (f : Nat → Nat × Flags) (k : Nat) (hk : k < tyElems t) :
    elemU t (packElems t f).1 k = (f k).1 % 2 ^ tyBits t := by
  obtain ⟨hb, hfit⟩ := ty_fits t ht
  apply Nat.eq_of_testBit_eq
  intro i
  unfold elemU
  rw [Nat.testBit_mod_two_pow, Nat.testBit_mod_two_pow, Nat.testBit_div_two_pow]
  by_cases hi : i < tyBits t
  · simp only [hi, decide_true, Bool.true_and]
    have hj : tyBits t * k + i < 64 := by
      calc tyBits t * k + i < tyBits t * k + tyBits t := by omega
        _ = tyBits t * (k + 1) := by rw [Nat.mul_succ]
        _ ≤ tyBits t * tyElems t := Nat.mul_le_mul_left _ hk
        _ ≤ 64 := hfit
    have hdiv : (tyBits t * k + i) / tyBits t = k := by
      rw [Nat.mul_add_div hb, Nat.div_eq_of_lt hi]; rfl
    have hmod : (tyBits t * k + i) % tyBits t = i := by
      rw [Nat.mul_add_mod, Nat.mod_eq_of_lt hi]
    have := foldl_fields_bit (tyBits t) hb (fun k => (f k).1) (tyElems t) hfit (tyBits t * k + i) hj
    rw [← packElems_fst] at this
    rw [Nat.add_comm i, BitVec.testBit_toNat, this, hdiv, hmod]
    simp [hk]
  · simp [hi]

end Sys2Proof.Machine
end

