-- ==== Sys2Proof/Laws/Exception.lean ====
section
/-! SUPPORT. What the shared operations of faults can do (spec/10_traps_faults_preemption.md R184–R190): taking an exception, which
lane's cause is reported, the scratch pages an access touches, a notification; and that reset's memories have their canonical form. -/

namespace Sys2Proof.Machine

/-- Reset's memories have their canonical form. -/
theorem reset_memOk : State.reset.memOk := ⟨rfl, rfl⟩

/-! ### Taking an exception (R185, R186) -/

/-- With a handler and in user mode the path, and nothing else, enters the handler. -/
theorem State.raise_handler (s : State) (r : Run) (cause : BitVec 8) (lane : Nat) (addr : BitVec 64) (lanes : BitVec 32)
    (hu : r.path.inH = false) (hh : (s.rctx r).hentry ≠ 0) :
    s.raise r cause lane addr lanes = s.putPath r.key (r.path.enter (s.rctx r).hentry cause lane addr r.path.pc lanes false false) := by
  simp only [State.raise, hu, Bool.false_or, decide_eq_true_eq, if_neg hh]

/-- Without a handler, or in handler mode, the exception ends the launch or the docket's gang. -/
theorem State.raise_fatal (s : State) (r : Run) (cause : BitVec 8) (lane : Nat) (addr : BitVec 64) (lanes : BitVec 32)
    (h : r.path.inH = true ∨ (s.rctx r).hentry = 0) : s.raise r cause lane addr lanes = s.fatal r.gid := by
  rcases h with h | h <;> simp [State.raise, h]

/-- The path in the handler: the pc at HENTRY, gm 2, every latch dead, the mode that of the handler. -/
theorem Path.enter_runs (p : Path) (h : BitVec 64) (c : BitVec 8) (l : Nat) (a pc : BitVec 64) (ls : BitVec 32) (d t : Bool) :
    (p.enter h c l a pc ls d t).pc = h ∧ (p.enter h c l a pc ls d t).gm = 2 ∧ (p.enter h c l a pc ls d t).live = [] ∧
      (p.enter h c l a pc ls d t).inH = true ∧ (p.enter h c l a pc ls d t).wait = .ready := ⟨rfl, rfl, rfl, rfl, rfl⟩

/-- What the entry saves: where it was, the address and lanes reported, gm, the active mask, the latches. -/
theorem Path.enter_saves (p : Path) (h : BitVec 64) (c : BitVec 8) (l : Nat) (a pc : BitVec 64) (ls : BitVec 32) (d t : Bool) :
    (p.enter h c l a pc ls d t).hpc = pc ∧ (p.enter h c l a pc ls d t).haddr = a ∧ (p.enter h c l a pc ls d t).hlanes = ls ∧
      (p.enter h c l a pc ls d t).hmode = p.gm ∧ (p.enter h c l a pc ls d t).hmask = p.mask ∧
      (p.enter h c l a pc ls d t).sfw = p.fw ∧ (p.enter h c l a pc ls d t).slive = p.live := ⟨rfl, rfl, rfl, rfl, rfl, rfl, rfl⟩

/-- The entry keeps the path's lanes, its user return stack, its loads, its counters and its place in a long instruction. -/
theorem Path.enter_keeps (p : Path) (h : BitVec 64) (c : BitVec 8) (l : Nat) (a pc : BitVec 64) (ls : BitVec 32) (d t : Bool) :
    (p.enter h c l a pc ls d t).mask = p.mask ∧ (p.enter h c l a pc ls d t).stack = p.stack ∧
      (p.enter h c l a pc ls d t).loads = p.loads ∧ (p.enter h c l a pc ls d t).pix = p.pix ∧
      (p.enter h c l a pc ls d t).lstat = p.lstat ∧ (p.enter h c l a pc ls d t).fails = p.fails ∧
      (p.enter h c l a pc ls d t).stop = p.stop := ⟨rfl, rfl, rfl, rfl, rfl, rfl, rfl⟩

/-! ### The reported cause (R184) -/

/-- No cause is reported just where there is none. -/
theorem pickFault_none (fs : List LaneFault) : pickFault fs = none ↔ fs = [] := by
  cases fs with
  | nil => simp [pickFault]
  | cons f t =>
    simp only [pickFault, reduceCtorEq, iff_false]
    cases pickFault t with
    | none => simp
    | some g => simp only; split <;> simp

/-- The cause reported is one of the instruction's. -/
theorem pickFault_mem {fs : List LaneFault} {f : LaneFault} (h : pickFault fs = some f) : f ∈ fs := by
  induction fs generalizing f with
  | nil => simp [pickFault] at h
  | cons g t ih =>
    simp only [pickFault] at h
    cases ht : pickFault t with
    | none => simp [ht] at h; simp [h]
    | some k =>
      simp only [ht] at h
      split at h
      · simp_all
      · cases h; exact List.mem_cons_of_mem _ (ih ht)

/-- Its level is the lowest; among causes of its level its lane is the lowest. -/
theorem pickFault_least {fs : List LaneFault} {f g : LaneFault} (h : pickFault fs = some f) (hg : g ∈ fs) :
    causeLevel f.cause ≤ causeLevel g.cause ∧ (causeLevel f.cause = causeLevel g.cause → f.lane ≤ g.lane) := by
  induction fs generalizing f with
  | nil => simp at hg
  | cons x t ih =>
    simp only [pickFault] at h
    cases ht : pickFault t with
    | none =>
      simp [ht] at h
      have e : t = [] := (pickFault_none t).1 ht
      subst e h
      simp at hg; subst hg; simp
    | some k =>
      simp only [ht] at h
      split at h
      · rename_i hc
        cases h
        simp at hc
        rcases List.mem_cons.1 hg with rfl | hm
        · simp
        · have := ih ht hm
          omega
      · rename_i hc
        cases h
        simp at hc
        rcases List.mem_cons.1 hg with rfl | hm
        · omega
        · exact ih ht hm

/-! ### The pager (R93) -/

/-- Touching pages changes workgroups' page tables and cores alone. -/
def OnlyPages (s t : State) : Prop := t = { s with wgs := t.wgs, cores := t.cores }

theorem OnlyPages.refl (s : State) : OnlyPages s s := rfl

theorem OnlyPages.trans {s t u : State} (h : OnlyPages s t) (k : OnlyPages t u) : OnlyPages s u := by
  unfold OnlyPages at *; rw [k, h]

theorem OnlyPages.putCore (s : State) (n : Nat) (c : Core) : OnlyPages s (s.putCore n c) := rfl

theorem OnlyPages.putWg (s : State) (n : Nat) (w : Wg) : OnlyPages s (s.putWg n w) := rfl

theorem State.evictOne_pages {s t : State} {core phase : Nat} (h : s.evictOne core phase = some t) : OnlyPages s t := by
  unfold State.evictOne at h
  dsimp only at h
  split at h
  · simp at h
  · split at h
    · simp at h
    · cases h; exact (OnlyPages.putWg s _ _).trans (OnlyPages.putCore _ _ _)

theorem State.takeFrame_pages {s t : State} {wk page : Nat} (h : s.takeFrame wk page = some t) : OnlyPages s t := by
  unfold State.takeFrame at h
  split at h
  · simp at h
  · dsimp only at h
    split at h
    · cases h
      refine OnlyPages.trans ?_ (OnlyPages.putWg _ _ _)
      split
      · exact .refl s
      · cases e : s.evictOne _ _ with
        | none => exact .refl s
        | some t => exact State.evictOne_pages e
    · simp at h

theorem State.touchPage_pages (s : State) (wk page by_ : Nat) : OnlyPages s (s.touchPage wk page by_).2 := by
  unfold State.touchPage
  split
  · exact .refl s
  · split
    · split
      · rename_i h; exact (State.takeFrame_pages h).trans (OnlyPages.putCore _ _ _)
      · exact .refl s
    · exact OnlyPages.putCore _ _ _
    · exact OnlyPages.putWg _ _ _
    · exact .refl s

/-- An access to scratch changes page tables and cores alone, whether or not it must wait. -/
theorem State.touch_pages (s : State) (wk off n by_ : Nat) : OnlyPages s (s.touch wk off n by_).2 := by
  unfold State.touch
  suffices h : ∀ (l : List Nat) (a : Bool × State), OnlyPages s a.2 →
      OnlyPages s (l.foldl (fun a i => let (ok, s') := a.2.touchPage wk (off / 1024 + i) by_; (a.1 && ok, s')) a).2 from h _ _ (.refl s)
  intro l
  induction l with
  | nil => exact fun _ h => h
  | cons i t ih => exact fun a h => ih _ (h.trans (State.touchPage_pages a.2 wk _ by_))

/-! ### Notifications (R85) -/

/-- A notification changes the function's ring and the sixteen bytes it writes, nothing else; the memories keep their form. -/
theorem State.notify_frame (s : State) (fn kind code ctx : Nat) (detail : BitVec 32) :
    ∃ f m h, s.notify fn kind code ctx detail = ({ s with mem := m, hostMem := h }.putFn fn f) ∧
      (s.mem.wf = true → Memory.wf m = true) ∧ (s.hostMem.wf = true → Memory.wf h = true) := by
  unfold State.notify
  dsimp only
  split
  · exact ⟨_, s.mem, s.hostMem, rfl, id, id⟩
  · split
    · split
      · exact ⟨_, s.mem, s.hostMem, rfl, id, id⟩
      · exact ⟨_, s.mem, _, rfl, id, Memory.wf_writeBytes _ _ _⟩
    · exact ⟨_, _, s.hostMem, rfl, Memory.wf_writeBytes _ _ _, id⟩

/-- It keeps the memories' canonical form. -/
theorem State.notify_memOk (s : State) (fn kind code ctx : Nat) (detail : BitVec 32) (h : s.memOk) :
    (s.notify fn kind code ctx detail).memOk := by
  obtain ⟨f, m, n, e, k, l⟩ := s.notify_frame fn kind code ctx detail
  rw [e]
  exact ⟨k h.1, l h.2⟩

end Sys2Proof.Machine
end

