-- ==== Sys2Proof/Laws/Kinds.lean ====
section
/-! SUPPORT. The checks and the result of an instruction of kind V, S or P, each said once (R228, R233, R240, R241). -/

namespace Sys2Proof.Machine

theorem withRun_some {s : State} {r : Run} (h : s.run? = some r) (f : Run → Out) : withRun s f = f r := by
  simp [withRun, h]

theorem checked_illegal (s : State) (r : Run) {legal : Bool} (dead : BitVec 32) (k : Unit → Out) (h : legal = false) :
    checked s r legal dead k = .next (s.illegal r) := by simp [checked, h]

theorem checked_latch (s : State) (r : Run) {legal : Bool} {dead : BitVec 32} (k : Unit → Out) (h : legal = true) (hd : dead ≠ 0) :
    checked s r legal dead k = .next (s.latchFault r dead) := by
  subst h
  exact (if_neg (by simp)).trans (if_pos hd)

theorem checked_pass (s : State) (r : Run) {legal : Bool} {dead : BitVec 32} (k : Unit → Out) (h : legal = true) (hd : dead = 0) :
    checked s r legal dead k = k () := by simp [checked, h, hd]

/-- Kind V past the checks. -/
theorem vOpW_next {s : State} {r : Run} (h : s.run? = some r) (i : Sys2Proof.Instr) (acc : Run → Bool)
    (wide : Run → Bool × Bool × Bool) (f : Run → Nat → BitVec 64 × Flags)
    (hl : r.legal i (fun _ => acc r) (wide r).1 (wide r).2.1 (wide r).2.2 = true)
    (hd : r.deadOf i (wide r).2.1 (wide r).2.2 = 0) :
    vOpW i s acc wide f = .next (s.finishV r (Instr.shape i).w (Instr.shape i).d (wide r).1 (f r)) := by
  simp [vOpW, withRun_some h, checked_pass _ _ _ hl hd]

/-- Kind S past the checks. -/
theorem sOpW_next {s : State} {r : Run} (h : s.run? = some r) (i : Sys2Proof.Instr) (acc : Run → Bool)
    (wide : Run → Bool × Bool) (f : Run → BitVec 64 × Flags)
    (hl : r.legal i (fun _ => acc r) (wide r).1 (wide r).2 (wide r).2 = true)
    (hd : r.deadOf i (wide r).2 (wide r).2 = 0) :
    sOpW i s acc wide f = .next (s.finishS r (Instr.shape i).w (Instr.shape i).d (wide r).1 (f r).1 (f r).2) := by
  simp [sOpW, withRun_some h, checked_pass _ _ _ hl hd]

/-- Kind P past the checks. -/
theorem pOp_next {s : State} {r : Run} (h : s.run? = some r) (i : Sys2Proof.Instr) (acc : Nat → Bool) (f : Run → BitVec 32)
    (hl : r.legal i acc false (tyIs64 r.T) (tyIs64 r.T) = true) (hd : r.deadOf i (tyIs64 r.T) (tyIs64 r.T) = 0) :
    pOp i s acc f = .next (s.finishP r (Instr.shape i).d (f r)) := by
  simp [pOp, withRun_some h, checked_pass _ _ _ hl hd]

end Sys2Proof.Machine
end

