-- ==== Sys2Proof/Laws/PerInstr.lean ====
section
/-! SUPPORT. Per instruction: decoding the word of an instruction gives it back (spec/13_formats_and_opcode_map.md R225, R238),
one lemma per constructor; an event of the device has no word. -/

namespace Sys2Proof.Laws

/-- Decoding what encode gives is the instruction. -/
def Encoding.Statement (i : Instr) : Prop := ∀ w, encode i = some w → decode w = .ok i

/-- A word whose opcode has a row and whose unused bits are zero. -/
theorem Encoding.decode_of (op : Nat) (row : DecodeRow) (w : Word) (h1 : (fld w 24 8).toNat = op)
    (h2 : FMap.get? opcodeMap op = some row) (h3 : w &&& row.zero = 0) : decode w = .ok (row.build w) := by
  unfold decode
  rw [h1, h2]
  simp [h3]

theorem Encoding.ext_lo {m n : Nat} (x : BitVec m) (y : BitVec n) (s l : Nat) (h : s + l ≤ n) : (x ++ y).extractLsb' s l = y.extractLsb' s l :=
  BitVec.extractLsb'_append_eq_of_add_le h

theorem Encoding.ext_hi {m n : Nat} (x : BitVec m) (y : BitVec n) (s l : Nat) (h : n ≤ s) : (x ++ y).extractLsb' s l = x.extractLsb' (s - n) l :=
  BitVec.extractLsb'_append_eq_of_le h

set_option maxRecDepth 4000
set_option linter.unusedSimpArgs false

theorem Encoding.nop : Encoding.Statement (.nop) := by
  intro x h
  cases h
  refine (Encoding.decode_of 0x00 _ _ ?_ rfl ?_).trans ?_
  · simp (disch := decide) only [fld, Encoding.ext_hi]; rfl
  · rfl
  · simp (disch := decide) only [fld, Encoding.ext_hi, Encoding.ext_lo, Nat.reduceSub, BitVec.extractLsb'_eq_self]

theorem Encoding.mode (i : BitVec 19) : Encoding.Statement (.mode i) := by
  intro x h
  cases h
  refine (Encoding.decode_of 0x01 _ _ ?_ rfl ?_).trans ?_
  · simp (disch := decide) only [fld, Encoding.ext_hi]; rfl
  · show (0x01#8 ++ 0#5 ++ i : Word) &&& (0#8 ++ 31#5 ++ 0#19 : Word) = 0
    simp only [BitVec.and_append]; simp
  · simp (disch := decide) only [fld, Encoding.ext_hi, Encoding.ext_lo, Nat.reduceSub, BitVec.extractLsb'_eq_self]

theorem Encoding.mshape (m : BitVec 2) (n : BitVec 6) : Encoding.Statement (.mshape m n) := by
  intro x h
  cases h
  refine (Encoding.decode_of 0x02 _ _ ?_ rfl ?_).trans ?_
  · simp (disch := decide) only [fld, Encoding.ext_hi]; rfl
  · show (0x02#8 ++ 0#16 ++ m ++ n : Word) &&& (0#8 ++ 65535#16 ++ 0#2 ++ 0#6 : Word) = 0
    simp only [BitVec.and_append]; simp
  · simp (disch := decide) only [fld, Encoding.ext_hi, Encoding.ext_lo, Nat.reduceSub, BitVec.extractLsb'_eq_self]

theorem Encoding.lit (i : BitVec 24) : Encoding.Statement (.lit i) := by
  intro x h
  cases h
  refine (Encoding.decode_of 0x03 _ _ ?_ rfl ?_).trans ?_
  · simp (disch := decide) only [fld, Encoding.ext_hi]; rfl
  · show (0x03#8 ++ i : Word) &&& (0#8 ++ 0#24 : Word) = 0
    simp only [BitVec.and_append]; simp
  · simp (disch := decide) only [fld, Encoding.ext_hi, Encoding.ext_lo, Nat.reduceSub, BitVec.extractLsb'_eq_self]

theorem Encoding.lith (i : BitVec 16) : Encoding.Statement (.lith i) := by
  intro x h
  cases h
  refine (Encoding.decode_of 0x04 _ _ ?_ rfl ?_).trans ?_
  · simp (disch := decide) only [fld, Encoding.ext_hi]; rfl
  · show (0x04#8 ++ 0#8 ++ i : Word) &&& (0#8 ++ 255#8 ++ 0#16 : Word) = 0
    simp only [BitVec.and_append]; simp
  · simp (disch := decide) only [fld, Encoding.ext_hi, Encoding.ext_lo, Nat.reduceSub, BitVec.extractLsb'_eq_self]

theorem Encoding.mov (w : BitVec 1) (d : BitVec 7) (a : BitVec 8) : Encoding.Statement (.mov w d a) := by
  intro x h
  cases h
  refine (Encoding.decode_of 0x05 _ _ ?_ rfl ?_).trans ?_
  · simp (disch := decide) only [fld, Encoding.ext_hi]; rfl
  · show (0x05#8 ++ w ++ d ++ a ++ 0#8 : Word) &&& (0#8 ++ 0#1 ++ 0#7 ++ 0#8 ++ 255#8 : Word) = 0
    simp only [BitVec.and_append]; simp
  · simp (disch := decide) only [fld, Encoding.ext_hi, Encoding.ext_lo, Nat.reduceSub, BitVec.extractLsb'_eq_self]

theorem Encoding.movs (w : BitVec 1) (d : BitVec 7) (a : BitVec 8) : Encoding.Statement (.movs w d a) := by
  intro x h
  cases h
  refine (Encoding.decode_of 0x06 _ _ ?_ rfl ?_).trans ?_
  · simp (disch := decide) only [fld, Encoding.ext_hi]; rfl
  · show (0x06#8 ++ w ++ d ++ a ++ 0#8 : Word) &&& (0#8 ++ 0#1 ++ 0#7 ++ 0#8 ++ 255#8 : Word) = 0
    simp only [BitVec.and_append]; simp
  · simp (disch := decide) only [fld, Encoding.ext_hi, Encoding.ext_lo, Nat.reduceSub, BitVec.extractLsb'_eq_self]

theorem Encoding.sel (w : BitVec 1) (d : BitVec 7) (a : BitVec 8) (b : BitVec 8) : Encoding.Statement (.sel w d a b) := by
  intro x h
  cases h
  refine (Encoding.decode_of 0x07 _ _ ?_ rfl ?_).trans ?_
  · simp (disch := decide) only [fld, Encoding.ext_hi]; rfl
  · show (0x07#8 ++ w ++ d ++ a ++ b : Word) &&& (0#8 ++ 0#1 ++ 0#7 ++ 0#8 ++ 0#8 : Word) = 0
    simp only [BitVec.and_append]; simp
  · simp (disch := decide) only [fld, Encoding.ext_hi, Encoding.ext_lo, Nat.reduceSub, BitVec.extractLsb'_eq_self]

theorem Encoding.add (w : BitVec 1) (d : BitVec 7) (a : BitVec 8) (b : BitVec 8) : Encoding.Statement (.add w d a b) := by
  intro x h
  cases h
  refine (Encoding.decode_of 0x10 _ _ ?_ rfl ?_).trans ?_
  · simp (disch := decide) only [fld, Encoding.ext_hi]; rfl
  · show (0x10#8 ++ w ++ d ++ a ++ b : Word) &&& (0#8 ++ 0#1 ++ 0#7 ++ 0#8 ++ 0#8 : Word) = 0
    simp only [BitVec.and_append]; simp
  · simp (disch := decide) only [fld, Encoding.ext_hi, Encoding.ext_lo, Nat.reduceSub, BitVec.extractLsb'_eq_self]

theorem Encoding.sub (w : BitVec 1) (d : BitVec 7) (a : BitVec 8) (b : BitVec 8) : Encoding.Statement (.sub w d a b) := by
  intro x h
  cases h
  refine (Encoding.decode_of 0x11 _ _ ?_ rfl ?_).trans ?_
  · simp (disch := decide) only [fld, Encoding.ext_hi]; rfl
  · show (0x11#8 ++ w ++ d ++ a ++ b : Word) &&& (0#8 ++ 0#1 ++ 0#7 ++ 0#8 ++ 0#8 : Word) = 0
    simp only [BitVec.and_append]; simp
  · simp (disch := decide) only [fld, Encoding.ext_hi, Encoding.ext_lo, Nat.reduceSub, BitVec.extractLsb'_eq_self]

theorem Encoding.mul (w : BitVec 1) (d : BitVec 7) (a : BitVec 8) (b : BitVec 8) : Encoding.Statement (.mul w d a b) := by
  intro x h
  cases h
  refine (Encoding.decode_of 0x12 _ _ ?_ rfl ?_).trans ?_
  · simp (disch := decide) only [fld, Encoding.ext_hi]; rfl
  · show (0x12#8 ++ w ++ d ++ a ++ b : Word) &&& (0#8 ++ 0#1 ++ 0#7 ++ 0#8 ++ 0#8 : Word) = 0
    simp only [BitVec.and_append]; simp
  · simp (disch := decide) only [fld, Encoding.ext_hi, Encoding.ext_lo, Nat.reduceSub, BitVec.extractLsb'_eq_self]

theorem Encoding.mulh (w : BitVec 1) (d : BitVec 7) (a : BitVec 8) (b : BitVec 8) : Encoding.Statement (.mulh w d a b) := by
  intro x h
  cases h
  refine (Encoding.decode_of 0x13 _ _ ?_ rfl ?_).trans ?_
  · simp (disch := decide) only [fld, Encoding.ext_hi]; rfl
  · show (0x13#8 ++ w ++ d ++ a ++ b : Word) &&& (0#8 ++ 0#1 ++ 0#7 ++ 0#8 ++ 0#8 : Word) = 0
    simp only [BitVec.and_append]; simp
  · simp (disch := decide) only [fld, Encoding.ext_hi, Encoding.ext_lo, Nat.reduceSub, BitVec.extractLsb'_eq_self]

theorem Encoding.mad (w : BitVec 1) (d : BitVec 7) (a : BitVec 8) (b : BitVec 8) : Encoding.Statement (.mad w d a b) := by
  intro x h
  cases h
  refine (Encoding.decode_of 0x14 _ _ ?_ rfl ?_).trans ?_
  · simp (disch := decide) only [fld, Encoding.ext_hi]; rfl
  · show (0x14#8 ++ w ++ d ++ a ++ b : Word) &&& (0#8 ++ 0#1 ++ 0#7 ++ 0#8 ++ 0#8 : Word) = 0
    simp only [BitVec.and_append]; simp
  · simp (disch := decide) only [fld, Encoding.ext_hi, Encoding.ext_lo, Nat.reduceSub, BitVec.extractLsb'_eq_self]

theorem Encoding.min (w : BitVec 1) (d : BitVec 7) (a : BitVec 8) (b : BitVec 8) : Encoding.Statement (.min w d a b) := by
  intro x h
  cases h
  refine (Encoding.decode_of 0x15 _ _ ?_ rfl ?_).trans ?_
  · simp (disch := decide) only [fld, Encoding.ext_hi]; rfl
  · show (0x15#8 ++ w ++ d ++ a ++ b : Word) &&& (0#8 ++ 0#1 ++ 0#7 ++ 0#8 ++ 0#8 : Word) = 0
    simp only [BitVec.and_append]; simp
  · simp (disch := decide) only [fld, Encoding.ext_hi, Encoding.ext_lo, Nat.reduceSub, BitVec.extractLsb'_eq_self]

theorem Encoding.max (w : BitVec 1) (d : BitVec 7) (a : BitVec 8) (b : BitVec 8) : Encoding.Statement (.max w d a b) := by
  intro x h
  cases h
  refine (Encoding.decode_of 0x16 _ _ ?_ rfl ?_).trans ?_
  · simp (disch := decide) only [fld, Encoding.ext_hi]; rfl
  · show (0x16#8 ++ w ++ d ++ a ++ b : Word) &&& (0#8 ++ 0#1 ++ 0#7 ++ 0#8 ++ 0#8 : Word) = 0
    simp only [BitVec.and_append]; simp
  · simp (disch := decide) only [fld, Encoding.ext_hi, Encoding.ext_lo, Nat.reduceSub, BitVec.extractLsb'_eq_self]

theorem Encoding.abs (w : BitVec 1) (d : BitVec 7) (a : BitVec 8) : Encoding.Statement (.abs w d a) := by
  intro x h
  cases h
  refine (Encoding.decode_of 0x17 _ _ ?_ rfl ?_).trans ?_
  · simp (disch := decide) only [fld, Encoding.ext_hi]; rfl
  · show (0x17#8 ++ w ++ d ++ a ++ 0#8 : Word) &&& (0#8 ++ 0#1 ++ 0#7 ++ 0#8 ++ 255#8 : Word) = 0
    simp only [BitVec.and_append]; simp
  · simp (disch := decide) only [fld, Encoding.ext_hi, Encoding.ext_lo, Nat.reduceSub, BitVec.extractLsb'_eq_self]

theorem Encoding.neg (w : BitVec 1) (d : BitVec 7) (a : BitVec 8) : Encoding.Statement (.neg w d a) := by
  intro x h
  cases h
  refine (Encoding.decode_of 0x18 _ _ ?_ rfl ?_).trans ?_
  · simp (disch := decide) only [fld, Encoding.ext_hi]; rfl
  · show (0x18#8 ++ w ++ d ++ a ++ 0#8 : Word) &&& (0#8 ++ 0#1 ++ 0#7 ++ 0#8 ++ 255#8 : Word) = 0
    simp only [BitVec.and_append]; simp
  · simp (disch := decide) only [fld, Encoding.ext_hi, Encoding.ext_lo, Nat.reduceSub, BitVec.extractLsb'_eq_self]

theorem Encoding.and (w : BitVec 1) (d : BitVec 7) (a : BitVec 8) (b : BitVec 8) : Encoding.Statement (.and w d a b) := by
  intro x h
  cases h
  refine (Encoding.decode_of 0x19 _ _ ?_ rfl ?_).trans ?_
  · simp (disch := decide) only [fld, Encoding.ext_hi]; rfl
  · show (0x19#8 ++ w ++ d ++ a ++ b : Word) &&& (0#8 ++ 0#1 ++ 0#7 ++ 0#8 ++ 0#8 : Word) = 0
    simp only [BitVec.and_append]; simp
  · simp (disch := decide) only [fld, Encoding.ext_hi, Encoding.ext_lo, Nat.reduceSub, BitVec.extractLsb'_eq_self]

theorem Encoding.or (w : BitVec 1) (d : BitVec 7) (a : BitVec 8) (b : BitVec 8) : Encoding.Statement (.or w d a b) := by
  intro x h
  cases h
  refine (Encoding.decode_of 0x1A _ _ ?_ rfl ?_).trans ?_
  · simp (disch := decide) only [fld, Encoding.ext_hi]; rfl
  · show (0x1A#8 ++ w ++ d ++ a ++ b : Word) &&& (0#8 ++ 0#1 ++ 0#7 ++ 0#8 ++ 0#8 : Word) = 0
    simp only [BitVec.and_append]; simp
  · simp (disch := decide) only [fld, Encoding.ext_hi, Encoding.ext_lo, Nat.reduceSub, BitVec.extractLsb'_eq_self]

theorem Encoding.xor (w : BitVec 1) (d : BitVec 7) (a : BitVec 8) (b : BitVec 8) : Encoding.Statement (.xor w d a b) := by
  intro x h
  cases h
  refine (Encoding.decode_of 0x1B _ _ ?_ rfl ?_).trans ?_
  · simp (disch := decide) only [fld, Encoding.ext_hi]; rfl
  · show (0x1B#8 ++ w ++ d ++ a ++ b : Word) &&& (0#8 ++ 0#1 ++ 0#7 ++ 0#8 ++ 0#8 : Word) = 0
    simp only [BitVec.and_append]; simp
  · simp (disch := decide) only [fld, Encoding.ext_hi, Encoding.ext_lo, Nat.reduceSub, BitVec.extractLsb'_eq_self]

theorem Encoding.andn (w : BitVec 1) (d : BitVec 7) (a : BitVec 8) (b : BitVec 8) : Encoding.Statement (.andn w d a b) := by
  intro x h
  cases h
  refine (Encoding.decode_of 0x1C _ _ ?_ rfl ?_).trans ?_
  · simp (disch := decide) only [fld, Encoding.ext_hi]; rfl
  · show (0x1C#8 ++ w ++ d ++ a ++ b : Word) &&& (0#8 ++ 0#1 ++ 0#7 ++ 0#8 ++ 0#8 : Word) = 0
    simp only [BitVec.and_append]; simp
  · simp (disch := decide) only [fld, Encoding.ext_hi, Encoding.ext_lo, Nat.reduceSub, BitVec.extractLsb'_eq_self]

theorem Encoding.not (w : BitVec 1) (d : BitVec 7) (a : BitVec 8) : Encoding.Statement (.not w d a) := by
  intro x h
  cases h
  refine (Encoding.decode_of 0x1D _ _ ?_ rfl ?_).trans ?_
  · simp (disch := decide) only [fld, Encoding.ext_hi]; rfl
  · show (0x1D#8 ++ w ++ d ++ a ++ 0#8 : Word) &&& (0#8 ++ 0#1 ++ 0#7 ++ 0#8 ++ 255#8 : Word) = 0
    simp only [BitVec.and_append]; simp
  · simp (disch := decide) only [fld, Encoding.ext_hi, Encoding.ext_lo, Nat.reduceSub, BitVec.extractLsb'_eq_self]

theorem Encoding.shl (w : BitVec 1) (d : BitVec 7) (a : BitVec 8) (b : BitVec 8) : Encoding.Statement (.shl w d a b) := by
  intro x h
  cases h
  refine (Encoding.decode_of 0x1E _ _ ?_ rfl ?_).trans ?_
  · simp (disch := decide) only [fld, Encoding.ext_hi]; rfl
  · show (0x1E#8 ++ w ++ d ++ a ++ b : Word) &&& (0#8 ++ 0#1 ++ 0#7 ++ 0#8 ++ 0#8 : Word) = 0
    simp only [BitVec.and_append]; simp
  · simp (disch := decide) only [fld, Encoding.ext_hi, Encoding.ext_lo, Nat.reduceSub, BitVec.extractLsb'_eq_self]

theorem Encoding.shr (w : BitVec 1) (d : BitVec 7) (a : BitVec 8) (b : BitVec 8) : Encoding.Statement (.shr w d a b) := by
  intro x h
  cases h
  refine (Encoding.decode_of 0x1F _ _ ?_ rfl ?_).trans ?_
  · simp (disch := decide) only [fld, Encoding.ext_hi]; rfl
  · show (0x1F#8 ++ w ++ d ++ a ++ b : Word) &&& (0#8 ++ 0#1 ++ 0#7 ++ 0#8 ++ 0#8 : Word) = 0
    simp only [BitVec.and_append]; simp
  · simp (disch := decide) only [fld, Encoding.ext_hi, Encoding.ext_lo, Nat.reduceSub, BitVec.extractLsb'_eq_self]

theorem Encoding.sar (w : BitVec 1) (d : BitVec 7) (a : BitVec 8) (b : BitVec 8) : Encoding.Statement (.sar w d a b) := by
  intro x h
  cases h
  refine (Encoding.decode_of 0x20 _ _ ?_ rfl ?_).trans ?_
  · simp (disch := decide) only [fld, Encoding.ext_hi]; rfl
  · show (0x20#8 ++ w ++ d ++ a ++ b : Word) &&& (0#8 ++ 0#1 ++ 0#7 ++ 0#8 ++ 0#8 : Word) = 0
    simp only [BitVec.and_append]; simp
  · simp (disch := decide) only [fld, Encoding.ext_hi, Encoding.ext_lo, Nat.reduceSub, BitVec.extractLsb'_eq_self]

theorem Encoding.rot (w : BitVec 1) (d : BitVec 7) (a : BitVec 8) (b : BitVec 8) : Encoding.Statement (.rot w d a b) := by
  intro x h
  cases h
  refine (Encoding.decode_of 0x21 _ _ ?_ rfl ?_).trans ?_
  · simp (disch := decide) only [fld, Encoding.ext_hi]; rfl
  · show (0x21#8 ++ w ++ d ++ a ++ b : Word) &&& (0#8 ++ 0#1 ++ 0#7 ++ 0#8 ++ 0#8 : Word) = 0
    simp only [BitVec.and_append]; simp
  · simp (disch := decide) only [fld, Encoding.ext_hi, Encoding.ext_lo, Nat.reduceSub, BitVec.extractLsb'_eq_self]

theorem Encoding.clz (w : BitVec 1) (d : BitVec 7) (a : BitVec 8) : Encoding.Statement (.clz w d a) := by
  intro x h
  cases h
  refine (Encoding.decode_of 0x22 _ _ ?_ rfl ?_).trans ?_
  · simp (disch := decide) only [fld, Encoding.ext_hi]; rfl
  · show (0x22#8 ++ w ++ d ++ a ++ 0#8 : Word) &&& (0#8 ++ 0#1 ++ 0#7 ++ 0#8 ++ 255#8 : Word) = 0
    simp only [BitVec.and_append]; simp
  · simp (disch := decide) only [fld, Encoding.ext_hi, Encoding.ext_lo, Nat.reduceSub, BitVec.extractLsb'_eq_self]

theorem Encoding.ctz (w : BitVec 1) (d : BitVec 7) (a : BitVec 8) : Encoding.Statement (.ctz w d a) := by
  intro x h
  cases h
  refine (Encoding.decode_of 0x23 _ _ ?_ rfl ?_).trans ?_
  · simp (disch := decide) only [fld, Encoding.ext_hi]; rfl
  · show (0x23#8 ++ w ++ d ++ a ++ 0#8 : Word) &&& (0#8 ++ 0#1 ++ 0#7 ++ 0#8 ++ 255#8 : Word) = 0
    simp only [BitVec.and_append]; simp
  · simp (disch := decide) only [fld, Encoding.ext_hi, Encoding.ext_lo, Nat.reduceSub, BitVec.extractLsb'_eq_self]

theorem Encoding.popc (w : BitVec 1) (d : BitVec 7) (a : BitVec 8) : Encoding.Statement (.popc w d a) := by
  intro x h
  cases h
  refine (Encoding.decode_of 0x24 _ _ ?_ rfl ?_).trans ?_
  · simp (disch := decide) only [fld, Encoding.ext_hi]; rfl
  · show (0x24#8 ++ w ++ d ++ a ++ 0#8 : Word) &&& (0#8 ++ 0#1 ++ 0#7 ++ 0#8 ++ 255#8 : Word) = 0
    simp only [BitVec.and_append]; simp
  · simp (disch := decide) only [fld, Encoding.ext_hi, Encoding.ext_lo, Nat.reduceSub, BitVec.extractLsb'_eq_self]

theorem Encoding.brev (w : BitVec 1) (d : BitVec 7) (a : BitVec 8) : Encoding.Statement (.brev w d a) := by
  intro x h
  cases h
  refine (Encoding.decode_of 0x25 _ _ ?_ rfl ?_).trans ?_
  · simp (disch := decide) only [fld, Encoding.ext_hi]; rfl
  · show (0x25#8 ++ w ++ d ++ a ++ 0#8 : Word) &&& (0#8 ++ 0#1 ++ 0#7 ++ 0#8 ++ 255#8 : Word) = 0
    simp only [BitVec.and_append]; simp
  · simp (disch := decide) only [fld, Encoding.ext_hi, Encoding.ext_lo, Nat.reduceSub, BitVec.extractLsb'_eq_self]

theorem Encoding.bswap (w : BitVec 1) (d : BitVec 7) (a : BitVec 8) : Encoding.Statement (.bswap w d a) := by
  intro x h
  cases h
  refine (Encoding.decode_of 0x26 _ _ ?_ rfl ?_).trans ?_
  · simp (disch := decide) only [fld, Encoding.ext_hi]; rfl
  · show (0x26#8 ++ w ++ d ++ a ++ 0#8 : Word) &&& (0#8 ++ 0#1 ++ 0#7 ++ 0#8 ++ 255#8 : Word) = 0
    simp only [BitVec.and_append]; simp
  · simp (disch := decide) only [fld, Encoding.ext_hi, Encoding.ext_lo, Nat.reduceSub, BitVec.extractLsb'_eq_self]

theorem Encoding.bfx (w : BitVec 1) (d : BitVec 7) (a : BitVec 8) (b : BitVec 8) : Encoding.Statement (.bfx w d a b) := by
  intro x h
  cases h
  refine (Encoding.decode_of 0x27 _ _ ?_ rfl ?_).trans ?_
  · simp (disch := decide) only [fld, Encoding.ext_hi]; rfl
  · show (0x27#8 ++ w ++ d ++ a ++ b : Word) &&& (0#8 ++ 0#1 ++ 0#7 ++ 0#8 ++ 0#8 : Word) = 0
    simp only [BitVec.and_append]; simp
  · simp (disch := decide) only [fld, Encoding.ext_hi, Encoding.ext_lo, Nat.reduceSub, BitVec.extractLsb'_eq_self]

theorem Encoding.bfi (w : BitVec 1) (d : BitVec 7) (a : BitVec 8) (b : BitVec 8) : Encoding.Statement (.bfi w d a b) := by
  intro x h
  cases h
  refine (Encoding.decode_of 0x28 _ _ ?_ rfl ?_).trans ?_
  · simp (disch := decide) only [fld, Encoding.ext_hi]; rfl
  · show (0x28#8 ++ w ++ d ++ a ++ b : Word) &&& (0#8 ++ 0#1 ++ 0#7 ++ 0#8 ++ 0#8 : Word) = 0
    simp only [BitVec.and_append]; simp
  · simp (disch := decide) only [fld, Encoding.ext_hi, Encoding.ext_lo, Nat.reduceSub, BitVec.extractLsb'_eq_self]

theorem Encoding.lea1 (w : BitVec 1) (d : BitVec 7) (a : BitVec 8) (b : BitVec 8) : Encoding.Statement (.lea1 w d a b) := by
  intro x h
  cases h
  refine (Encoding.decode_of 0x29 _ _ ?_ rfl ?_).trans ?_
  · simp (disch := decide) only [fld, Encoding.ext_hi]; rfl
  · show (0x29#8 ++ w ++ d ++ a ++ b : Word) &&& (0#8 ++ 0#1 ++ 0#7 ++ 0#8 ++ 0#8 : Word) = 0
    simp only [BitVec.and_append]; simp
  · simp (disch := decide) only [fld, Encoding.ext_hi, Encoding.ext_lo, Nat.reduceSub, BitVec.extractLsb'_eq_self]

theorem Encoding.lea2 (w : BitVec 1) (d : BitVec 7) (a : BitVec 8) (b : BitVec 8) : Encoding.Statement (.lea2 w d a b) := by
  intro x h
  cases h
  refine (Encoding.decode_of 0x2A _ _ ?_ rfl ?_).trans ?_
  · simp (disch := decide) only [fld, Encoding.ext_hi]; rfl
  · show (0x2A#8 ++ w ++ d ++ a ++ b : Word) &&& (0#8 ++ 0#1 ++ 0#7 ++ 0#8 ++ 0#8 : Word) = 0
    simp only [BitVec.and_append]; simp
  · simp (disch := decide) only [fld, Encoding.ext_hi, Encoding.ext_lo, Nat.reduceSub, BitVec.extractLsb'_eq_self]

theorem Encoding.lea3 (w : BitVec 1) (d : BitVec 7) (a : BitVec 8) (b : BitVec 8) : Encoding.Statement (.lea3 w d a b) := by
  intro x h
  cases h
  refine (Encoding.decode_of 0x2B _ _ ?_ rfl ?_).trans ?_
  · simp (disch := decide) only [fld, Encoding.ext_hi]; rfl
  · show (0x2B#8 ++ w ++ d ++ a ++ b : Word) &&& (0#8 ++ 0#1 ++ 0#7 ++ 0#8 ++ 0#8 : Word) = 0
    simp only [BitVec.and_append]; simp
  · simp (disch := decide) only [fld, Encoding.ext_hi, Encoding.ext_lo, Nat.reduceSub, BitVec.extractLsb'_eq_self]

theorem Encoding.lea4 (w : BitVec 1) (d : BitVec 7) (a : BitVec 8) (b : BitVec 8) : Encoding.Statement (.lea4 w d a b) := by
  intro x h
  cases h
  refine (Encoding.decode_of 0x2C _ _ ?_ rfl ?_).trans ?_
  · simp (disch := decide) only [fld, Encoding.ext_hi]; rfl
  · show (0x2C#8 ++ w ++ d ++ a ++ b : Word) &&& (0#8 ++ 0#1 ++ 0#7 ++ 0#8 ++ 0#8 : Word) = 0
    simp only [BitVec.and_append]; simp
  · simp (disch := decide) only [fld, Encoding.ext_hi, Encoding.ext_lo, Nat.reduceSub, BitVec.extractLsb'_eq_self]

theorem Encoding.absd (w : BitVec 1) (d : BitVec 7) (a : BitVec 8) (b : BitVec 8) : Encoding.Statement (.absd w d a b) := by
  intro x h
  cases h
  refine (Encoding.decode_of 0x2D _ _ ?_ rfl ?_).trans ?_
  · simp (disch := decide) only [fld, Encoding.ext_hi]; rfl
  · show (0x2D#8 ++ w ++ d ++ a ++ b : Word) &&& (0#8 ++ 0#1 ++ 0#7 ++ 0#8 ++ 0#8 : Word) = 0
    simp only [BitVec.and_append]; simp
  · simp (disch := decide) only [fld, Encoding.ext_hi, Encoding.ext_lo, Nat.reduceSub, BitVec.extractLsb'_eq_self]

theorem Encoding.avg (w : BitVec 1) (d : BitVec 7) (a : BitVec 8) (b : BitVec 8) : Encoding.Statement (.avg w d a b) := by
  intro x h
  cases h
  refine (Encoding.decode_of 0x2E _ _ ?_ rfl ?_).trans ?_
  · simp (disch := decide) only [fld, Encoding.ext_hi]; rfl
  · show (0x2E#8 ++ w ++ d ++ a ++ b : Word) &&& (0#8 ++ 0#1 ++ 0#7 ++ 0#8 ++ 0#8 : Word) = 0
    simp only [BitVec.and_append]; simp
  · simp (disch := decide) only [fld, Encoding.ext_hi, Encoding.ext_lo, Nat.reduceSub, BitVec.extractLsb'_eq_self]

theorem Encoding.dot4 (w : BitVec 1) (d : BitVec 7) (a : BitVec 8) (b : BitVec 8) : Encoding.Statement (.dot4 w d a b) := by
  intro x h
  cases h
  refine (Encoding.decode_of 0x2F _ _ ?_ rfl ?_).trans ?_
  · simp (disch := decide) only [fld, Encoding.ext_hi]; rfl
  · show (0x2F#8 ++ w ++ d ++ a ++ b : Word) &&& (0#8 ++ 0#1 ++ 0#7 ++ 0#8 ++ 0#8 : Word) = 0
    simp only [BitVec.and_append]; simp
  · simp (disch := decide) only [fld, Encoding.ext_hi, Encoding.ext_lo, Nat.reduceSub, BitVec.extractLsb'_eq_self]

theorem Encoding.dotq (w : BitVec 1) (d : BitVec 7) (a : BitVec 8) (b : BitVec 8) : Encoding.Statement (.dotq w d a b) := by
  intro x h
  cases h
  refine (Encoding.decode_of 0x30 _ _ ?_ rfl ?_).trans ?_
  · simp (disch := decide) only [fld, Encoding.ext_hi]; rfl
  · show (0x30#8 ++ w ++ d ++ a ++ b : Word) &&& (0#8 ++ 0#1 ++ 0#7 ++ 0#8 ++ 0#8 : Word) = 0
    simp only [BitVec.and_append]; simp
  · simp (disch := decide) only [fld, Encoding.ext_hi, Encoding.ext_lo, Nat.reduceSub, BitVec.extractLsb'_eq_self]

theorem Encoding.pack2 (w : BitVec 1) (d : BitVec 7) (a : BitVec 8) (b : BitVec 8) : Encoding.Statement (.pack2 w d a b) := by
  intro x h
  cases h
  refine (Encoding.decode_of 0x31 _ _ ?_ rfl ?_).trans ?_
  · simp (disch := decide) only [fld, Encoding.ext_hi]; rfl
  · show (0x31#8 ++ w ++ d ++ a ++ b : Word) &&& (0#8 ++ 0#1 ++ 0#7 ++ 0#8 ++ 0#8 : Word) = 0
    simp only [BitVec.and_append]; simp
  · simp (disch := decide) only [fld, Encoding.ext_hi, Encoding.ext_lo, Nat.reduceSub, BitVec.extractLsb'_eq_self]

theorem Encoding.prmb (w : BitVec 1) (d : BitVec 7) (a : BitVec 8) (b : BitVec 8) : Encoding.Statement (.prmb w d a b) := by
  intro x h
  cases h
  refine (Encoding.decode_of 0x32 _ _ ?_ rfl ?_).trans ?_
  · simp (disch := decide) only [fld, Encoding.ext_hi]; rfl
  · show (0x32#8 ++ w ++ d ++ a ++ b : Word) &&& (0#8 ++ 0#1 ++ 0#7 ++ 0#8 ++ 0#8 : Word) = 0
    simp only [BitVec.and_append]; simp
  · simp (disch := decide) only [fld, Encoding.ext_hi, Encoding.ext_lo, Nat.reduceSub, BitVec.extractLsb'_eq_self]

theorem Encoding.ceq (d : BitVec 3) (a : BitVec 8) (b : BitVec 8) : Encoding.Statement (.ceq d a b) := by
  intro x h
  cases h
  refine (Encoding.decode_of 0x38 _ _ ?_ rfl ?_).trans ?_
  · simp (disch := decide) only [fld, Encoding.ext_hi]; rfl
  · show (0x38#8 ++ 0#5 ++ d ++ a ++ b : Word) &&& (0#8 ++ 31#5 ++ 0#3 ++ 0#8 ++ 0#8 : Word) = 0
    simp only [BitVec.and_append]; simp
  · simp (disch := decide) only [fld, Encoding.ext_hi, Encoding.ext_lo, Nat.reduceSub, BitVec.extractLsb'_eq_self]

theorem Encoding.cne (d : BitVec 3) (a : BitVec 8) (b : BitVec 8) : Encoding.Statement (.cne d a b) := by
  intro x h
  cases h
  refine (Encoding.decode_of 0x39 _ _ ?_ rfl ?_).trans ?_
  · simp (disch := decide) only [fld, Encoding.ext_hi]; rfl
  · show (0x39#8 ++ 0#5 ++ d ++ a ++ b : Word) &&& (0#8 ++ 31#5 ++ 0#3 ++ 0#8 ++ 0#8 : Word) = 0
    simp only [BitVec.and_append]; simp
  · simp (disch := decide) only [fld, Encoding.ext_hi, Encoding.ext_lo, Nat.reduceSub, BitVec.extractLsb'_eq_self]

theorem Encoding.clt (d : BitVec 3) (a : BitVec 8) (b : BitVec 8) : Encoding.Statement (.clt d a b) := by
  intro x h
  cases h
  refine (Encoding.decode_of 0x3A _ _ ?_ rfl ?_).trans ?_
  · simp (disch := decide) only [fld, Encoding.ext_hi]; rfl
  · show (0x3A#8 ++ 0#5 ++ d ++ a ++ b : Word) &&& (0#8 ++ 31#5 ++ 0#3 ++ 0#8 ++ 0#8 : Word) = 0
    simp only [BitVec.and_append]; simp
  · simp (disch := decide) only [fld, Encoding.ext_hi, Encoding.ext_lo, Nat.reduceSub, BitVec.extractLsb'_eq_self]

theorem Encoding.cle (d : BitVec 3) (a : BitVec 8) (b : BitVec 8) : Encoding.Statement (.cle d a b) := by
  intro x h
  cases h
  refine (Encoding.decode_of 0x3B _ _ ?_ rfl ?_).trans ?_
  · simp (disch := decide) only [fld, Encoding.ext_hi]; rfl
  · show (0x3B#8 ++ 0#5 ++ d ++ a ++ b : Word) &&& (0#8 ++ 31#5 ++ 0#3 ++ 0#8 ++ 0#8 : Word) = 0
    simp only [BitVec.and_append]; simp
  · simp (disch := decide) only [fld, Encoding.ext_hi, Encoding.ext_lo, Nat.reduceSub, BitVec.extractLsb'_eq_self]

theorem Encoding.cgt (d : BitVec 3) (a : BitVec 8) (b : BitVec 8) : Encoding.Statement (.cgt d a b) := by
  intro x h
  cases h
  refine (Encoding.decode_of 0x3C _ _ ?_ rfl ?_).trans ?_
  · simp (disch := decide) only [fld, Encoding.ext_hi]; rfl
  · show (0x3C#8 ++ 0#5 ++ d ++ a ++ b : Word) &&& (0#8 ++ 31#5 ++ 0#3 ++ 0#8 ++ 0#8 : Word) = 0
    simp only [BitVec.and_append]; simp
  · simp (disch := decide) only [fld, Encoding.ext_hi, Encoding.ext_lo, Nat.reduceSub, BitVec.extractLsb'_eq_self]

theorem Encoding.cge (d : BitVec 3) (a : BitVec 8) (b : BitVec 8) : Encoding.Statement (.cge d a b) := by
  intro x h
  cases h
  refine (Encoding.decode_of 0x3D _ _ ?_ rfl ?_).trans ?_
  · simp (disch := decide) only [fld, Encoding.ext_hi]; rfl
  · show (0x3D#8 ++ 0#5 ++ d ++ a ++ b : Word) &&& (0#8 ++ 31#5 ++ 0#3 ++ 0#8 ++ 0#8 : Word) = 0
    simp only [BitVec.and_append]; simp
  · simp (disch := decide) only [fld, Encoding.ext_hi, Encoding.ext_lo, Nat.reduceSub, BitVec.extractLsb'_eq_self]

theorem Encoding.cun (d : BitVec 3) (a : BitVec 8) (b : BitVec 8) : Encoding.Statement (.cun d a b) := by
  intro x h
  cases h
  refine (Encoding.decode_of 0x3E _ _ ?_ rfl ?_).trans ?_
  · simp (disch := decide) only [fld, Encoding.ext_hi]; rfl
  · show (0x3E#8 ++ 0#5 ++ d ++ a ++ b : Word) &&& (0#8 ++ 31#5 ++ 0#3 ++ 0#8 ++ 0#8 : Word) = 0
    simp only [BitVec.and_append]; simp
  · simp (disch := decide) only [fld, Encoding.ext_hi, Encoding.ext_lo, Nat.reduceSub, BitVec.extractLsb'_eq_self]

theorem Encoding.ctst (d : BitVec 3) (a : BitVec 8) (b : BitVec 8) : Encoding.Statement (.ctst d a b) := by
  intro x h
  cases h
  refine (Encoding.decode_of 0x3F _ _ ?_ rfl ?_).trans ?_
  · simp (disch := decide) only [fld, Encoding.ext_hi]; rfl
  · show (0x3F#8 ++ 0#5 ++ d ++ a ++ b : Word) &&& (0#8 ++ 31#5 ++ 0#3 ++ 0#8 ++ 0#8 : Word) = 0
    simp only [BitVec.and_append]; simp
  · simp (disch := decide) only [fld, Encoding.ext_hi, Encoding.ext_lo, Nat.reduceSub, BitVec.extractLsb'_eq_self]

theorem Encoding.pand (d : BitVec 3) (n : BitVec 1) (a : BitVec 3) (m : BitVec 1) (b : BitVec 3) : Encoding.Statement (.pand d n a m b) := by
  intro x h
  cases h
  refine (Encoding.decode_of 0x40 _ _ ?_ rfl ?_).trans ?_
  · simp (disch := decide) only [fld, Encoding.ext_hi]; rfl
  · show (0x40#8 ++ 0#5 ++ d ++ 0#4 ++ n ++ a ++ 0#4 ++ m ++ b : Word) &&& (0#8 ++ 31#5 ++ 0#3 ++ 15#4 ++ 0#1 ++ 0#3 ++ 15#4 ++ 0#1 ++ 0#3 : Word) = 0
    simp only [BitVec.and_append]; simp
  · simp (disch := decide) only [fld, Encoding.ext_hi, Encoding.ext_lo, Nat.reduceSub, BitVec.extractLsb'_eq_self]

theorem Encoding.por (d : BitVec 3) (n : BitVec 1) (a : BitVec 3) (m : BitVec 1) (b : BitVec 3) : Encoding.Statement (.por d n a m b) := by
  intro x h
  cases h
  refine (Encoding.decode_of 0x41 _ _ ?_ rfl ?_).trans ?_
  · simp (disch := decide) only [fld, Encoding.ext_hi]; rfl
  · show (0x41#8 ++ 0#5 ++ d ++ 0#4 ++ n ++ a ++ 0#4 ++ m ++ b : Word) &&& (0#8 ++ 31#5 ++ 0#3 ++ 15#4 ++ 0#1 ++ 0#3 ++ 15#4 ++ 0#1 ++ 0#3 : Word) = 0
    simp only [BitVec.and_append]; simp
  · simp (disch := decide) only [fld, Encoding.ext_hi, Encoding.ext_lo, Nat.reduceSub, BitVec.extractLsb'_eq_self]

theorem Encoding.pxor (d : BitVec 3) (n : BitVec 1) (a : BitVec 3) (m : BitVec 1) (b : BitVec 3) : Encoding.Statement (.pxor d n a m b) := by
  intro x h
  cases h
  refine (Encoding.decode_of 0x42 _ _ ?_ rfl ?_).trans ?_
  · simp (disch := decide) only [fld, Encoding.ext_hi]; rfl
  · show (0x42#8 ++ 0#5 ++ d ++ 0#4 ++ n ++ a ++ 0#4 ++ m ++ b : Word) &&& (0#8 ++ 31#5 ++ 0#3 ++ 15#4 ++ 0#1 ++ 0#3 ++ 15#4 ++ 0#1 ++ 0#3 : Word) = 0
    simp only [BitVec.and_append]; simp
  · simp (disch := decide) only [fld, Encoding.ext_hi, Encoding.ext_lo, Nat.reduceSub, BitVec.extractLsb'_eq_self]

theorem Encoding.pnot (d : BitVec 3) (n : BitVec 1) (a : BitVec 3) : Encoding.Statement (.pnot d n a) := by
  intro x h
  cases h
  refine (Encoding.decode_of 0x43 _ _ ?_ rfl ?_).trans ?_
  · simp (disch := decide) only [fld, Encoding.ext_hi]; rfl
  · show (0x43#8 ++ 0#5 ++ d ++ 0#4 ++ n ++ a ++ 0#8 : Word) &&& (0#8 ++ 31#5 ++ 0#3 ++ 15#4 ++ 0#1 ++ 0#3 ++ 255#8 : Word) = 0
    simp only [BitVec.and_append]; simp
  · simp (disch := decide) only [fld, Encoding.ext_hi, Encoding.ext_lo, Nat.reduceSub, BitVec.extractLsb'_eq_self]

theorem Encoding.pmov (d : BitVec 3) (n : BitVec 1) (a : BitVec 3) : Encoding.Statement (.pmov d n a) := by
  intro x h
  cases h
  refine (Encoding.decode_of 0x44 _ _ ?_ rfl ?_).trans ?_
  · simp (disch := decide) only [fld, Encoding.ext_hi]; rfl
  · show (0x44#8 ++ 0#5 ++ d ++ 0#4 ++ n ++ a ++ 0#8 : Word) &&& (0#8 ++ 31#5 ++ 0#3 ++ 15#4 ++ 0#1 ++ 0#3 ++ 255#8 : Word) = 0
    simp only [BitVec.and_append]; simp
  · simp (disch := decide) only [fld, Encoding.ext_hi, Encoding.ext_lo, Nat.reduceSub, BitVec.extractLsb'_eq_self]

theorem Encoding.pget (w : BitVec 1) (d : BitVec 7) : Encoding.Statement (.pget w d) := by
  intro x h
  cases h
  refine (Encoding.decode_of 0x45 _ _ ?_ rfl ?_).trans ?_
  · simp (disch := decide) only [fld, Encoding.ext_hi]; rfl
  · show (0x45#8 ++ w ++ d ++ 0#16 : Word) &&& (0#8 ++ 0#1 ++ 0#7 ++ 65535#16 : Word) = 0
    simp only [BitVec.and_append]; simp
  · simp (disch := decide) only [fld, Encoding.ext_hi, Encoding.ext_lo, Nat.reduceSub, BitVec.extractLsb'_eq_self]

theorem Encoding.fadd (w : BitVec 1) (d : BitVec 7) (a : BitVec 8) (b : BitVec 8) : Encoding.Statement (.fadd w d a b) := by
  intro x h
  cases h
  refine (Encoding.decode_of 0x50 _ _ ?_ rfl ?_).trans ?_
  · simp (disch := decide) only [fld, Encoding.ext_hi]; rfl
  · show (0x50#8 ++ w ++ d ++ a ++ b : Word) &&& (0#8 ++ 0#1 ++ 0#7 ++ 0#8 ++ 0#8 : Word) = 0
    simp only [BitVec.and_append]; simp
  · simp (disch := decide) only [fld, Encoding.ext_hi, Encoding.ext_lo, Nat.reduceSub, BitVec.extractLsb'_eq_self]

theorem Encoding.fsub (w : BitVec 1) (d : BitVec 7) (a : BitVec 8) (b : BitVec 8) : Encoding.Statement (.fsub w d a b) := by
  intro x h
  cases h
  refine (Encoding.decode_of 0x51 _ _ ?_ rfl ?_).trans ?_
  · simp (disch := decide) only [fld, Encoding.ext_hi]; rfl
  · show (0x51#8 ++ w ++ d ++ a ++ b : Word) &&& (0#8 ++ 0#1 ++ 0#7 ++ 0#8 ++ 0#8 : Word) = 0
    simp only [BitVec.and_append]; simp
  · simp (disch := decide) only [fld, Encoding.ext_hi, Encoding.ext_lo, Nat.reduceSub, BitVec.extractLsb'_eq_self]

theorem Encoding.fmul (w : BitVec 1) (d : BitVec 7) (a : BitVec 8) (b : BitVec 8) : Encoding.Statement (.fmul w d a b) := by
  intro x h
  cases h
  refine (Encoding.decode_of 0x52 _ _ ?_ rfl ?_).trans ?_
  · simp (disch := decide) only [fld, Encoding.ext_hi]; rfl
  · show (0x52#8 ++ w ++ d ++ a ++ b : Word) &&& (0#8 ++ 0#1 ++ 0#7 ++ 0#8 ++ 0#8 : Word) = 0
    simp only [BitVec.and_append]; simp
  · simp (disch := decide) only [fld, Encoding.ext_hi, Encoding.ext_lo, Nat.reduceSub, BitVec.extractLsb'_eq_self]

theorem Encoding.ffma (w : BitVec 1) (d : BitVec 7) (a : BitVec 8) (b : BitVec 8) : Encoding.Statement (.ffma w d a b) := by
  intro x h
  cases h
  refine (Encoding.decode_of 0x53 _ _ ?_ rfl ?_).trans ?_
  · simp (disch := decide) only [fld, Encoding.ext_hi]; rfl
  · show (0x53#8 ++ w ++ d ++ a ++ b : Word) &&& (0#8 ++ 0#1 ++ 0#7 ++ 0#8 ++ 0#8 : Word) = 0
    simp only [BitVec.and_append]; simp
  · simp (disch := decide) only [fld, Encoding.ext_hi, Encoding.ext_lo, Nat.reduceSub, BitVec.extractLsb'_eq_self]

theorem Encoding.ffms (w : BitVec 1) (d : BitVec 7) (a : BitVec 8) (b : BitVec 8) : Encoding.Statement (.ffms w d a b) := by
  intro x h
  cases h
  refine (Encoding.decode_of 0x54 _ _ ?_ rfl ?_).trans ?_
  · simp (disch := decide) only [fld, Encoding.ext_hi]; rfl
  · show (0x54#8 ++ w ++ d ++ a ++ b : Word) &&& (0#8 ++ 0#1 ++ 0#7 ++ 0#8 ++ 0#8 : Word) = 0
    simp only [BitVec.and_append]; simp
  · simp (disch := decide) only [fld, Encoding.ext_hi, Encoding.ext_lo, Nat.reduceSub, BitVec.extractLsb'_eq_self]

theorem Encoding.fnma (w : BitVec 1) (d : BitVec 7) (a : BitVec 8) (b : BitVec 8) : Encoding.Statement (.fnma w d a b) := by
  intro x h
  cases h
  refine (Encoding.decode_of 0x55 _ _ ?_ rfl ?_).trans ?_
  · simp (disch := decide) only [fld, Encoding.ext_hi]; rfl
  · show (0x55#8 ++ w ++ d ++ a ++ b : Word) &&& (0#8 ++ 0#1 ++ 0#7 ++ 0#8 ++ 0#8 : Word) = 0
    simp only [BitVec.and_append]; simp
  · simp (disch := decide) only [fld, Encoding.ext_hi, Encoding.ext_lo, Nat.reduceSub, BitVec.extractLsb'_eq_self]

theorem Encoding.fmin (w : BitVec 1) (d : BitVec 7) (a : BitVec 8) (b : BitVec 8) : Encoding.Statement (.fmin w d a b) := by
  intro x h
  cases h
  refine (Encoding.decode_of 0x56 _ _ ?_ rfl ?_).trans ?_
  · simp (disch := decide) only [fld, Encoding.ext_hi]; rfl
  · show (0x56#8 ++ w ++ d ++ a ++ b : Word) &&& (0#8 ++ 0#1 ++ 0#7 ++ 0#8 ++ 0#8 : Word) = 0
    simp only [BitVec.and_append]; simp
  · simp (disch := decide) only [fld, Encoding.ext_hi, Encoding.ext_lo, Nat.reduceSub, BitVec.extractLsb'_eq_self]

theorem Encoding.fmax (w : BitVec 1) (d : BitVec 7) (a : BitVec 8) (b : BitVec 8) : Encoding.Statement (.fmax w d a b) := by
  intro x h
  cases h
  refine (Encoding.decode_of 0x57 _ _ ?_ rfl ?_).trans ?_
  · simp (disch := decide) only [fld, Encoding.ext_hi]; rfl
  · show (0x57#8 ++ w ++ d ++ a ++ b : Word) &&& (0#8 ++ 0#1 ++ 0#7 ++ 0#8 ++ 0#8 : Word) = 0
    simp only [BitVec.and_append]; simp
  · simp (disch := decide) only [fld, Encoding.ext_hi, Encoding.ext_lo, Nat.reduceSub, BitVec.extractLsb'_eq_self]

theorem Encoding.fabs (w : BitVec 1) (d : BitVec 7) (a : BitVec 8) : Encoding.Statement (.fabs w d a) := by
  intro x h
  cases h
  refine (Encoding.decode_of 0x58 _ _ ?_ rfl ?_).trans ?_
  · simp (disch := decide) only [fld, Encoding.ext_hi]; rfl
  · show (0x58#8 ++ w ++ d ++ a ++ 0#8 : Word) &&& (0#8 ++ 0#1 ++ 0#7 ++ 0#8 ++ 255#8 : Word) = 0
    simp only [BitVec.and_append]; simp
  · simp (disch := decide) only [fld, Encoding.ext_hi, Encoding.ext_lo, Nat.reduceSub, BitVec.extractLsb'_eq_self]

theorem Encoding.fneg (w : BitVec 1) (d : BitVec 7) (a : BitVec 8) : Encoding.Statement (.fneg w d a) := by
  intro x h
  cases h
  refine (Encoding.decode_of 0x59 _ _ ?_ rfl ?_).trans ?_
  · simp (disch := decide) only [fld, Encoding.ext_hi]; rfl
  · show (0x59#8 ++ w ++ d ++ a ++ 0#8 : Word) &&& (0#8 ++ 0#1 ++ 0#7 ++ 0#8 ++ 255#8 : Word) = 0
    simp only [BitVec.and_append]; simp
  · simp (disch := decide) only [fld, Encoding.ext_hi, Encoding.ext_lo, Nat.reduceSub, BitVec.extractLsb'_eq_self]

theorem Encoding.frcp (w : BitVec 1) (d : BitVec 7) (a : BitVec 8) : Encoding.Statement (.frcp w d a) := by
  intro x h
  cases h
  refine (Encoding.decode_of 0x5A _ _ ?_ rfl ?_).trans ?_
  · simp (disch := decide) only [fld, Encoding.ext_hi]; rfl
  · show (0x5A#8 ++ w ++ d ++ a ++ 0#8 : Word) &&& (0#8 ++ 0#1 ++ 0#7 ++ 0#8 ++ 255#8 : Word) = 0
    simp only [BitVec.and_append]; simp
  · simp (disch := decide) only [fld, Encoding.ext_hi, Encoding.ext_lo, Nat.reduceSub, BitVec.extractLsb'_eq_self]

theorem Encoding.frsq (w : BitVec 1) (d : BitVec 7) (a : BitVec 8) : Encoding.Statement (.frsq w d a) := by
  intro x h
  cases h
  refine (Encoding.decode_of 0x5B _ _ ?_ rfl ?_).trans ?_
  · simp (disch := decide) only [fld, Encoding.ext_hi]; rfl
  · show (0x5B#8 ++ w ++ d ++ a ++ 0#8 : Word) &&& (0#8 ++ 0#1 ++ 0#7 ++ 0#8 ++ 255#8 : Word) = 0
    simp only [BitVec.and_append]; simp
  · simp (disch := decide) only [fld, Encoding.ext_hi, Encoding.ext_lo, Nat.reduceSub, BitVec.extractLsb'_eq_self]

theorem Encoding.fsqrt (w : BitVec 1) (d : BitVec 7) (a : BitVec 8) : Encoding.Statement (.fsqrt w d a) := by
  intro x h
  cases h
  refine (Encoding.decode_of 0x5C _ _ ?_ rfl ?_).trans ?_
  · simp (disch := decide) only [fld, Encoding.ext_hi]; rfl
  · show (0x5C#8 ++ w ++ d ++ a ++ 0#8 : Word) &&& (0#8 ++ 0#1 ++ 0#7 ++ 0#8 ++ 255#8 : Word) = 0
    simp only [BitVec.and_append]; simp
  · simp (disch := decide) only [fld, Encoding.ext_hi, Encoding.ext_lo, Nat.reduceSub, BitVec.extractLsb'_eq_self]

theorem Encoding.fdiv (w : BitVec 1) (d : BitVec 7) (a : BitVec 8) (b : BitVec 8) : Encoding.Statement (.fdiv w d a b) := by
  intro x h
  cases h
  refine (Encoding.decode_of 0x5D _ _ ?_ rfl ?_).trans ?_
  · simp (disch := decide) only [fld, Encoding.ext_hi]; rfl
  · show (0x5D#8 ++ w ++ d ++ a ++ b : Word) &&& (0#8 ++ 0#1 ++ 0#7 ++ 0#8 ++ 0#8 : Word) = 0
    simp only [BitVec.and_append]; simp
  · simp (disch := decide) only [fld, Encoding.ext_hi, Encoding.ext_lo, Nat.reduceSub, BitVec.extractLsb'_eq_self]

theorem Encoding.fexp2 (w : BitVec 1) (d : BitVec 7) (a : BitVec 8) : Encoding.Statement (.fexp2 w d a) := by
  intro x h
  cases h
  refine (Encoding.decode_of 0x5E _ _ ?_ rfl ?_).trans ?_
  · simp (disch := decide) only [fld, Encoding.ext_hi]; rfl
  · show (0x5E#8 ++ w ++ d ++ a ++ 0#8 : Word) &&& (0#8 ++ 0#1 ++ 0#7 ++ 0#8 ++ 255#8 : Word) = 0
    simp only [BitVec.and_append]; simp
  · simp (disch := decide) only [fld, Encoding.ext_hi, Encoding.ext_lo, Nat.reduceSub, BitVec.extractLsb'_eq_self]

theorem Encoding.flog2 (w : BitVec 1) (d : BitVec 7) (a : BitVec 8) : Encoding.Statement (.flog2 w d a) := by
  intro x h
  cases h
  refine (Encoding.decode_of 0x5F _ _ ?_ rfl ?_).trans ?_
  · simp (disch := decide) only [fld, Encoding.ext_hi]; rfl
  · show (0x5F#8 ++ w ++ d ++ a ++ 0#8 : Word) &&& (0#8 ++ 0#1 ++ 0#7 ++ 0#8 ++ 255#8 : Word) = 0
    simp only [BitVec.and_append]; simp
  · simp (disch := decide) only [fld, Encoding.ext_hi, Encoding.ext_lo, Nat.reduceSub, BitVec.extractLsb'_eq_self]

theorem Encoding.fsinp (w : BitVec 1) (d : BitVec 7) (a : BitVec 8) : Encoding.Statement (.fsinp w d a) := by
  intro x h
  cases h
  refine (Encoding.decode_of 0x60 _ _ ?_ rfl ?_).trans ?_
  · simp (disch := decide) only [fld, Encoding.ext_hi]; rfl
  · show (0x60#8 ++ w ++ d ++ a ++ 0#8 : Word) &&& (0#8 ++ 0#1 ++ 0#7 ++ 0#8 ++ 255#8 : Word) = 0
    simp only [BitVec.and_append]; simp
  · simp (disch := decide) only [fld, Encoding.ext_hi, Encoding.ext_lo, Nat.reduceSub, BitVec.extractLsb'_eq_self]

theorem Encoding.fcosp (w : BitVec 1) (d : BitVec 7) (a : BitVec 8) : Encoding.Statement (.fcosp w d a) := by
  intro x h
  cases h
  refine (Encoding.decode_of 0x61 _ _ ?_ rfl ?_).trans ?_
  · simp (disch := decide) only [fld, Encoding.ext_hi]; rfl
  · show (0x61#8 ++ w ++ d ++ a ++ 0#8 : Word) &&& (0#8 ++ 0#1 ++ 0#7 ++ 0#8 ++ 255#8 : Word) = 0
    simp only [BitVec.and_append]; simp
  · simp (disch := decide) only [fld, Encoding.ext_hi, Encoding.ext_lo, Nat.reduceSub, BitVec.extractLsb'_eq_self]

theorem Encoding.fflr (w : BitVec 1) (d : BitVec 7) (a : BitVec 8) : Encoding.Statement (.fflr w d a) := by
  intro x h
  cases h
  refine (Encoding.decode_of 0x62 _ _ ?_ rfl ?_).trans ?_
  · simp (disch := decide) only [fld, Encoding.ext_hi]; rfl
  · show (0x62#8 ++ w ++ d ++ a ++ 0#8 : Word) &&& (0#8 ++ 0#1 ++ 0#7 ++ 0#8 ++ 255#8 : Word) = 0
    simp only [BitVec.and_append]; simp
  · simp (disch := decide) only [fld, Encoding.ext_hi, Encoding.ext_lo, Nat.reduceSub, BitVec.extractLsb'_eq_self]

theorem Encoding.fceil (w : BitVec 1) (d : BitVec 7) (a : BitVec 8) : Encoding.Statement (.fceil w d a) := by
  intro x h
  cases h
  refine (Encoding.decode_of 0x63 _ _ ?_ rfl ?_).trans ?_
  · simp (disch := decide) only [fld, Encoding.ext_hi]; rfl
  · show (0x63#8 ++ w ++ d ++ a ++ 0#8 : Word) &&& (0#8 ++ 0#1 ++ 0#7 ++ 0#8 ++ 255#8 : Word) = 0
    simp only [BitVec.and_append]; simp
  · simp (disch := decide) only [fld, Encoding.ext_hi, Encoding.ext_lo, Nat.reduceSub, BitVec.extractLsb'_eq_self]

theorem Encoding.frnd (w : BitVec 1) (d : BitVec 7) (a : BitVec 8) : Encoding.Statement (.frnd w d a) := by
  intro x h
  cases h
  refine (Encoding.decode_of 0x64 _ _ ?_ rfl ?_).trans ?_
  · simp (disch := decide) only [fld, Encoding.ext_hi]; rfl
  · show (0x64#8 ++ w ++ d ++ a ++ 0#8 : Word) &&& (0#8 ++ 0#1 ++ 0#7 ++ 0#8 ++ 255#8 : Word) = 0
    simp only [BitVec.and_append]; simp
  · simp (disch := decide) only [fld, Encoding.ext_hi, Encoding.ext_lo, Nat.reduceSub, BitVec.extractLsb'_eq_self]

theorem Encoding.ffrc (w : BitVec 1) (d : BitVec 7) (a : BitVec 8) : Encoding.Statement (.ffrc w d a) := by
  intro x h
  cases h
  refine (Encoding.decode_of 0x65 _ _ ?_ rfl ?_).trans ?_
  · simp (disch := decide) only [fld, Encoding.ext_hi]; rfl
  · show (0x65#8 ++ w ++ d ++ a ++ 0#8 : Word) &&& (0#8 ++ 0#1 ++ 0#7 ++ 0#8 ++ 255#8 : Word) = 0
    simp only [BitVec.and_append]; simp
  · simp (disch := decide) only [fld, Encoding.ext_hi, Encoding.ext_lo, Nat.reduceSub, BitVec.extractLsb'_eq_self]

theorem Encoding.fcls (w : BitVec 1) (d : BitVec 7) (a : BitVec 8) : Encoding.Statement (.fcls w d a) := by
  intro x h
  cases h
  refine (Encoding.decode_of 0x66 _ _ ?_ rfl ?_).trans ?_
  · simp (disch := decide) only [fld, Encoding.ext_hi]; rfl
  · show (0x66#8 ++ w ++ d ++ a ++ 0#8 : Word) &&& (0#8 ++ 0#1 ++ 0#7 ++ 0#8 ++ 255#8 : Word) = 0
    simp only [BitVec.and_append]; simp
  · simp (disch := decide) only [fld, Encoding.ext_hi, Encoding.ext_lo, Nat.reduceSub, BitVec.extractLsb'_eq_self]

theorem Encoding.fscl (w : BitVec 1) (d : BitVec 7) (a : BitVec 8) (b : BitVec 8) : Encoding.Statement (.fscl w d a b) := by
  intro x h
  cases h
  refine (Encoding.decode_of 0x67 _ _ ?_ rfl ?_).trans ?_
  · simp (disch := decide) only [fld, Encoding.ext_hi]; rfl
  · show (0x67#8 ++ w ++ d ++ a ++ b : Word) &&& (0#8 ++ 0#1 ++ 0#7 ++ 0#8 ++ 0#8 : Word) = 0
    simp only [BitVec.and_append]; simp
  · simp (disch := decide) only [fld, Encoding.ext_hi, Encoding.ext_lo, Nat.reduceSub, BitVec.extractLsb'_eq_self]

theorem Encoding.fgete (w : BitVec 1) (d : BitVec 7) (a : BitVec 8) : Encoding.Statement (.fgete w d a) := by
  intro x h
  cases h
  refine (Encoding.decode_of 0x68 _ _ ?_ rfl ?_).trans ?_
  · simp (disch := decide) only [fld, Encoding.ext_hi]; rfl
  · show (0x68#8 ++ w ++ d ++ a ++ 0#8 : Word) &&& (0#8 ++ 0#1 ++ 0#7 ++ 0#8 ++ 255#8 : Word) = 0
    simp only [BitVec.and_append]; simp
  · simp (disch := decide) only [fld, Encoding.ext_hi, Encoding.ext_lo, Nat.reduceSub, BitVec.extractLsb'_eq_self]

theorem Encoding.fdot2 (w : BitVec 1) (d : BitVec 7) (a : BitVec 8) (b : BitVec 8) : Encoding.Statement (.fdot2 w d a b) := by
  intro x h
  cases h
  refine (Encoding.decode_of 0x69 _ _ ?_ rfl ?_).trans ?_
  · simp (disch := decide) only [fld, Encoding.ext_hi]; rfl
  · show (0x69#8 ++ w ++ d ++ a ++ b : Word) &&& (0#8 ++ 0#1 ++ 0#7 ++ 0#8 ++ 0#8 : Word) = 0
    simp only [BitVec.and_append]; simp
  · simp (disch := decide) only [fld, Encoding.ext_hi, Encoding.ext_lo, Nat.reduceSub, BitVec.extractLsb'_eq_self]

theorem Encoding.cvt (w : BitVec 1) (d : BitVec 7) (a : BitVec 8) : Encoding.Statement (.cvt w d a) := by
  intro x h
  cases h
  refine (Encoding.decode_of 0x70 _ _ ?_ rfl ?_).trans ?_
  · simp (disch := decide) only [fld, Encoding.ext_hi]; rfl
  · show (0x70#8 ++ w ++ d ++ a ++ 0#8 : Word) &&& (0#8 ++ 0#1 ++ 0#7 ++ 0#8 ++ 255#8 : Word) = 0
    simp only [BitVec.and_append]; simp
  · simp (disch := decide) only [fld, Encoding.ext_hi, Encoding.ext_lo, Nat.reduceSub, BitVec.extractLsb'_eq_self]

theorem Encoding.cvpk (w : BitVec 1) (d : BitVec 7) (a : BitVec 8) (b : BitVec 8) : Encoding.Statement (.cvpk w d a b) := by
  intro x h
  cases h
  refine (Encoding.decode_of 0x71 _ _ ?_ rfl ?_).trans ?_
  · simp (disch := decide) only [fld, Encoding.ext_hi]; rfl
  · show (0x71#8 ++ w ++ d ++ a ++ b : Word) &&& (0#8 ++ 0#1 ++ 0#7 ++ 0#8 ++ 0#8 : Word) = 0
    simp only [BitVec.and_append]; simp
  · simp (disch := decide) only [fld, Encoding.ext_hi, Encoding.ext_lo, Nat.reduceSub, BitVec.extractLsb'_eq_self]

theorem Encoding.cvlo (w : BitVec 1) (d : BitVec 7) (a : BitVec 8) : Encoding.Statement (.cvlo w d a) := by
  intro x h
  cases h
  refine (Encoding.decode_of 0x72 _ _ ?_ rfl ?_).trans ?_
  · simp (disch := decide) only [fld, Encoding.ext_hi]; rfl
  · show (0x72#8 ++ w ++ d ++ a ++ 0#8 : Word) &&& (0#8 ++ 0#1 ++ 0#7 ++ 0#8 ++ 255#8 : Word) = 0
    simp only [BitVec.and_append]; simp
  · simp (disch := decide) only [fld, Encoding.ext_hi, Encoding.ext_lo, Nat.reduceSub, BitVec.extractLsb'_eq_self]

theorem Encoding.cvhi (w : BitVec 1) (d : BitVec 7) (a : BitVec 8) : Encoding.Statement (.cvhi w d a) := by
  intro x h
  cases h
  refine (Encoding.decode_of 0x73 _ _ ?_ rfl ?_).trans ?_
  · simp (disch := decide) only [fld, Encoding.ext_hi]; rfl
  · show (0x73#8 ++ w ++ d ++ a ++ 0#8 : Word) &&& (0#8 ++ 0#1 ++ 0#7 ++ 0#8 ++ 255#8 : Word) = 0
    simp only [BitVec.and_append]; simp
  · simp (disch := decide) only [fld, Encoding.ext_hi, Encoding.ext_lo, Nat.reduceSub, BitVec.extractLsb'_eq_self]

theorem Encoding.shfli (w : BitVec 1) (d : BitVec 7) (a : BitVec 8) (b : BitVec 8) : Encoding.Statement (.shfli w d a b) := by
  intro x h
  cases h
  refine (Encoding.decode_of 0x80 _ _ ?_ rfl ?_).trans ?_
  · simp (disch := decide) only [fld, Encoding.ext_hi]; rfl
  · show (0x80#8 ++ w ++ d ++ a ++ b : Word) &&& (0#8 ++ 0#1 ++ 0#7 ++ 0#8 ++ 0#8 : Word) = 0
    simp only [BitVec.and_append]; simp
  · simp (disch := decide) only [fld, Encoding.ext_hi, Encoding.ext_lo, Nat.reduceSub, BitVec.extractLsb'_eq_self]

theorem Encoding.shflx (w : BitVec 1) (d : BitVec 7) (a : BitVec 8) (b : BitVec 8) : Encoding.Statement (.shflx w d a b) := by
  intro x h
  cases h
  refine (Encoding.decode_of 0x81 _ _ ?_ rfl ?_).trans ?_
  · simp (disch := decide) only [fld, Encoding.ext_hi]; rfl
  · show (0x81#8 ++ w ++ d ++ a ++ b : Word) &&& (0#8 ++ 0#1 ++ 0#7 ++ 0#8 ++ 0#8 : Word) = 0
    simp only [BitVec.and_append]; simp
  · simp (disch := decide) only [fld, Encoding.ext_hi, Encoding.ext_lo, Nat.reduceSub, BitVec.extractLsb'_eq_self]

theorem Encoding.shflb (w : BitVec 1) (d : BitVec 7) (a : BitVec 8) (b : BitVec 8) : Encoding.Statement (.shflb w d a b) := by
  intro x h
  cases h
  refine (Encoding.decode_of 0x82 _ _ ?_ rfl ?_).trans ?_
  · simp (disch := decide) only [fld, Encoding.ext_hi]; rfl
  · show (0x82#8 ++ w ++ d ++ a ++ b : Word) &&& (0#8 ++ 0#1 ++ 0#7 ++ 0#8 ++ 0#8 : Word) = 0
    simp only [BitVec.and_append]; simp
  · simp (disch := decide) only [fld, Encoding.ext_hi, Encoding.ext_lo, Nat.reduceSub, BitVec.extractLsb'_eq_self]

theorem Encoding.shflf (w : BitVec 1) (d : BitVec 7) (a : BitVec 8) (b : BitVec 8) : Encoding.Statement (.shflf w d a b) := by
  intro x h
  cases h
  refine (Encoding.decode_of 0x83 _ _ ?_ rfl ?_).trans ?_
  · simp (disch := decide) only [fld, Encoding.ext_hi]; rfl
  · show (0x83#8 ++ w ++ d ++ a ++ b : Word) &&& (0#8 ++ 0#1 ++ 0#7 ++ 0#8 ++ 0#8 : Word) = 0
    simp only [BitVec.and_append]; simp
  · simp (disch := decide) only [fld, Encoding.ext_hi, Encoding.ext_lo, Nat.reduceSub, BitVec.extractLsb'_eq_self]

theorem Encoding.ballot (w : BitVec 1) (d : BitVec 7) (a : BitVec 8) : Encoding.Statement (.ballot w d a) := by
  intro x h
  cases h
  refine (Encoding.decode_of 0x84 _ _ ?_ rfl ?_).trans ?_
  · simp (disch := decide) only [fld, Encoding.ext_hi]; rfl
  · show (0x84#8 ++ w ++ d ++ a ++ 0#8 : Word) &&& (0#8 ++ 0#1 ++ 0#7 ++ 0#8 ++ 255#8 : Word) = 0
    simp only [BitVec.and_append]; simp
  · simp (disch := decide) only [fld, Encoding.ext_hi, Encoding.ext_lo, Nat.reduceSub, BitVec.extractLsb'_eq_self]

theorem Encoding.vany (d : BitVec 3) (a : BitVec 8) : Encoding.Statement (.vany d a) := by
  intro x h
  cases h
  refine (Encoding.decode_of 0x85 _ _ ?_ rfl ?_).trans ?_
  · simp (disch := decide) only [fld, Encoding.ext_hi]; rfl
  · show (0x85#8 ++ 0#5 ++ d ++ a ++ 0#8 : Word) &&& (0#8 ++ 31#5 ++ 0#3 ++ 0#8 ++ 255#8 : Word) = 0
    simp only [BitVec.and_append]; simp
  · simp (disch := decide) only [fld, Encoding.ext_hi, Encoding.ext_lo, Nat.reduceSub, BitVec.extractLsb'_eq_self]

theorem Encoding.vall (d : BitVec 3) (a : BitVec 8) : Encoding.Statement (.vall d a) := by
  intro x h
  cases h
  refine (Encoding.decode_of 0x86 _ _ ?_ rfl ?_).trans ?_
  · simp (disch := decide) only [fld, Encoding.ext_hi]; rfl
  · show (0x86#8 ++ 0#5 ++ d ++ a ++ 0#8 : Word) &&& (0#8 ++ 31#5 ++ 0#3 ++ 0#8 ++ 255#8 : Word) = 0
    simp only [BitVec.and_append]; simp
  · simp (disch := decide) only [fld, Encoding.ext_hi, Encoding.ext_lo, Nat.reduceSub, BitVec.extractLsb'_eq_self]

theorem Encoding.veq (d : BitVec 3) (a : BitVec 8) : Encoding.Statement (.veq d a) := by
  intro x h
  cases h
  refine (Encoding.decode_of 0x87 _ _ ?_ rfl ?_).trans ?_
  · simp (disch := decide) only [fld, Encoding.ext_hi]; rfl
  · show (0x87#8 ++ 0#5 ++ d ++ a ++ 0#8 : Word) &&& (0#8 ++ 31#5 ++ 0#3 ++ 0#8 ++ 255#8 : Word) = 0
    simp only [BitVec.and_append]; simp
  · simp (disch := decide) only [fld, Encoding.ext_hi, Encoding.ext_lo, Nat.reduceSub, BitVec.extractLsb'_eq_self]

theorem Encoding.scan (w : BitVec 1) (d : BitVec 7) (a : BitVec 8) : Encoding.Statement (.scan w d a) := by
  intro x h
  cases h
  refine (Encoding.decode_of 0x88 _ _ ?_ rfl ?_).trans ?_
  · simp (disch := decide) only [fld, Encoding.ext_hi]; rfl
  · show (0x88#8 ++ w ++ d ++ a ++ 0#8 : Word) &&& (0#8 ++ 0#1 ++ 0#7 ++ 0#8 ++ 255#8 : Word) = 0
    simp only [BitVec.and_append]; simp
  · simp (disch := decide) only [fld, Encoding.ext_hi, Encoding.ext_lo, Nat.reduceSub, BitVec.extractLsb'_eq_self]

theorem Encoding.scanx (w : BitVec 1) (d : BitVec 7) (a : BitVec 8) : Encoding.Statement (.scanx w d a) := by
  intro x h
  cases h
  refine (Encoding.decode_of 0x89 _ _ ?_ rfl ?_).trans ?_
  · simp (disch := decide) only [fld, Encoding.ext_hi]; rfl
  · show (0x89#8 ++ w ++ d ++ a ++ 0#8 : Word) &&& (0#8 ++ 0#1 ++ 0#7 ++ 0#8 ++ 255#8 : Word) = 0
    simp only [BitVec.and_append]; simp
  · simp (disch := decide) only [fld, Encoding.ext_hi, Encoding.ext_lo, Nat.reduceSub, BitVec.extractLsb'_eq_self]

theorem Encoding.reda (w : BitVec 1) (d : BitVec 7) (a : BitVec 8) : Encoding.Statement (.reda w d a) := by
  intro x h
  cases h
  refine (Encoding.decode_of 0x8A _ _ ?_ rfl ?_).trans ?_
  · simp (disch := decide) only [fld, Encoding.ext_hi]; rfl
  · show (0x8A#8 ++ w ++ d ++ a ++ 0#8 : Word) &&& (0#8 ++ 0#1 ++ 0#7 ++ 0#8 ++ 255#8 : Word) = 0
    simp only [BitVec.and_append]; simp
  · simp (disch := decide) only [fld, Encoding.ext_hi, Encoding.ext_lo, Nat.reduceSub, BitVec.extractLsb'_eq_self]

theorem Encoding.redmn (w : BitVec 1) (d : BitVec 7) (a : BitVec 8) : Encoding.Statement (.redmn w d a) := by
  intro x h
  cases h
  refine (Encoding.decode_of 0x8B _ _ ?_ rfl ?_).trans ?_
  · simp (disch := decide) only [fld, Encoding.ext_hi]; rfl
  · show (0x8B#8 ++ w ++ d ++ a ++ 0#8 : Word) &&& (0#8 ++ 0#1 ++ 0#7 ++ 0#8 ++ 255#8 : Word) = 0
    simp only [BitVec.and_append]; simp
  · simp (disch := decide) only [fld, Encoding.ext_hi, Encoding.ext_lo, Nat.reduceSub, BitVec.extractLsb'_eq_self]

theorem Encoding.redmx (w : BitVec 1) (d : BitVec 7) (a : BitVec 8) : Encoding.Statement (.redmx w d a) := by
  intro x h
  cases h
  refine (Encoding.decode_of 0x8C _ _ ?_ rfl ?_).trans ?_
  · simp (disch := decide) only [fld, Encoding.ext_hi]; rfl
  · show (0x8C#8 ++ w ++ d ++ a ++ 0#8 : Word) &&& (0#8 ++ 0#1 ++ 0#7 ++ 0#8 ++ 255#8 : Word) = 0
    simp only [BitVec.and_append]; simp
  · simp (disch := decide) only [fld, Encoding.ext_hi, Encoding.ext_lo, Nat.reduceSub, BitVec.extractLsb'_eq_self]

theorem Encoding.matchL (w : BitVec 1) (d : BitVec 7) (a : BitVec 8) : Encoding.Statement (.matchL w d a) := by
  intro x h
  cases h
  refine (Encoding.decode_of 0x8D _ _ ?_ rfl ?_).trans ?_
  · simp (disch := decide) only [fld, Encoding.ext_hi]; rfl
  · show (0x8D#8 ++ w ++ d ++ a ++ 0#8 : Word) &&& (0#8 ++ 0#1 ++ 0#7 ++ 0#8 ++ 255#8 : Word) = 0
    simp only [BitVec.and_append]; simp
  · simp (disch := decide) only [fld, Encoding.ext_hi, Encoding.ext_lo, Nat.reduceSub, BitVec.extractLsb'_eq_self]

theorem Encoding.actm (w : BitVec 1) (d : BitVec 7) : Encoding.Statement (.actm w d) := by
  intro x h
  cases h
  refine (Encoding.decode_of 0x8E _ _ ?_ rfl ?_).trans ?_
  · simp (disch := decide) only [fld, Encoding.ext_hi]; rfl
  · show (0x8E#8 ++ w ++ d ++ 0#16 : Word) &&& (0#8 ++ 0#1 ++ 0#7 ++ 65535#16 : Word) = 0
    simp only [BitVec.and_append]; simp
  · simp (disch := decide) only [fld, Encoding.ext_hi, Encoding.ext_lo, Nat.reduceSub, BitVec.extractLsb'_eq_self]

theorem Encoding.elect (d : BitVec 3) : Encoding.Statement (.elect d) := by
  intro x h
  cases h
  refine (Encoding.decode_of 0x8F _ _ ?_ rfl ?_).trans ?_
  · simp (disch := decide) only [fld, Encoding.ext_hi]; rfl
  · show (0x8F#8 ++ 0#5 ++ d ++ 0#16 : Word) &&& (0#8 ++ 31#5 ++ 0#3 ++ 65535#16 : Word) = 0
    simp only [BitVec.and_append]; simp
  · simp (disch := decide) only [fld, Encoding.ext_hi, Encoding.ext_lo, Nat.reduceSub, BitVec.extractLsb'_eq_self]

theorem Encoding.bra (c : BitVec 4) (o : BitVec 20) : Encoding.Statement (.bra c o) := by
  intro x h
  cases h
  refine (Encoding.decode_of 0x90 _ _ ?_ rfl ?_).trans ?_
  · simp (disch := decide) only [fld, Encoding.ext_hi]; rfl
  · show (0x90#8 ++ c ++ o : Word) &&& (0#8 ++ 0#4 ++ 0#20 : Word) = 0
    simp only [BitVec.and_append]; simp
  · simp (disch := decide) only [fld, Encoding.ext_hi, Encoding.ext_lo, Nat.reduceSub, BitVec.extractLsb'_eq_self]

theorem Encoding.call (c : BitVec 4) (o : BitVec 20) : Encoding.Statement (.call c o) := by
  intro x h
  cases h
  refine (Encoding.decode_of 0x91 _ _ ?_ rfl ?_).trans ?_
  · simp (disch := decide) only [fld, Encoding.ext_hi]; rfl
  · show (0x91#8 ++ c ++ o : Word) &&& (0#8 ++ 0#4 ++ 0#20 : Word) = 0
    simp only [BitVec.and_append]; simp
  · simp (disch := decide) only [fld, Encoding.ext_hi, Encoding.ext_lo, Nat.reduceSub, BitVec.extractLsb'_eq_self]

theorem Encoding.calli (a : BitVec 8) : Encoding.Statement (.calli a) := by
  intro x h
  cases h
  refine (Encoding.decode_of 0x92 _ _ ?_ rfl ?_).trans ?_
  · simp (disch := decide) only [fld, Encoding.ext_hi]; rfl
  · show (0x92#8 ++ 0#8 ++ a ++ 0#8 : Word) &&& (0#8 ++ 255#8 ++ 0#8 ++ 255#8 : Word) = 0
    simp only [BitVec.and_append]; simp
  · simp (disch := decide) only [fld, Encoding.ext_hi, Encoding.ext_lo, Nat.reduceSub, BitVec.extractLsb'_eq_self]

theorem Encoding.jmpi (a : BitVec 8) : Encoding.Statement (.jmpi a) := by
  intro x h
  cases h
  refine (Encoding.decode_of 0x93 _ _ ?_ rfl ?_).trans ?_
  · simp (disch := decide) only [fld, Encoding.ext_hi]; rfl
  · show (0x93#8 ++ 0#8 ++ a ++ 0#8 : Word) &&& (0#8 ++ 255#8 ++ 0#8 ++ 255#8 : Word) = 0
    simp only [BitVec.and_append]; simp
  · simp (disch := decide) only [fld, Encoding.ext_hi, Encoding.ext_lo, Nat.reduceSub, BitVec.extractLsb'_eq_self]

theorem Encoding.ret : Encoding.Statement (.ret) := by
  intro x h
  cases h
  refine (Encoding.decode_of 0x94 _ _ ?_ rfl ?_).trans ?_
  · simp (disch := decide) only [fld, Encoding.ext_hi]; rfl
  · rfl
  · simp (disch := decide) only [fld, Encoding.ext_hi, Encoding.ext_lo, Nat.reduceSub, BitVec.extractLsb'_eq_self]

theorem Encoding.join (o : BitVec 20) : Encoding.Statement (.join o) := by
  intro x h
  cases h
  refine (Encoding.decode_of 0x95 _ _ ?_ rfl ?_).trans ?_
  · simp (disch := decide) only [fld, Encoding.ext_hi]; rfl
  · show (0x95#8 ++ 0#4 ++ o : Word) &&& (0#8 ++ 15#4 ++ 0#20 : Word) = 0
    simp only [BitVec.and_append]; simp
  · simp (disch := decide) only [fld, Encoding.ext_hi, Encoding.ext_lo, Nat.reduceSub, BitVec.extractLsb'_eq_self]

theorem Encoding.exit : Encoding.Statement (.exit) := by
  intro x h
  cases h
  refine (Encoding.decode_of 0x96 _ _ ?_ rfl ?_).trans ?_
  · simp (disch := decide) only [fld, Encoding.ext_hi]; rfl
  · rfl
  · simp (disch := decide) only [fld, Encoding.ext_hi, Encoding.ext_lo, Nat.reduceSub, BitVec.extractLsb'_eq_self]

theorem Encoding.yield : Encoding.Statement (.yield) := by
  intro x h
  cases h
  refine (Encoding.decode_of 0x97 _ _ ?_ rfl ?_).trans ?_
  · simp (disch := decide) only [fld, Encoding.ext_hi]; rfl
  · rfl
  · simp (disch := decide) only [fld, Encoding.ext_hi, Encoding.ext_lo, Nat.reduceSub, BitVec.extractLsb'_eq_self]

theorem Encoding.waitc (a : BitVec 8) (b : BitVec 8) : Encoding.Statement (.waitc a b) := by
  intro x h
  cases h
  refine (Encoding.decode_of 0x98 _ _ ?_ rfl ?_).trans ?_
  · simp (disch := decide) only [fld, Encoding.ext_hi]; rfl
  · show (0x98#8 ++ 0#8 ++ a ++ b : Word) &&& (0#8 ++ 255#8 ++ 0#8 ++ 0#8 : Word) = 0
    simp only [BitVec.and_append]; simp
  · simp (disch := decide) only [fld, Encoding.ext_hi, Encoding.ext_lo, Nat.reduceSub, BitVec.extractLsb'_eq_self]

theorem Encoding.brk (b : BitVec 8) : Encoding.Statement (.brk b) := by
  intro x h
  cases h
  refine (Encoding.decode_of 0x99 _ _ ?_ rfl ?_).trans ?_
  · simp (disch := decide) only [fld, Encoding.ext_hi]; rfl
  · show (0x99#8 ++ 0#16 ++ b : Word) &&& (0#8 ++ 65535#16 ++ 0#8 : Word) = 0
    simp only [BitVec.and_append]; simp
  · simp (disch := decide) only [fld, Encoding.ext_hi, Encoding.ext_lo, Nat.reduceSub, BitVec.extractLsb'_eq_self]

theorem Encoding.loop (c : BitVec 4) (o : BitVec 20) : Encoding.Statement (.loop c o) := by
  intro x h
  cases h
  refine (Encoding.decode_of 0x9A _ _ ?_ rfl ?_).trans ?_
  · simp (disch := decide) only [fld, Encoding.ext_hi]; rfl
  · show (0x9A#8 ++ c ++ o : Word) &&& (0#8 ++ 0#4 ++ 0#20 : Word) = 0
    simp only [BitVec.and_append]; simp
  · simp (disch := decide) only [fld, Encoding.ext_hi, Encoding.ext_lo, Nat.reduceSub, BitVec.extractLsb'_eq_self]

theorem Encoding.ldl (w : BitVec 1) (d : BitVec 7) (a : BitVec 8) (b : BitVec 8) : Encoding.Statement (.ldl w d a b) := by
  intro x h
  cases h
  refine (Encoding.decode_of 0xA0 _ _ ?_ rfl ?_).trans ?_
  · simp (disch := decide) only [fld, Encoding.ext_hi]; rfl
  · show (0xA0#8 ++ w ++ d ++ a ++ b : Word) &&& (0#8 ++ 0#1 ++ 0#7 ++ 0#8 ++ 0#8 : Word) = 0
    simp only [BitVec.and_append]; simp
  · simp (disch := decide) only [fld, Encoding.ext_hi, Encoding.ext_lo, Nat.reduceSub, BitVec.extractLsb'_eq_self]

theorem Encoding.stl (d : BitVec 7) (a : BitVec 8) (b : BitVec 8) : Encoding.Statement (.stl d a b) := by
  intro x h
  cases h
  refine (Encoding.decode_of 0xA1 _ _ ?_ rfl ?_).trans ?_
  · simp (disch := decide) only [fld, Encoding.ext_hi]; rfl
  · show (0xA1#8 ++ 0#1 ++ d ++ a ++ b : Word) &&& (0#8 ++ 1#1 ++ 0#7 ++ 0#8 ++ 0#8 : Word) = 0
    simp only [BitVec.and_append]; simp
  · simp (disch := decide) only [fld, Encoding.ext_hi, Encoding.ext_lo, Nat.reduceSub, BitVec.extractLsb'_eq_self]

theorem Encoding.lds (w : BitVec 1) (d : BitVec 7) (a : BitVec 8) (b : BitVec 8) : Encoding.Statement (.lds w d a b) := by
  intro x h
  cases h
  refine (Encoding.decode_of 0xA2 _ _ ?_ rfl ?_).trans ?_
  · simp (disch := decide) only [fld, Encoding.ext_hi]; rfl
  · show (0xA2#8 ++ w ++ d ++ a ++ b : Word) &&& (0#8 ++ 0#1 ++ 0#7 ++ 0#8 ++ 0#8 : Word) = 0
    simp only [BitVec.and_append]; simp
  · simp (disch := decide) only [fld, Encoding.ext_hi, Encoding.ext_lo, Nat.reduceSub, BitVec.extractLsb'_eq_self]

theorem Encoding.sts (d : BitVec 7) (a : BitVec 8) (b : BitVec 8) : Encoding.Statement (.sts d a b) := by
  intro x h
  cases h
  refine (Encoding.decode_of 0xA3 _ _ ?_ rfl ?_).trans ?_
  · simp (disch := decide) only [fld, Encoding.ext_hi]; rfl
  · show (0xA3#8 ++ 0#1 ++ d ++ a ++ b : Word) &&& (0#8 ++ 1#1 ++ 0#7 ++ 0#8 ++ 0#8 : Word) = 0
    simp only [BitVec.and_append]; simp
  · simp (disch := decide) only [fld, Encoding.ext_hi, Encoding.ext_lo, Nat.reduceSub, BitVec.extractLsb'_eq_self]

theorem Encoding.ldc (w : BitVec 1) (d : BitVec 7) (a : BitVec 8) (b : BitVec 8) : Encoding.Statement (.ldc w d a b) := by
  intro x h
  cases h
  refine (Encoding.decode_of 0xA4 _ _ ?_ rfl ?_).trans ?_
  · simp (disch := decide) only [fld, Encoding.ext_hi]; rfl
  · show (0xA4#8 ++ w ++ d ++ a ++ b : Word) &&& (0#8 ++ 0#1 ++ 0#7 ++ 0#8 ++ 0#8 : Word) = 0
    simp only [BitVec.and_append]; simp
  · simp (disch := decide) only [fld, Encoding.ext_hi, Encoding.ext_lo, Nat.reduceSub, BitVec.extractLsb'_eq_self]

theorem Encoding.stc (d : BitVec 7) (a : BitVec 8) (b : BitVec 8) : Encoding.Statement (.stc d a b) := by
  intro x h
  cases h
  refine (Encoding.decode_of 0xA5 _ _ ?_ rfl ?_).trans ?_
  · simp (disch := decide) only [fld, Encoding.ext_hi]; rfl
  · show (0xA5#8 ++ 0#1 ++ d ++ a ++ b : Word) &&& (0#8 ++ 1#1 ++ 0#7 ++ 0#8 ++ 0#8 : Word) = 0
    simp only [BitVec.and_append]; simp
  · simp (disch := decide) only [fld, Encoding.ext_hi, Encoding.ext_lo, Nat.reduceSub, BitVec.extractLsb'_eq_self]

theorem Encoding.ldk (w : BitVec 1) (d : BitVec 7) (a : BitVec 8) (b : BitVec 8) : Encoding.Statement (.ldk w d a b) := by
  intro x h
  cases h
  refine (Encoding.decode_of 0xA6 _ _ ?_ rfl ?_).trans ?_
  · simp (disch := decide) only [fld, Encoding.ext_hi]; rfl
  · show (0xA6#8 ++ w ++ d ++ a ++ b : Word) &&& (0#8 ++ 0#1 ++ 0#7 ++ 0#8 ++ 0#8 : Word) = 0
    simp only [BitVec.and_append]; simp
  · simp (disch := decide) only [fld, Encoding.ext_hi, Encoding.ext_lo, Nat.reduceSub, BitVec.extractLsb'_eq_self]

theorem Encoding.stk (d : BitVec 7) (a : BitVec 8) (b : BitVec 8) : Encoding.Statement (.stk d a b) := by
  intro x h
  cases h
  refine (Encoding.decode_of 0xA7 _ _ ?_ rfl ?_).trans ?_
  · simp (disch := decide) only [fld, Encoding.ext_hi]; rfl
  · show (0xA7#8 ++ 0#1 ++ d ++ a ++ b : Word) &&& (0#8 ++ 1#1 ++ 0#7 ++ 0#8 ++ 0#8 : Word) = 0
    simp only [BitVec.and_append]; simp
  · simp (disch := decide) only [fld, Encoding.ext_hi, Encoding.ext_lo, Nat.reduceSub, BitVec.extractLsb'_eq_self]

theorem Encoding.ldg (w : BitVec 1) (d : BitVec 7) (a : BitVec 8) (b : BitVec 8) : Encoding.Statement (.ldg w d a b) := by
  intro x h
  cases h
  refine (Encoding.decode_of 0xA8 _ _ ?_ rfl ?_).trans ?_
  · simp (disch := decide) only [fld, Encoding.ext_hi]; rfl
  · show (0xA8#8 ++ w ++ d ++ a ++ b : Word) &&& (0#8 ++ 0#1 ++ 0#7 ++ 0#8 ++ 0#8 : Word) = 0
    simp only [BitVec.and_append]; simp
  · simp (disch := decide) only [fld, Encoding.ext_hi, Encoding.ext_lo, Nat.reduceSub, BitVec.extractLsb'_eq_self]

theorem Encoding.stg (d : BitVec 7) (a : BitVec 8) (b : BitVec 8) : Encoding.Statement (.stg d a b) := by
  intro x h
  cases h
  refine (Encoding.decode_of 0xA9 _ _ ?_ rfl ?_).trans ?_
  · simp (disch := decide) only [fld, Encoding.ext_hi]; rfl
  · show (0xA9#8 ++ 0#1 ++ d ++ a ++ b : Word) &&& (0#8 ++ 1#1 ++ 0#7 ++ 0#8 ++ 0#8 : Word) = 0
    simp only [BitVec.and_append]; simp
  · simp (disch := decide) only [fld, Encoding.ext_hi, Encoding.ext_lo, Nat.reduceSub, BitVec.extractLsb'_eq_self]

theorem Encoding.ldgs (w : BitVec 1) (d : BitVec 7) (a : BitVec 8) (b : BitVec 8) : Encoding.Statement (.ldgs w d a b) := by
  intro x h
  cases h
  refine (Encoding.decode_of 0xAA _ _ ?_ rfl ?_).trans ?_
  · simp (disch := decide) only [fld, Encoding.ext_hi]; rfl
  · show (0xAA#8 ++ w ++ d ++ a ++ b : Word) &&& (0#8 ++ 0#1 ++ 0#7 ++ 0#8 ++ 0#8 : Word) = 0
    simp only [BitVec.and_append]; simp
  · simp (disch := decide) only [fld, Encoding.ext_hi, Encoding.ext_lo, Nat.reduceSub, BitVec.extractLsb'_eq_self]

theorem Encoding.stgs (d : BitVec 7) (a : BitVec 8) (b : BitVec 8) : Encoding.Statement (.stgs d a b) := by
  intro x h
  cases h
  refine (Encoding.decode_of 0xAB _ _ ?_ rfl ?_).trans ?_
  · simp (disch := decide) only [fld, Encoding.ext_hi]; rfl
  · show (0xAB#8 ++ 0#1 ++ d ++ a ++ b : Word) &&& (0#8 ++ 1#1 ++ 0#7 ++ 0#8 ++ 0#8 : Word) = 0
    simp only [BitVec.and_append]; simp
  · simp (disch := decide) only [fld, Encoding.ext_hi, Encoding.ext_lo, Nat.reduceSub, BitVec.extractLsb'_eq_self]

theorem Encoding.ldsq (w : BitVec 1) (d : BitVec 7) (a : BitVec 8) (b : BitVec 8) : Encoding.Statement (.ldsq w d a b) := by
  intro x h
  cases h
  refine (Encoding.decode_of 0xAC _ _ ?_ rfl ?_).trans ?_
  · simp (disch := decide) only [fld, Encoding.ext_hi]; rfl
  · show (0xAC#8 ++ w ++ d ++ a ++ b : Word) &&& (0#8 ++ 0#1 ++ 0#7 ++ 0#8 ++ 0#8 : Word) = 0
    simp only [BitVec.and_append]; simp
  · simp (disch := decide) only [fld, Encoding.ext_hi, Encoding.ext_lo, Nat.reduceSub, BitVec.extractLsb'_eq_self]

theorem Encoding.stsq (d : BitVec 7) (a : BitVec 8) (b : BitVec 8) : Encoding.Statement (.stsq d a b) := by
  intro x h
  cases h
  refine (Encoding.decode_of 0xAD _ _ ?_ rfl ?_).trans ?_
  · simp (disch := decide) only [fld, Encoding.ext_hi]; rfl
  · show (0xAD#8 ++ 0#1 ++ d ++ a ++ b : Word) &&& (0#8 ++ 1#1 ++ 0#7 ++ 0#8 ++ 0#8 : Word) = 0
    simp only [BitVec.and_append]; simp
  · simp (disch := decide) only [fld, Encoding.ext_hi, Encoding.ext_lo, Nat.reduceSub, BitVec.extractLsb'_eq_self]

theorem Encoding.ldgq (w : BitVec 1) (d : BitVec 7) (a : BitVec 8) (b : BitVec 8) : Encoding.Statement (.ldgq w d a b) := by
  intro x h
  cases h
  refine (Encoding.decode_of 0xAE _ _ ?_ rfl ?_).trans ?_
  · simp (disch := decide) only [fld, Encoding.ext_hi]; rfl
  · show (0xAE#8 ++ w ++ d ++ a ++ b : Word) &&& (0#8 ++ 0#1 ++ 0#7 ++ 0#8 ++ 0#8 : Word) = 0
    simp only [BitVec.and_append]; simp
  · simp (disch := decide) only [fld, Encoding.ext_hi, Encoding.ext_lo, Nat.reduceSub, BitVec.extractLsb'_eq_self]

theorem Encoding.stgq (d : BitVec 7) (a : BitVec 8) (b : BitVec 8) : Encoding.Statement (.stgq d a b) := by
  intro x h
  cases h
  refine (Encoding.decode_of 0xAF _ _ ?_ rfl ?_).trans ?_
  · simp (disch := decide) only [fld, Encoding.ext_hi]; rfl
  · show (0xAF#8 ++ 0#1 ++ d ++ a ++ b : Word) &&& (0#8 ++ 1#1 ++ 0#7 ++ 0#8 ++ 0#8 : Word) = 0
    simp only [BitVec.and_append]; simp
  · simp (disch := decide) only [fld, Encoding.ext_hi, Encoding.ext_lo, Nat.reduceSub, BitVec.extractLsb'_eq_self]

theorem Encoding.ldga (w : BitVec 1) (d : BitVec 7) (a : BitVec 8) (b : BitVec 8) : Encoding.Statement (.ldga w d a b) := by
  intro x h
  cases h
  refine (Encoding.decode_of 0xB0 _ _ ?_ rfl ?_).trans ?_
  · simp (disch := decide) only [fld, Encoding.ext_hi]; rfl
  · show (0xB0#8 ++ w ++ d ++ a ++ b : Word) &&& (0#8 ++ 0#1 ++ 0#7 ++ 0#8 ++ 0#8 : Word) = 0
    simp only [BitVec.and_append]; simp
  · simp (disch := decide) only [fld, Encoding.ext_hi, Encoding.ext_lo, Nat.reduceSub, BitVec.extractLsb'_eq_self]

theorem Encoding.stgr (d : BitVec 7) (a : BitVec 8) (b : BitVec 8) : Encoding.Statement (.stgr d a b) := by
  intro x h
  cases h
  refine (Encoding.decode_of 0xB1 _ _ ?_ rfl ?_).trans ?_
  · simp (disch := decide) only [fld, Encoding.ext_hi]; rfl
  · show (0xB1#8 ++ 0#1 ++ d ++ a ++ b : Word) &&& (0#8 ++ 1#1 ++ 0#7 ++ 0#8 ++ 0#8 : Word) = 0
    simp only [BitVec.and_append]; simp
  · simp (disch := decide) only [fld, Encoding.ext_hi, Encoding.ext_lo, Nat.reduceSub, BitVec.extractLsb'_eq_self]

theorem Encoding.atsAdd (w : BitVec 1) (d : BitVec 7) (a : BitVec 8) (b : BitVec 8) : Encoding.Statement (.atsAdd w d a b) := by
  intro x h
  cases h
  refine (Encoding.decode_of 0xB2 _ _ ?_ rfl ?_).trans ?_
  · simp (disch := decide) only [fld, Encoding.ext_hi]; rfl
  · show (0xB2#8 ++ w ++ d ++ a ++ b : Word) &&& (0#8 ++ 0#1 ++ 0#7 ++ 0#8 ++ 0#8 : Word) = 0
    simp only [BitVec.and_append]; simp
  · simp (disch := decide) only [fld, Encoding.ext_hi, Encoding.ext_lo, Nat.reduceSub, BitVec.extractLsb'_eq_self]

theorem Encoding.atsMin (w : BitVec 1) (d : BitVec 7) (a : BitVec 8) (b : BitVec 8) : Encoding.Statement (.atsMin w d a b) := by
  intro x h
  cases h
  refine (Encoding.decode_of 0xB3 _ _ ?_ rfl ?_).trans ?_
  · simp (disch := decide) only [fld, Encoding.ext_hi]; rfl
  · show (0xB3#8 ++ w ++ d ++ a ++ b : Word) &&& (0#8 ++ 0#1 ++ 0#7 ++ 0#8 ++ 0#8 : Word) = 0
    simp only [BitVec.and_append]; simp
  · simp (disch := decide) only [fld, Encoding.ext_hi, Encoding.ext_lo, Nat.reduceSub, BitVec.extractLsb'_eq_self]

theorem Encoding.atsMax (w : BitVec 1) (d : BitVec 7) (a : BitVec 8) (b : BitVec 8) : Encoding.Statement (.atsMax w d a b) := by
  intro x h
  cases h
  refine (Encoding.decode_of 0xB4 _ _ ?_ rfl ?_).trans ?_
  · simp (disch := decide) only [fld, Encoding.ext_hi]; rfl
  · show (0xB4#8 ++ w ++ d ++ a ++ b : Word) &&& (0#8 ++ 0#1 ++ 0#7 ++ 0#8 ++ 0#8 : Word) = 0
    simp only [BitVec.and_append]; simp
  · simp (disch := decide) only [fld, Encoding.ext_hi, Encoding.ext_lo, Nat.reduceSub, BitVec.extractLsb'_eq_self]

theorem Encoding.atsAnd (w : BitVec 1) (d : BitVec 7) (a : BitVec 8) (b : BitVec 8) : Encoding.Statement (.atsAnd w d a b) := by
  intro x h
  cases h
  refine (Encoding.decode_of 0xB5 _ _ ?_ rfl ?_).trans ?_
  · simp (disch := decide) only [fld, Encoding.ext_hi]; rfl
  · show (0xB5#8 ++ w ++ d ++ a ++ b : Word) &&& (0#8 ++ 0#1 ++ 0#7 ++ 0#8 ++ 0#8 : Word) = 0
    simp only [BitVec.and_append]; simp
  · simp (disch := decide) only [fld, Encoding.ext_hi, Encoding.ext_lo, Nat.reduceSub, BitVec.extractLsb'_eq_self]

theorem Encoding.atsOr (w : BitVec 1) (d : BitVec 7) (a : BitVec 8) (b : BitVec 8) : Encoding.Statement (.atsOr w d a b) := by
  intro x h
  cases h
  refine (Encoding.decode_of 0xB6 _ _ ?_ rfl ?_).trans ?_
  · simp (disch := decide) only [fld, Encoding.ext_hi]; rfl
  · show (0xB6#8 ++ w ++ d ++ a ++ b : Word) &&& (0#8 ++ 0#1 ++ 0#7 ++ 0#8 ++ 0#8 : Word) = 0
    simp only [BitVec.and_append]; simp
  · simp (disch := decide) only [fld, Encoding.ext_hi, Encoding.ext_lo, Nat.reduceSub, BitVec.extractLsb'_eq_self]

theorem Encoding.atsXor (w : BitVec 1) (d : BitVec 7) (a : BitVec 8) (b : BitVec 8) : Encoding.Statement (.atsXor w d a b) := by
  intro x h
  cases h
  refine (Encoding.decode_of 0xB7 _ _ ?_ rfl ?_).trans ?_
  · simp (disch := decide) only [fld, Encoding.ext_hi]; rfl
  · show (0xB7#8 ++ w ++ d ++ a ++ b : Word) &&& (0#8 ++ 0#1 ++ 0#7 ++ 0#8 ++ 0#8 : Word) = 0
    simp only [BitVec.and_append]; simp
  · simp (disch := decide) only [fld, Encoding.ext_hi, Encoding.ext_lo, Nat.reduceSub, BitVec.extractLsb'_eq_self]

theorem Encoding.atsXch (w : BitVec 1) (d : BitVec 7) (a : BitVec 8) (b : BitVec 8) : Encoding.Statement (.atsXch w d a b) := by
  intro x h
  cases h
  refine (Encoding.decode_of 0xB8 _ _ ?_ rfl ?_).trans ?_
  · simp (disch := decide) only [fld, Encoding.ext_hi]; rfl
  · show (0xB8#8 ++ w ++ d ++ a ++ b : Word) &&& (0#8 ++ 0#1 ++ 0#7 ++ 0#8 ++ 0#8 : Word) = 0
    simp only [BitVec.and_append]; simp
  · simp (disch := decide) only [fld, Encoding.ext_hi, Encoding.ext_lo, Nat.reduceSub, BitVec.extractLsb'_eq_self]

theorem Encoding.atsCas (w : BitVec 1) (d : BitVec 7) (a : BitVec 8) (b : BitVec 8) : Encoding.Statement (.atsCas w d a b) := by
  intro x h
  cases h
  refine (Encoding.decode_of 0xB9 _ _ ?_ rfl ?_).trans ?_
  · simp (disch := decide) only [fld, Encoding.ext_hi]; rfl
  · show (0xB9#8 ++ w ++ d ++ a ++ b : Word) &&& (0#8 ++ 0#1 ++ 0#7 ++ 0#8 ++ 0#8 : Word) = 0
    simp only [BitVec.and_append]; simp
  · simp (disch := decide) only [fld, Encoding.ext_hi, Encoding.ext_lo, Nat.reduceSub, BitVec.extractLsb'_eq_self]

theorem Encoding.atgAdd (w : BitVec 1) (d : BitVec 7) (a : BitVec 8) (b : BitVec 8) : Encoding.Statement (.atgAdd w d a b) := by
  intro x h
  cases h
  refine (Encoding.decode_of 0xBA _ _ ?_ rfl ?_).trans ?_
  · simp (disch := decide) only [fld, Encoding.ext_hi]; rfl
  · show (0xBA#8 ++ w ++ d ++ a ++ b : Word) &&& (0#8 ++ 0#1 ++ 0#7 ++ 0#8 ++ 0#8 : Word) = 0
    simp only [BitVec.and_append]; simp
  · simp (disch := decide) only [fld, Encoding.ext_hi, Encoding.ext_lo, Nat.reduceSub, BitVec.extractLsb'_eq_self]

theorem Encoding.atgMin (w : BitVec 1) (d : BitVec 7) (a : BitVec 8) (b : BitVec 8) : Encoding.Statement (.atgMin w d a b) := by
  intro x h
  cases h
  refine (Encoding.decode_of 0xBB _ _ ?_ rfl ?_).trans ?_
  · simp (disch := decide) only [fld, Encoding.ext_hi]; rfl
  · show (0xBB#8 ++ w ++ d ++ a ++ b : Word) &&& (0#8 ++ 0#1 ++ 0#7 ++ 0#8 ++ 0#8 : Word) = 0
    simp only [BitVec.and_append]; simp
  · simp (disch := decide) only [fld, Encoding.ext_hi, Encoding.ext_lo, Nat.reduceSub, BitVec.extractLsb'_eq_self]

theorem Encoding.atgMax (w : BitVec 1) (d : BitVec 7) (a : BitVec 8) (b : BitVec 8) : Encoding.Statement (.atgMax w d a b) := by
  intro x h
  cases h
  refine (Encoding.decode_of 0xBC _ _ ?_ rfl ?_).trans ?_
  · simp (disch := decide) only [fld, Encoding.ext_hi]; rfl
  · show (0xBC#8 ++ w ++ d ++ a ++ b : Word) &&& (0#8 ++ 0#1 ++ 0#7 ++ 0#8 ++ 0#8 : Word) = 0
    simp only [BitVec.and_append]; simp
  · simp (disch := decide) only [fld, Encoding.ext_hi, Encoding.ext_lo, Nat.reduceSub, BitVec.extractLsb'_eq_self]

theorem Encoding.atgAnd (w : BitVec 1) (d : BitVec 7) (a : BitVec 8) (b : BitVec 8) : Encoding.Statement (.atgAnd w d a b) := by
  intro x h
  cases h
  refine (Encoding.decode_of 0xBD _ _ ?_ rfl ?_).trans ?_
  · simp (disch := decide) only [fld, Encoding.ext_hi]; rfl
  · show (0xBD#8 ++ w ++ d ++ a ++ b : Word) &&& (0#8 ++ 0#1 ++ 0#7 ++ 0#8 ++ 0#8 : Word) = 0
    simp only [BitVec.and_append]; simp
  · simp (disch := decide) only [fld, Encoding.ext_hi, Encoding.ext_lo, Nat.reduceSub, BitVec.extractLsb'_eq_self]

theorem Encoding.atgOr (w : BitVec 1) (d : BitVec 7) (a : BitVec 8) (b : BitVec 8) : Encoding.Statement (.atgOr w d a b) := by
  intro x h
  cases h
  refine (Encoding.decode_of 0xBE _ _ ?_ rfl ?_).trans ?_
  · simp (disch := decide) only [fld, Encoding.ext_hi]; rfl
  · show (0xBE#8 ++ w ++ d ++ a ++ b : Word) &&& (0#8 ++ 0#1 ++ 0#7 ++ 0#8 ++ 0#8 : Word) = 0
    simp only [BitVec.and_append]; simp
  · simp (disch := decide) only [fld, Encoding.ext_hi, Encoding.ext_lo, Nat.reduceSub, BitVec.extractLsb'_eq_self]

theorem Encoding.atgXor (w : BitVec 1) (d : BitVec 7) (a : BitVec 8) (b : BitVec 8) : Encoding.Statement (.atgXor w d a b) := by
  intro x h
  cases h
  refine (Encoding.decode_of 0xBF _ _ ?_ rfl ?_).trans ?_
  · simp (disch := decide) only [fld, Encoding.ext_hi]; rfl
  · show (0xBF#8 ++ w ++ d ++ a ++ b : Word) &&& (0#8 ++ 0#1 ++ 0#7 ++ 0#8 ++ 0#8 : Word) = 0
    simp only [BitVec.and_append]; simp
  · simp (disch := decide) only [fld, Encoding.ext_hi, Encoding.ext_lo, Nat.reduceSub, BitVec.extractLsb'_eq_self]

theorem Encoding.atgXch (w : BitVec 1) (d : BitVec 7) (a : BitVec 8) (b : BitVec 8) : Encoding.Statement (.atgXch w d a b) := by
  intro x h
  cases h
  refine (Encoding.decode_of 0xC0 _ _ ?_ rfl ?_).trans ?_
  · simp (disch := decide) only [fld, Encoding.ext_hi]; rfl
  · show (0xC0#8 ++ w ++ d ++ a ++ b : Word) &&& (0#8 ++ 0#1 ++ 0#7 ++ 0#8 ++ 0#8 : Word) = 0
    simp only [BitVec.and_append]; simp
  · simp (disch := decide) only [fld, Encoding.ext_hi, Encoding.ext_lo, Nat.reduceSub, BitVec.extractLsb'_eq_self]

theorem Encoding.atgCas (w : BitVec 1) (d : BitVec 7) (a : BitVec 8) (b : BitVec 8) : Encoding.Statement (.atgCas w d a b) := by
  intro x h
  cases h
  refine (Encoding.decode_of 0xC1 _ _ ?_ rfl ?_).trans ?_
  · simp (disch := decide) only [fld, Encoding.ext_hi]; rfl
  · show (0xC1#8 ++ w ++ d ++ a ++ b : Word) &&& (0#8 ++ 0#1 ++ 0#7 ++ 0#8 ++ 0#8 : Word) = 0
    simp only [BitVec.and_append]; simp
  · simp (disch := decide) only [fld, Encoding.ext_hi, Encoding.ext_lo, Nat.reduceSub, BitVec.extractLsb'_eq_self]

theorem Encoding.atcAdd (w : BitVec 1) (d : BitVec 7) (a : BitVec 8) (b : BitVec 8) : Encoding.Statement (.atcAdd w d a b) := by
  intro x h
  cases h
  refine (Encoding.decode_of 0xC2 _ _ ?_ rfl ?_).trans ?_
  · simp (disch := decide) only [fld, Encoding.ext_hi]; rfl
  · show (0xC2#8 ++ w ++ d ++ a ++ b : Word) &&& (0#8 ++ 0#1 ++ 0#7 ++ 0#8 ++ 0#8 : Word) = 0
    simp only [BitVec.and_append]; simp
  · simp (disch := decide) only [fld, Encoding.ext_hi, Encoding.ext_lo, Nat.reduceSub, BitVec.extractLsb'_eq_self]

theorem Encoding.atcCas (w : BitVec 1) (d : BitVec 7) (a : BitVec 8) (b : BitVec 8) : Encoding.Statement (.atcCas w d a b) := by
  intro x h
  cases h
  refine (Encoding.decode_of 0xC3 _ _ ?_ rfl ?_).trans ?_
  · simp (disch := decide) only [fld, Encoding.ext_hi]; rfl
  · show (0xC3#8 ++ w ++ d ++ a ++ b : Word) &&& (0#8 ++ 0#1 ++ 0#7 ++ 0#8 ++ 0#8 : Word) = 0
    simp only [BitVec.and_append]; simp
  · simp (disch := decide) only [fld, Encoding.ext_hi, Encoding.ext_lo, Nat.reduceSub, BitVec.extractLsb'_eq_self]

theorem Encoding.atgsAdd (w : BitVec 1) (d : BitVec 7) (a : BitVec 8) (b : BitVec 8) : Encoding.Statement (.atgsAdd w d a b) := by
  intro x h
  cases h
  refine (Encoding.decode_of 0xC4 _ _ ?_ rfl ?_).trans ?_
  · simp (disch := decide) only [fld, Encoding.ext_hi]; rfl
  · show (0xC4#8 ++ w ++ d ++ a ++ b : Word) &&& (0#8 ++ 0#1 ++ 0#7 ++ 0#8 ++ 0#8 : Word) = 0
    simp only [BitVec.and_append]; simp
  · simp (disch := decide) only [fld, Encoding.ext_hi, Encoding.ext_lo, Nat.reduceSub, BitVec.extractLsb'_eq_self]

theorem Encoding.atgsCas (w : BitVec 1) (d : BitVec 7) (a : BitVec 8) (b : BitVec 8) : Encoding.Statement (.atgsCas w d a b) := by
  intro x h
  cases h
  refine (Encoding.decode_of 0xC5 _ _ ?_ rfl ?_).trans ?_
  · simp (disch := decide) only [fld, Encoding.ext_hi]; rfl
  · show (0xC5#8 ++ w ++ d ++ a ++ b : Word) &&& (0#8 ++ 0#1 ++ 0#7 ++ 0#8 ++ 0#8 : Word) = 0
    simp only [BitVec.and_append]; simp
  · simp (disch := decide) only [fld, Encoding.ext_hi, Encoding.ext_lo, Nat.reduceSub, BitVec.extractLsb'_eq_self]

theorem Encoding.reds (d : BitVec 7) (a : BitVec 8) (b : BitVec 8) : Encoding.Statement (.reds d a b) := by
  intro x h
  cases h
  refine (Encoding.decode_of 0xC6 _ _ ?_ rfl ?_).trans ?_
  · simp (disch := decide) only [fld, Encoding.ext_hi]; rfl
  · show (0xC6#8 ++ 0#1 ++ d ++ a ++ b : Word) &&& (0#8 ++ 1#1 ++ 0#7 ++ 0#8 ++ 0#8 : Word) = 0
    simp only [BitVec.and_append]; simp
  · simp (disch := decide) only [fld, Encoding.ext_hi, Encoding.ext_lo, Nat.reduceSub, BitVec.extractLsb'_eq_self]

theorem Encoding.redg (d : BitVec 7) (a : BitVec 8) (b : BitVec 8) : Encoding.Statement (.redg d a b) := by
  intro x h
  cases h
  refine (Encoding.decode_of 0xC7 _ _ ?_ rfl ?_).trans ?_
  · simp (disch := decide) only [fld, Encoding.ext_hi]; rfl
  · show (0xC7#8 ++ 0#1 ++ d ++ a ++ b : Word) &&& (0#8 ++ 1#1 ++ 0#7 ++ 0#8 ++ 0#8 : Word) = 0
    simp only [BitVec.and_append]; simp
  · simp (disch := decide) only [fld, Encoding.ext_hi, Encoding.ext_lo, Nat.reduceSub, BitVec.extractLsb'_eq_self]

theorem Encoding.fence (k : BitVec 2) (m : BitVec 8) (s : BitVec 4) : Encoding.Statement (.fence k m s) := by
  intro x h
  cases h
  refine (Encoding.decode_of 0xC8 _ _ ?_ rfl ?_).trans ?_
  · simp (disch := decide) only [fld, Encoding.ext_hi]; rfl
  · show (0xC8#8 ++ 0#10 ++ k ++ m ++ s : Word) &&& (0#8 ++ 1023#10 ++ 0#2 ++ 0#8 ++ 0#4 : Word) = 0
    simp only [BitVec.and_append]; simp
  · simp (disch := decide) only [fld, Encoding.ext_hi, Encoding.ext_lo, Nat.reduceSub, BitVec.extractLsb'_eq_self]

theorem Encoding.gath (w : BitVec 1) (d : BitVec 7) (a : BitVec 8) (b : BitVec 8) : Encoding.Statement (.gath w d a b) := by
  intro x h
  cases h
  refine (Encoding.decode_of 0xC9 _ _ ?_ rfl ?_).trans ?_
  · simp (disch := decide) only [fld, Encoding.ext_hi]; rfl
  · show (0xC9#8 ++ w ++ d ++ a ++ b : Word) &&& (0#8 ++ 0#1 ++ 0#7 ++ 0#8 ++ 0#8 : Word) = 0
    simp only [BitVec.and_append]; simp
  · simp (disch := decide) only [fld, Encoding.ext_hi, Encoding.ext_lo, Nat.reduceSub, BitVec.extractLsb'_eq_self]

theorem Encoding.scat (d : BitVec 7) (a : BitVec 8) (b : BitVec 8) : Encoding.Statement (.scat d a b) := by
  intro x h
  cases h
  refine (Encoding.decode_of 0xCA _ _ ?_ rfl ?_).trans ?_
  · simp (disch := decide) only [fld, Encoding.ext_hi]; rfl
  · show (0xCA#8 ++ 0#1 ++ d ++ a ++ b : Word) &&& (0#8 ++ 1#1 ++ 0#7 ++ 0#8 ++ 0#8 : Word) = 0
    simp only [BitVec.and_append]; simp
  · simp (disch := decide) only [fld, Encoding.ext_hi, Encoding.ext_lo, Nat.reduceSub, BitVec.extractLsb'_eq_self]

theorem Encoding.stgc (d : BitVec 7) (a : BitVec 8) (b : BitVec 8) : Encoding.Statement (.stgc d a b) := by
  intro x h
  cases h
  refine (Encoding.decode_of 0xCB _ _ ?_ rfl ?_).trans ?_
  · simp (disch := decide) only [fld, Encoding.ext_hi]; rfl
  · show (0xCB#8 ++ 0#1 ++ d ++ a ++ b : Word) &&& (0#8 ++ 1#1 ++ 0#7 ++ 0#8 ++ 0#8 : Word) = 0
    simp only [BitVec.and_append]; simp
  · simp (disch := decide) only [fld, Encoding.ext_hi, Encoding.ext_lo, Nat.reduceSub, BitVec.extractLsb'_eq_self]

theorem Encoding.ldge (w : BitVec 1) (d : BitVec 7) (a : BitVec 8) (b : BitVec 8) : Encoding.Statement (.ldge w d a b) := by
  intro x h
  cases h
  refine (Encoding.decode_of 0xCC _ _ ?_ rfl ?_).trans ?_
  · simp (disch := decide) only [fld, Encoding.ext_hi]; rfl
  · show (0xCC#8 ++ w ++ d ++ a ++ b : Word) &&& (0#8 ++ 0#1 ++ 0#7 ++ 0#8 ++ 0#8 : Word) = 0
    simp only [BitVec.and_append]; simp
  · simp (disch := decide) only [fld, Encoding.ext_hi, Encoding.ext_lo, Nat.reduceSub, BitVec.extractLsb'_eq_self]

theorem Encoding.pfg (a : BitVec 8) (b : BitVec 8) : Encoding.Statement (.pfg a b) := by
  intro x h
  cases h
  refine (Encoding.decode_of 0xCD _ _ ?_ rfl ?_).trans ?_
  · simp (disch := decide) only [fld, Encoding.ext_hi]; rfl
  · show (0xCD#8 ++ 0#8 ++ a ++ b : Word) &&& (0#8 ++ 255#8 ++ 0#8 ++ 0#8 : Word) = 0
    simp only [BitVec.and_append]; simp
  · simp (disch := decide) only [fld, Encoding.ext_hi, Encoding.ext_lo, Nat.reduceSub, BitVec.extractLsb'_eq_self]

theorem Encoding.cstep (a : BitVec 8) : Encoding.Statement (.cstep a) := by
  intro x h
  cases h
  refine (Encoding.decode_of 0xD0 _ _ ?_ rfl ?_).trans ?_
  · simp (disch := decide) only [fld, Encoding.ext_hi]; rfl
  · show (0xD0#8 ++ 0#8 ++ a ++ 0#8 : Word) &&& (0#8 ++ 255#8 ++ 0#8 ++ 255#8 : Word) = 0
    simp only [BitVec.and_append]; simp
  · simp (disch := decide) only [fld, Encoding.ext_hi, Encoding.ext_lo, Nat.reduceSub, BitVec.extractLsb'_eq_self]

theorem Encoding.cstat (w : BitVec 1) (d : BitVec 7) : Encoding.Statement (.cstat w d) := by
  intro x h
  cases h
  refine (Encoding.decode_of 0xD1 _ _ ?_ rfl ?_).trans ?_
  · simp (disch := decide) only [fld, Encoding.ext_hi]; rfl
  · show (0xD1#8 ++ w ++ d ++ 0#16 : Word) &&& (0#8 ++ 0#1 ++ 0#7 ++ 65535#16 : Word) = 0
    simp only [BitVec.and_append]; simp
  · simp (disch := decide) only [fld, Encoding.ext_hi, Encoding.ext_lo, Nat.reduceSub, BitVec.extractLsb'_eq_self]

theorem Encoding.binit (a : BitVec 8) (b : BitVec 8) : Encoding.Statement (.binit a b) := by
  intro x h
  cases h
  refine (Encoding.decode_of 0xD2 _ _ ?_ rfl ?_).trans ?_
  · simp (disch := decide) only [fld, Encoding.ext_hi]; rfl
  · show (0xD2#8 ++ 0#8 ++ a ++ b : Word) &&& (0#8 ++ 255#8 ++ 0#8 ++ 0#8 : Word) = 0
    simp only [BitVec.and_append]; simp
  · simp (disch := decide) only [fld, Encoding.ext_hi, Encoding.ext_lo, Nat.reduceSub, BitVec.extractLsb'_eq_self]

theorem Encoding.barv (a : BitVec 8) (b : BitVec 8) : Encoding.Statement (.barv a b) := by
  intro x h
  cases h
  refine (Encoding.decode_of 0xD3 _ _ ?_ rfl ?_).trans ?_
  · simp (disch := decide) only [fld, Encoding.ext_hi]; rfl
  · show (0xD3#8 ++ 0#8 ++ a ++ b : Word) &&& (0#8 ++ 255#8 ++ 0#8 ++ 0#8 : Word) = 0
    simp only [BitVec.and_append]; simp
  · simp (disch := decide) only [fld, Encoding.ext_hi, Encoding.ext_lo, Nat.reduceSub, BitVec.extractLsb'_eq_self]

theorem Encoding.bexp (a : BitVec 8) (b : BitVec 8) : Encoding.Statement (.bexp a b) := by
  intro x h
  cases h
  refine (Encoding.decode_of 0xD4 _ _ ?_ rfl ?_).trans ?_
  · simp (disch := decide) only [fld, Encoding.ext_hi]; rfl
  · show (0xD4#8 ++ 0#8 ++ a ++ b : Word) &&& (0#8 ++ 255#8 ++ 0#8 ++ 0#8 : Word) = 0
    simp only [BitVec.and_append]; simp
  · simp (disch := decide) only [fld, Encoding.ext_hi, Encoding.ext_lo, Nat.reduceSub, BitVec.extractLsb'_eq_self]

theorem Encoding.bwait (a : BitVec 8) (b : BitVec 8) : Encoding.Statement (.bwait a b) := by
  intro x h
  cases h
  refine (Encoding.decode_of 0xD5 _ _ ?_ rfl ?_).trans ?_
  · simp (disch := decide) only [fld, Encoding.ext_hi]; rfl
  · show (0xD5#8 ++ 0#8 ++ a ++ b : Word) &&& (0#8 ++ 255#8 ++ 0#8 ++ 0#8 : Word) = 0
    simp only [BitVec.and_append]; simp
  · simp (disch := decide) only [fld, Encoding.ext_hi, Encoding.ext_lo, Nat.reduceSub, BitVec.extractLsb'_eq_self]

theorem Encoding.btest (d : BitVec 3) (a : BitVec 8) (b : BitVec 8) : Encoding.Statement (.btest d a b) := by
  intro x h
  cases h
  refine (Encoding.decode_of 0xD6 _ _ ?_ rfl ?_).trans ?_
  · simp (disch := decide) only [fld, Encoding.ext_hi]; rfl
  · show (0xD6#8 ++ 0#5 ++ d ++ a ++ b : Word) &&& (0#8 ++ 31#5 ++ 0#3 ++ 0#8 ++ 0#8 : Word) = 0
    simp only [BitVec.and_append]; simp
  · simp (disch := decide) only [fld, Encoding.ext_hi, Encoding.ext_lo, Nat.reduceSub, BitVec.extractLsb'_eq_self]

theorem Encoding.binv (a : BitVec 8) (b : BitVec 8) : Encoding.Statement (.binv a b) := by
  intro x h
  cases h
  refine (Encoding.decode_of 0xD7 _ _ ?_ rfl ?_).trans ?_
  · simp (disch := decide) only [fld, Encoding.ext_hi]; rfl
  · show (0xD7#8 ++ 0#8 ++ a ++ b : Word) &&& (0#8 ++ 255#8 ++ 0#8 ++ 0#8 : Word) = 0
    simp only [BitVec.and_append]; simp
  · simp (disch := decide) only [fld, Encoding.ext_hi, Encoding.ext_lo, Nat.reduceSub, BitVec.extractLsb'_eq_self]

theorem Encoding.rrot (a : BitVec 8) (b : BitVec 8) : Encoding.Statement (.rrot a b) := by
  intro x h
  cases h
  refine (Encoding.decode_of 0xD8 _ _ ?_ rfl ?_).trans ?_
  · simp (disch := decide) only [fld, Encoding.ext_hi]; rfl
  · show (0xD8#8 ++ 0#8 ++ a ++ b : Word) &&& (0#8 ++ 255#8 ++ 0#8 ++ 0#8 : Word) = 0
    simp only [BitVec.and_append]; simp
  · simp (disch := decide) only [fld, Encoding.ext_hi, Encoding.ext_lo, Nat.reduceSub, BitVec.extractLsb'_eq_self]

theorem Encoding.sppin (a : BitVec 8) (b : BitVec 8) : Encoding.Statement (.sppin a b) := by
  intro x h
  cases h
  refine (Encoding.decode_of 0xD9 _ _ ?_ rfl ?_).trans ?_
  · simp (disch := decide) only [fld, Encoding.ext_hi]; rfl
  · show (0xD9#8 ++ 0#8 ++ a ++ b : Word) &&& (0#8 ++ 255#8 ++ 0#8 ++ 0#8 : Word) = 0
    simp only [BitVec.and_append]; simp
  · simp (disch := decide) only [fld, Encoding.ext_hi, Encoding.ext_lo, Nat.reduceSub, BitVec.extractLsb'_eq_self]

theorem Encoding.sprel (a : BitVec 8) (b : BitVec 8) : Encoding.Statement (.sprel a b) := by
  intro x h
  cases h
  refine (Encoding.decode_of 0xDA _ _ ?_ rfl ?_).trans ?_
  · simp (disch := decide) only [fld, Encoding.ext_hi]; rfl
  · show (0xDA#8 ++ 0#8 ++ a ++ b : Word) &&& (0#8 ++ 255#8 ++ 0#8 ++ 0#8 : Word) = 0
    simp only [BitVec.and_append]; simp
  · simp (disch := decide) only [fld, Encoding.ext_hi, Encoding.ext_lo, Nat.reduceSub, BitVec.extractLsb'_eq_self]

theorem Encoding.spawn (a : BitVec 8) (b : BitVec 8) : Encoding.Statement (.spawn a b) := by
  intro x h
  cases h
  refine (Encoding.decode_of 0xDB _ _ ?_ rfl ?_).trans ?_
  · simp (disch := decide) only [fld, Encoding.ext_hi]; rfl
  · show (0xDB#8 ++ 0#8 ++ a ++ b : Word) &&& (0#8 ++ 255#8 ++ 0#8 ++ 0#8 : Word) = 0
    simp only [BitVec.and_append]; simp
  · simp (disch := decide) only [fld, Encoding.ext_hi, Encoding.ext_lo, Nat.reduceSub, BitVec.extractLsb'_eq_self]

theorem Encoding.tdep (a : BitVec 8) (b : BitVec 8) : Encoding.Statement (.tdep a b) := by
  intro x h
  cases h
  refine (Encoding.decode_of 0xDC _ _ ?_ rfl ?_).trans ?_
  · simp (disch := decide) only [fld, Encoding.ext_hi]; rfl
  · show (0xDC#8 ++ 0#8 ++ a ++ b : Word) &&& (0#8 ++ 255#8 ++ 0#8 ++ 0#8 : Word) = 0
    simp only [BitVec.and_append]; simp
  · simp (disch := decide) only [fld, Encoding.ext_hi, Encoding.ext_lo, Nat.reduceSub, BitVec.extractLsb'_eq_self]

theorem Encoding.tsig (a : BitVec 8) : Encoding.Statement (.tsig a) := by
  intro x h
  cases h
  refine (Encoding.decode_of 0xDD _ _ ?_ rfl ?_).trans ?_
  · simp (disch := decide) only [fld, Encoding.ext_hi]; rfl
  · show (0xDD#8 ++ 0#8 ++ a ++ 0#8 : Word) &&& (0#8 ++ 255#8 ++ 0#8 ++ 255#8 : Word) = 0
    simp only [BitVec.and_append]; simp
  · simp (disch := decide) only [fld, Encoding.ext_hi, Encoding.ext_lo, Nat.reduceSub, BitVec.extractLsb'_eq_self]

theorem Encoding.post (a : BitVec 8) (k : BitVec 1) (f : BitVec 1) : Encoding.Statement (.post a k f) := by
  intro x h
  cases h
  refine (Encoding.decode_of 0xDE _ _ ?_ rfl ?_).trans ?_
  · simp (disch := decide) only [fld, Encoding.ext_hi]; rfl
  · show (0xDE#8 ++ 0#8 ++ a ++ 0#6 ++ k ++ f : Word) &&& (0#8 ++ 255#8 ++ 0#8 ++ 63#6 ++ 0#1 ++ 0#1 : Word) = 0
    simp only [BitVec.and_append]; simp
  · simp (disch := decide) only [fld, Encoding.ext_hi, Encoding.ext_lo, Nat.reduceSub, BitVec.extractLsb'_eq_self]

theorem Encoding.seal (a : BitVec 8) (k : BitVec 1) : Encoding.Statement (.seal a k) := by
  intro x h
  cases h
  refine (Encoding.decode_of 0xDF _ _ ?_ rfl ?_).trans ?_
  · simp (disch := decide) only [fld, Encoding.ext_hi]; rfl
  · show (0xDF#8 ++ 0#8 ++ a ++ 0#6 ++ k ++ 0#1 : Word) &&& (0#8 ++ 255#8 ++ 0#8 ++ 63#6 ++ 0#1 ++ 1#1 : Word) = 0
    simp only [BitVec.and_append]; simp
  · simp (disch := decide) only [fld, Encoding.ext_hi, Encoding.ext_lo, Nat.reduceSub, BitVec.extractLsb'_eq_self]

theorem Encoding.pmrk (w : BitVec 1) (d : BitVec 7) (a : BitVec 8) (k : BitVec 1) : Encoding.Statement (.pmrk w d a k) := by
  intro x h
  cases h
  refine (Encoding.decode_of 0xE0 _ _ ?_ rfl ?_).trans ?_
  · simp (disch := decide) only [fld, Encoding.ext_hi]; rfl
  · show (0xE0#8 ++ w ++ d ++ a ++ 0#6 ++ k ++ 0#1 : Word) &&& (0#8 ++ 0#1 ++ 0#7 ++ 0#8 ++ 63#6 ++ 0#1 ++ 1#1 : Word) = 0
    simp only [BitVec.and_append]; simp
  · simp (disch := decide) only [fld, Encoding.ext_hi, Encoding.ext_lo, Nat.reduceSub, BitVec.extractLsb'_eq_self]

theorem Encoding.subs (a : BitVec 8) (b : BitVec 8) : Encoding.Statement (.subs a b) := by
  intro x h
  cases h
  refine (Encoding.decode_of 0xE1 _ _ ?_ rfl ?_).trans ?_
  · simp (disch := decide) only [fld, Encoding.ext_hi]; rfl
  · show (0xE1#8 ++ 0#8 ++ a ++ b : Word) &&& (0#8 ++ 255#8 ++ 0#8 ++ 0#8 : Word) = 0
    simp only [BitVec.and_append]; simp
  · simp (disch := decide) only [fld, Encoding.ext_hi, Encoding.ext_lo, Nat.reduceSub, BitVec.extractLsb'_eq_self]

theorem Encoding.settle (a : BitVec 8) (f : BitVec 1) : Encoding.Statement (.settle a f) := by
  intro x h
  cases h
  refine (Encoding.decode_of 0xE2 _ _ ?_ rfl ?_).trans ?_
  · simp (disch := decide) only [fld, Encoding.ext_hi]; rfl
  · show (0xE2#8 ++ 0#8 ++ a ++ 0#7 ++ f : Word) &&& (0#8 ++ 255#8 ++ 0#8 ++ 127#7 ++ 0#1 : Word) = 0
    simp only [BitVec.and_append]; simp
  · simp (disch := decide) only [fld, Encoding.ext_hi, Encoding.ext_lo, Nat.reduceSub, BitVec.extractLsb'_eq_self]

theorem Encoding.lque (a : BitVec 8) : Encoding.Statement (.lque a) := by
  intro x h
  cases h
  refine (Encoding.decode_of 0xE3 _ _ ?_ rfl ?_).trans ?_
  · simp (disch := decide) only [fld, Encoding.ext_hi]; rfl
  · show (0xE3#8 ++ 0#8 ++ a ++ 0#8 : Word) &&& (0#8 ++ 255#8 ++ 0#8 ++ 255#8 : Word) = 0
    simp only [BitVec.and_append]; simp
  · simp (disch := decide) only [fld, Encoding.ext_hi, Encoding.ext_lo, Nat.reduceSub, BitVec.extractLsb'_eq_self]

theorem Encoding.lmma (d : BitVec 7) (a : BitVec 8) (b : BitVec 8) : Encoding.Statement (.lmma d a b) := by
  intro x h
  cases h
  refine (Encoding.decode_of 0xE4 _ _ ?_ rfl ?_).trans ?_
  · simp (disch := decide) only [fld, Encoding.ext_hi]; rfl
  · show (0xE4#8 ++ 0#1 ++ d ++ a ++ b : Word) &&& (0#8 ++ 1#1 ++ 0#7 ++ 0#8 ++ 0#8 : Word) = 0
    simp only [BitVec.and_append]; simp
  · simp (disch := decide) only [fld, Encoding.ext_hi, Encoding.ext_lo, Nat.reduceSub, BitVec.extractLsb'_eq_self]

theorem Encoding.aalloc (a : BitVec 8) : Encoding.Statement (.aalloc a) := by
  intro x h
  cases h
  refine (Encoding.decode_of 0xE5 _ _ ?_ rfl ?_).trans ?_
  · simp (disch := decide) only [fld, Encoding.ext_hi]; rfl
  · show (0xE5#8 ++ 0#8 ++ a ++ 0#8 : Word) &&& (0#8 ++ 255#8 ++ 0#8 ++ 255#8 : Word) = 0
    simp only [BitVec.and_append]; simp
  · simp (disch := decide) only [fld, Encoding.ext_hi, Encoding.ext_lo, Nat.reduceSub, BitVec.extractLsb'_eq_self]

theorem Encoding.afree : Encoding.Statement (.afree) := by
  intro x h
  cases h
  refine (Encoding.decode_of 0xE6 _ _ ?_ rfl ?_).trans ?_
  · simp (disch := decide) only [fld, Encoding.ext_hi]; rfl
  · rfl
  · simp (disch := decide) only [fld, Encoding.ext_hi, Encoding.ext_lo, Nat.reduceSub, BitVec.extractLsb'_eq_self]

theorem Encoding.adrn (w : BitVec 1) (d : BitVec 7) (a : BitVec 8) (b : BitVec 8) : Encoding.Statement (.adrn w d a b) := by
  intro x h
  cases h
  refine (Encoding.decode_of 0xE7 _ _ ?_ rfl ?_).trans ?_
  · simp (disch := decide) only [fld, Encoding.ext_hi]; rfl
  · show (0xE7#8 ++ w ++ d ++ a ++ b : Word) &&& (0#8 ++ 0#1 ++ 0#7 ++ 0#8 ++ 0#8 : Word) = 0
    simp only [BitVec.and_append]; simp
  · simp (disch := decide) only [fld, Encoding.ext_hi, Encoding.ext_lo, Nat.reduceSub, BitVec.extractLsb'_eq_self]

theorem Encoding.afil (a : BitVec 8) (b : BitVec 8) : Encoding.Statement (.afil a b) := by
  intro x h
  cases h
  refine (Encoding.decode_of 0xE8 _ _ ?_ rfl ?_).trans ?_
  · simp (disch := decide) only [fld, Encoding.ext_hi]; rfl
  · show (0xE8#8 ++ 0#8 ++ a ++ b : Word) &&& (0#8 ++ 255#8 ++ 0#8 ++ 0#8 : Word) = 0
    simp only [BitVec.and_append]; simp
  · simp (disch := decide) only [fld, Encoding.ext_hi, Encoding.ext_lo, Nat.reduceSub, BitVec.extractLsb'_eq_self]

theorem Encoding.trace (w : BitVec 1) (d : BitVec 7) (a : BitVec 8) (b : BitVec 8) : Encoding.Statement (.trace w d a b) := by
  intro x h
  cases h
  refine (Encoding.decode_of 0xE9 _ _ ?_ rfl ?_).trans ?_
  · simp (disch := decide) only [fld, Encoding.ext_hi]; rfl
  · show (0xE9#8 ++ w ++ d ++ a ++ b : Word) &&& (0#8 ++ 0#1 ++ 0#7 ++ 0#8 ++ 0#8 : Word) = 0
    simp only [BitVec.and_append]; simp
  · simp (disch := decide) only [fld, Encoding.ext_hi, Encoding.ext_lo, Nat.reduceSub, BitVec.extractLsb'_eq_self]

theorem Encoding.psend (a : BitVec 8) (b : BitVec 8) : Encoding.Statement (.psend a b) := by
  intro x h
  cases h
  refine (Encoding.decode_of 0xEA _ _ ?_ rfl ?_).trans ?_
  · simp (disch := decide) only [fld, Encoding.ext_hi]; rfl
  · show (0xEA#8 ++ 0#8 ++ a ++ b : Word) &&& (0#8 ++ 255#8 ++ 0#8 ++ 0#8 : Word) = 0
    simp only [BitVec.and_append]; simp
  · simp (disch := decide) only [fld, Encoding.ext_hi, Encoding.ext_lo, Nat.reduceSub, BitVec.extractLsb'_eq_self]

theorem Encoding.comp (w : BitVec 1) (d : BitVec 7) (a : BitVec 8) (b : BitVec 8) : Encoding.Statement (.comp w d a b) := by
  intro x h
  cases h
  refine (Encoding.decode_of 0xEB _ _ ?_ rfl ?_).trans ?_
  · simp (disch := decide) only [fld, Encoding.ext_hi]; rfl
  · show (0xEB#8 ++ w ++ d ++ a ++ b : Word) &&& (0#8 ++ 0#1 ++ 0#7 ++ 0#8 ++ 0#8 : Word) = 0
    simp only [BitVec.and_append]; simp
  · simp (disch := decide) only [fld, Encoding.ext_hi, Encoding.ext_lo, Nat.reduceSub, BitVec.extractLsb'_eq_self]

theorem Encoding.trap (i : BitVec 24) : Encoding.Statement (.trap i) := by
  intro x h
  cases h
  refine (Encoding.decode_of 0xF0 _ _ ?_ rfl ?_).trans ?_
  · simp (disch := decide) only [fld, Encoding.ext_hi]; rfl
  · show (0xF0#8 ++ i : Word) &&& (0#8 ++ 0#24 : Word) = 0
    simp only [BitVec.and_append]; simp
  · simp (disch := decide) only [fld, Encoding.ext_hi, Encoding.ext_lo, Nat.reduceSub, BitVec.extractLsb'_eq_self]

theorem Encoding.rte : Encoding.Statement (.rte) := by
  intro x h
  cases h
  refine (Encoding.decode_of 0xF1 _ _ ?_ rfl ?_).trans ?_
  · simp (disch := decide) only [fld, Encoding.ext_hi]; rfl
  · rfl
  · simp (disch := decide) only [fld, Encoding.ext_hi, Encoding.ext_lo, Nat.reduceSub, BitVec.extractLsb'_eq_self]

theorem Encoding.srd (w : BitVec 1) (d : BitVec 7) (s : BitVec 16) : Encoding.Statement (.srd w d s) := by
  intro x h
  cases h
  refine (Encoding.decode_of 0xF2 _ _ ?_ rfl ?_).trans ?_
  · simp (disch := decide) only [fld, Encoding.ext_hi]; rfl
  · show (0xF2#8 ++ w ++ d ++ s : Word) &&& (0#8 ++ 0#1 ++ 0#7 ++ 0#16 : Word) = 0
    simp only [BitVec.and_append]; simp
  · simp (disch := decide) only [fld, Encoding.ext_hi, Encoding.ext_lo, Nat.reduceSub, BitVec.extractLsb'_eq_self]

theorem Encoding.swr (d : BitVec 7) (s : BitVec 16) : Encoding.Statement (.swr d s) := by
  intro x h
  cases h
  refine (Encoding.decode_of 0xF3 _ _ ?_ rfl ?_).trans ?_
  · simp (disch := decide) only [fld, Encoding.ext_hi]; rfl
  · show (0xF3#8 ++ 0#1 ++ d ++ s : Word) &&& (0#8 ++ 1#1 ++ 0#7 ++ 0#16 : Word) = 0
    simp only [BitVec.and_append]; simp
  · simp (disch := decide) only [fld, Encoding.ext_hi, Encoding.ext_lo, Nat.reduceSub, BitVec.extractLsb'_eq_self]

theorem Encoding.mapack (a : BitVec 8) : Encoding.Statement (.mapack a) := by
  intro x h
  cases h
  refine (Encoding.decode_of 0xF4 _ _ ?_ rfl ?_).trans ?_
  · simp (disch := decide) only [fld, Encoding.ext_hi]; rfl
  · show (0xF4#8 ++ 0#8 ++ a ++ 0#8 : Word) &&& (0#8 ++ 255#8 ++ 0#8 ++ 255#8 : Word) = 0
    simp only [BitVec.and_append]; simp
  · simp (disch := decide) only [fld, Encoding.ext_hi, Encoding.ext_lo, Nat.reduceSub, BitVec.extractLsb'_eq_self]

theorem Encoding.icinv : Encoding.Statement (.icinv) := by
  intro x h
  cases h
  refine (Encoding.decode_of 0xF5 _ _ ?_ rfl ?_).trans ?_
  · simp (disch := decide) only [fld, Encoding.ext_hi]; rfl
  · rfl
  · simp (disch := decide) only [fld, Encoding.ext_hi, Encoding.ext_lo, Nat.reduceSub, BitVec.extractLsb'_eq_self]

theorem Encoding.cyc (w : BitVec 1) (d : BitVec 7) : Encoding.Statement (.cyc w d) := by
  intro x h
  cases h
  refine (Encoding.decode_of 0xF6 _ _ ?_ rfl ?_).trans ?_
  · simp (disch := decide) only [fld, Encoding.ext_hi]; rfl
  · show (0xF6#8 ++ w ++ d ++ 0#16 : Word) &&& (0#8 ++ 0#1 ++ 0#7 ++ 65535#16 : Word) = 0
    simp only [BitVec.and_append]; simp
  · simp (disch := decide) only [fld, Encoding.ext_hi, Encoding.ext_lo, Nat.reduceSub, BitVec.extractLsb'_eq_self]

theorem Encoding.pause (a : BitVec 8) : Encoding.Statement (.pause a) := by
  intro x h
  cases h
  refine (Encoding.decode_of 0xF7 _ _ ?_ rfl ?_).trans ?_
  · simp (disch := decide) only [fld, Encoding.ext_hi]; rfl
  · show (0xF7#8 ++ 0#8 ++ a ++ 0#8 : Word) &&& (0#8 ++ 255#8 ++ 0#8 ++ 255#8 : Word) = 0
    simp only [BitVec.and_append]; simp
  · simp (disch := decide) only [fld, Encoding.ext_hi, Encoding.ext_lo, Nat.reduceSub, BitVec.extractLsb'_eq_self]

theorem Encoding.pauseExpiry (p : Nat) : Encoding.Statement (.pauseExpiry p) := by
  intro w h; cases h

theorem Encoding.loadReturn (p : Nat) (k : Nat) : Encoding.Statement (.loadReturn p k) := by
  intro w h; cases h

theorem Encoding.fenceComplete (p : Nat) : Encoding.Statement (.fenceComplete p) := by
  intro w h; cases h

theorem Encoding.mapackAnswer (p : Nat) : Encoding.Statement (.mapackAnswer p) := by
  intro w h; cases h

theorem Encoding.powerOn (verified : Bool) : Encoding.Statement (.powerOn verified) := by
  intro w h; cases h

theorem Encoding.clusterWake : Encoding.Statement (.clusterWake) := by
  intro w h; cases h

theorem Encoding.loomRampStage (core : Nat) : Encoding.Statement (.loomRampStage core) := by
  intro w h; cases h

theorem Encoding.fwcmd : Encoding.Statement (.fwcmd) := by
  intro w h; cases h

theorem Encoding.fwVerifyDone (component : Nat) (complete : Bool) : Encoding.Statement (.fwVerifyDone component complete) := by
  intro w h; cases h

theorem Encoding.attcmd : Encoding.Statement (.attcmd) := by
  intro w h; cases h

theorem Encoding.attestReportDone (images : Nat) : Encoding.Statement (.attestReportDone images) := by
  intro w h; cases h

theorem Encoding.laneSpare (core : Nat) (subpipe : Nat) : Encoding.Statement (.laneSpare core subpipe) := by
  intro w h; cases h

theorem Encoding.coreDrain (core : Nat) : Encoding.Statement (.coreDrain core) := by
  intro w h; cases h

theorem Encoding.coreRetire (core : Nat) : Encoding.Statement (.coreRetire core) := by
  intro w h; cases h

theorem Encoding.channelSpare (stack : Nat) (chan : Nat) : Encoding.Statement (.channelSpare stack chan) := by
  intro w h; cases h

theorem Encoding.channelCopyDone (stack : Nat) (chan : Nat) : Encoding.Statement (.channelCopyDone stack chan) := by
  intro w h; cases h

theorem Encoding.linkLaneFailure (link : Nat) (lane : Nat) : Encoding.Statement (.linkLaneFailure link lane) := by
  intro w h; cases h

theorem Encoding.linkRetrainDone (link : Nat) (ok : Bool) : Encoding.Statement (.linkRetrainDone link ok) := by
  intro w h; cases h

theorem Encoding.l2Way (slice : Nat) (way : Nat) : Encoding.Statement (.l2Way slice way) := by
  intro w h; cases h

theorem Encoding.portDown (port : Nat) : Encoding.Statement (.portDown port) := by
  intro w h; cases h

theorem Encoding.islandRetire (island : Nat) : Encoding.Statement (.islandRetire island) := by
  intro w h; cases h

theorem Encoding.mapchgDelivery (p : Nat) : Encoding.Statement (.mapchgDelivery p) := by
  intro w h; cases h

theorem Encoding.deferredFaultDelivery (p : Nat) : Encoding.Statement (.deferredFaultDelivery p) := by
  intro w h; cases h

theorem Encoding.graceExpiry (part : Nat) (ctx : Nat) : Encoding.Statement (.graceExpiry part ctx) := by
  intro w h; cases h

theorem Encoding.hostack (part : Nat) (ctx : Nat) (v : BitVec 32) : Encoding.Statement (.hostack part ctx v) := by
  intro w h; cases h

theorem Encoding.timeoutUnknown (id : Nat) : Encoding.Statement (.timeoutUnknown id) := by
  intro w h; cases h

theorem Encoding.remoteResponse (link : Nat) (tag : Nat) (gen : Nat) (code : BitVec 8) (data : BitVec 512) : Encoding.Statement (.remoteResponse link tag gen code data) := by
  intro w h; cases h

theorem Encoding.orderedFlagRelease (id : Nat) : Encoding.Statement (.orderedFlagRelease id) := by
  intro w h; cases h

theorem Encoding.flitReceive (link : Nat) (slot : Nat) (counter : BitVec 40) (authentic : Bool) (franking : Bool) (nak : Bool) (seq : Nat) (acked : Nat) : Encoding.Statement (.flitReceive link slot counter authentic franking nak seq acked) := by
  intro w h; cases h

theorem Encoding.flitNak (link : Nat) (seq : Nat) : Encoding.Statement (.flitNak link seq) := by
  intro w h; cases h

theorem Encoding.keyLoad (link : Nat) (slot : Nat) : Encoding.Statement (.keyLoad link slot) := by
  intro w h; cases h

theorem Encoding.keySwitch (link : Nat) (slot : Nat) : Encoding.Statement (.keySwitch link slot) := by
  intro w h; cases h

theorem Encoding.frankingAck (link : Nat) : Encoding.Statement (.frankingAck link) := by
  intro w h; cases h

theorem Encoding.uudPacketDrop : Encoding.Statement (.uudPacketDrop) := by
  intro w h; cases h

theorem Encoding.compositingPassStart (job : Nat) : Encoding.Statement (.compositingPassStart job) := by
  intro w h; cases h

theorem Encoding.compositingTileArrival (job : Nat) (sender : Nat) (pass : Nat) (round : Nat) (tile : Nat) (allSealed : Bool) (digest : BitVec 64) (bytes : List (BitVec 8)) : Encoding.Statement (.compositingTileArrival job sender pass round tile allSealed digest bytes) := by
  intro w h; cases h

theorem Encoding.peerTimeout (job : Nat) : Encoding.Statement (.peerTimeout job) := by
  intro w h; cases h

theorem Encoding.reductionExchange (coll : Nat) (others : List (Nat × List (BitVec 32 × BitVec 32))) : Encoding.Statement (.reductionExchange coll others) := by
  intro w h; cases h

theorem Encoding.collectiveSetup : Encoding.Statement (.collectiveSetup) := by
  intro w h; cases h

theorem Encoding.collectiveSetupDone (agreed : Bool) (plain : Option Bool) : Encoding.Statement (.collectiveSetupDone agreed plain) := by
  intro w h; cases h

theorem Encoding.collectiveTeardown : Encoding.Statement (.collectiveTeardown) := by
  intro w h; cases h

theorem Encoding.collectiveTeardownDone : Encoding.Statement (.collectiveTeardownDone) := by
  intro w h; cases h

theorem Encoding.parcelArrival (part : Nat) (ctx : Nat) (sender : Nat) (parcel : BitVec 512) : Encoding.Statement (.parcelArrival part ctx sender parcel) := by
  intro w h; cases h

theorem Encoding.receiveSlotGrant (dest : Nat) (slots : Nat) (fresh : Bool) : Encoding.Statement (.receiveSlotGrant dest slots fresh) := by
  intro w h; cases h

theorem Encoding.preg (part : Nat) (ctx : Nat) (v : BitVec 64) : Encoding.Statement (.preg part ctx v) := by
  intro w h; cases h

theorem Encoding.pregWithdrawDone (part : Nat) (ctx : Nat) : Encoding.Statement (.pregWithdrawDone part ctx) := by
  intro w h; cases h

theorem Encoding.borrowGatherResponse (id : Nat) (postmark : BitVec 32) (unwatched : Bool) (line : BitVec 2048) : Encoding.Statement (.borrowGatherResponse id postmark unwatched line) := by
  intro w h; cases h

theorem Encoding.borrowGatherTimeout (id : Nat) : Encoding.Statement (.borrowGatherTimeout id) := by
  intro w h; cases h

theorem Encoding.postmarkNotice (source : Nat) (header : BitVec 64) (postmark : BitVec 32) : Encoding.Statement (.postmarkNotice source header postmark) := by
  intro w h; cases h

theorem Encoding.noticeAck (header : Nat) (borrower : Nat) : Encoding.Statement (.noticeAck header borrower) := by
  intro w h; cases h

theorem Encoding.noticeTimeout (header : Nat) (borrower : Nat) : Encoding.Statement (.noticeTimeout header borrower) := by
  intro w h; cases h

theorem Encoding.tail (part : Nat) (queue : Nat) (v : BitVec 32) : Encoding.Statement (.tail part queue v) := by
  intro w h; cases h

theorem Encoding.launchRecordFetch (part : Nat) (queue : Nat) : Encoding.Statement (.launchRecordFetch part queue) := by
  intro w h; cases h

theorem Encoding.kill (part : Nat) (queue : Nat) (index : BitVec 32) : Encoding.Statement (.kill part queue index) := by
  intro w h; cases h

theorem Encoding.launchComplete (launch : Nat) : Encoding.Statement (.launchComplete launch) := by
  intro w h; cases h

theorem Encoding.gangPlace (source : Nat) (isDocket : Bool) : Encoding.Statement (.gangPlace source isDocket) := by
  intro w h; cases h

theorem Encoding.gangPreempt (gang : Nat) : Encoding.Statement (.gangPreempt gang) := by
  intro w h; cases h

theorem Encoding.gangMigrate (gang : Nat) (cluster : Nat) (pos : Nat) : Encoding.Statement (.gangMigrate gang cluster pos) := by
  intro w h; cases h

theorem Encoding.gangResume (gang : Nat) : Encoding.Statement (.gangResume gang) := by
  intro w h; cases h

theorem Encoding.sysreply (part : Nat) (ctx : Nat) (seq : BitVec 32) (value : BitVec 32) : Encoding.Statement (.sysreply part ctx seq value) := by
  intro w h; cases h

theorem Encoding.systail (part : Nat) (ctx : Nat) (v : BitVec 32) : Encoding.Statement (.systail part ctx v) := by
  intro w h; cases h

theorem Encoding.resclr (part : Nat) (ctx : Nat) : Encoding.Statement (.resclr part ctx) := by
  intro w h; cases h

theorem Encoding.swapOut (part : Nat) (ctx : Nat) : Encoding.Statement (.swapOut part ctx) := by
  intro w h; cases h

theorem Encoding.swapIn (part : Nat) (ctx : Nat) : Encoding.Statement (.swapIn part ctx) := by
  intro w h; cases h

theorem Encoding.swapDone (part : Nat) (ctx : Nat) : Encoding.Statement (.swapDone part ctx) := by
  intro w h; cases h

theorem Encoding.halt (part : Nat) (ctx : Nat) : Encoding.Statement (.halt part ctx) := by
  intro w h; cases h

theorem Encoding.resume (part : Nat) (ctx : Nat) : Encoding.Statement (.resume part ctx) := by
  intro w h; cases h

theorem Encoding.read (part : Nat) (ctx : Nat) : Encoding.Statement (.read part ctx) := by
  intro w h; cases h

theorem Encoding.write (part : Nat) (ctx : Nat) : Encoding.Statement (.write part ctx) := by
  intro w h; cases h

theorem Encoding.force (part : Nat) (ctx : Nat) : Encoding.Statement (.force part ctx) := by
  intro w h; cases h

theorem Encoding.step (part : Nat) (ctx : Nat) : Encoding.Statement (.step part ctx) := by
  intro w h; cases h

theorem Encoding.partitionEn (part : Nat) (en : Bool) : Encoding.Statement (.partitionEn part en) := by
  intro w h; cases h

theorem Encoding.vfEnableChange (enable : Bool) (numVfs : Nat) : Encoding.Statement (.vfEnableChange enable numVfs) := by
  intro w h; cases h

theorem Encoding.phmask (part : Nat) (die : Nat) (mask : BitVec 64) : Encoding.Statement (.phmask part die mask) := by
  intro w h; cases h

theorem Encoding.invalidatePage (part : Nat) : Encoding.Statement (.invalidatePage part) := by
  intro w h; cases h

theorem Encoding.invalidateAll (part : Nat) : Encoding.Statement (.invalidateAll part) := by
  intro w h; cases h

theorem Encoding.invalidationDone (part : Nat) : Encoding.Statement (.invalidationDone part) := by
  intro w h; cases h

theorem Encoding.sealgrp (part : Nat) (ctx : Nat) (v : BitVec 32) : Encoding.Statement (.sealgrp part ctx v) := by
  intro w h; cases h

theorem Encoding.pigeonholeTail (fn : Nat) (hole : Nat) (v : BitVec 32) : Encoding.Statement (.pigeonholeTail fn hole v) := by
  intro w h; cases h

theorem Encoding.apertureHostWrite (part : Nat) (ctx : Nat) (n : Nat) (v : BitVec 64) : Encoding.Statement (.apertureHostWrite part ctx n v) := by
  intro w h; cases h

theorem Encoding.registerWrite (fn : Nat) (offset : Nat) (v : BitVec 64) : Encoding.Statement (.registerWrite fn offset v) := by
  intro w h; cases h

theorem Encoding.sideLogRetry (core : Nat) : Encoding.Statement (.sideLogRetry core) := by
  intro w h; cases h

theorem Encoding.courierRetry (gang : Nat) : Encoding.Statement (.courierRetry gang) := by
  intro w h; cases h

theorem Encoding.docketSlotRetry (hole : Nat) : Encoding.Statement (.docketSlotRetry hole) := by
  intro w h; cases h

theorem Encoding.docketAccept (hole : Nat) : Encoding.Statement (.docketAccept hole) := by
  intro w h; cases h

theorem Encoding.docketIssue (die : Nat) (kind : Nat) (engine : Nat) : Encoding.Statement (.docketIssue die kind engine) := by
  intro w h; cases h

theorem Encoding.runComplete (docket : Nat) : Encoding.Statement (.runComplete docket) := by
  intro w h; cases h

theorem Encoding.pagerTransferDone (wg : Nat) (page : Nat) : Encoding.Statement (.pagerTransferDone wg page) := by
  intro w h; cases h

theorem Encoding.courierInstanceDone (gang : Nat) (inst : Nat) : Encoding.Statement (.courierInstanceDone gang inst) := by
  intro w h; cases h

theorem Encoding.mma (core : Nat) : Encoding.Statement (.mma core) := by
  intro w h; cases h

theorem Encoding.mmaz (core : Nat) : Encoding.Statement (.mmaz core) := by
  intro w h; cases h

theorem Encoding.drain (core : Nat) : Encoding.Statement (.drain core) := by
  intro w h; cases h

theorem Encoding.endList (core : Nat) : Encoding.Statement (.endList core) := by
  intro w h; cases h

theorem Encoding.loomRingPhase (core : Nat) : Encoding.Statement (.loomRingPhase core) := by
  intro w h; cases h

theorem Encoding.sduDone (docket : Nat) : Encoding.Statement (.sduDone docket) := by
  intro w h; cases h

theorem Encoding.traceDone (gang : Nat) (trace : Nat) : Encoding.Statement (.traceDone gang trace) := by
  intro w h; cases h

theorem Encoding.scoreHalving (core : Nat) : Encoding.Statement (.scoreHalving core) := by
  intro w h; cases h

theorem Encoding.borrowGatherRequest (borrower : Nat) (part : Nat) (ia : BitVec 64) (header : BitVec 64) : Encoding.Statement (.borrowGatherRequest borrower part ia header) := by
  intro w h; cases h

theorem Encoding.retrainingDone (link : Nat) : Encoding.Statement (.retrainingDone link) := by
  intro w h; cases h

theorem Encoding.portDisable (port : Nat) : Encoding.Statement (.portDisable port) := by
  intro w h; cases h

theorem Encoding.grantRevocation (dest : Nat) : Encoding.Statement (.grantRevocation dest) := by
  intro w h; cases h

end Sys2Proof.Laws
end

