-- ==== Sys2Proof/Tests/Slice0.lean ====
section
/-! SUPPORT. Tests: words of every opcode family, ill-formed terms, worked examples of the spec, and for every statement a state
and operands that meet its premises. -/

namespace Sys2Proof.Tests

open Sys2Proof Sys2Proof.Machine Sys2Proof.Claims

set_option maxRecDepth 30000

/-! ### Helpers -/

/-- The machine with one group running at 0x1000 under a gm, its path and group changed. -/
def bench (gm : BitVec 32) (fp : Path → Path := id) (fg : Group → Group := id) : State :=
  let s := State.reset.withProgram
  match s.run? with
  | none => s
  | some r => (s.putPath r.key (fp { r.path with gm := gm })).putGroup r.gk (fg r.group)

/-- Lane 0's v registers. -/
def lane0 (l : List (Nat × BitVec 32)) (g : Group) : Group := { g with v := CMap.setMany g.v (l.map fun x => (32 * x.1, x.2)) }

/-- A v register in all lanes. -/
def lanesV (n : Nat) (f : Nat → BitVec 32) (g : Group) : Group :=
  { g with v := CMap.setMany g.v ((List.range 32).map fun L => (32 * n + L, f L)) }

/-- Scalar registers. -/
def scal (l : List (Nat × BitVec 32)) (g : Group) : Group := { g with s := CMap.setMany g.s l }

/-- A path in handler mode. -/
def inHandler (p : Path) : Path := { p with inH := true, hmask := p.mask, smask := p.mask, hmode := 2, hpc := 0x1000 }

/-- The page at address 0 cached by the memory side: 2 MiB, readable and writable, mapped to itself. -/
def warm (s : State) : State := { s with tlb := [(tlbKey 0 0, 0x1000000F)] }

/-- Context 0 with a handler at 0x1000. -/
def handled (s : State) : State := s.putCtx 0 0 { s.ctx 0 0 with hentry := 0x1000 }

/-- The package's record changed. -/
def mgd (f : Mgmt → Mgmt) (s : State) : State := { s with mgmt := f s.mgmt }

/-- Partition 0 with a pool of 16 frames for scratch. -/
def funded (s : State) : State := s.putPart 0 { s.part 0 with sbnext := 16, sbsize := 16 }

/-- The package started, all clusters awake. -/
def awoken (s : State) : State := funded (mgd (fun m => { m with started := true, awake := 24 }) s)

/-- The outcome is a next state whose executing path passes a test. -/
def sees (o : Out) (P : State → Run → Bool) : Bool :=
  match o with
  | .next t => (t.run?).any (P t)
  | _ => false

/-- The outcome is a next state that passes a test. -/
def gives (o : Out) (P : State → Bool) : Bool :=
  match o with
  | .next t => P t
  | _ => false

/-- A path executes, and it meets a condition. -/
def The (s : State) (P : Run → Prop) : Prop := ∃ r, Executing s r ∧ P r

theorem the_of {s : State} {P : Run → Prop} [DecidablePred P] (h : s.run?.any (fun r => decide (P r)) = true) : The s P := by
  unfold The Executing
  cases hr : s.run? with
  | none => simp [hr] at h
  | some r => exact ⟨r, rfl, by simpa [hr] using h⟩

/-- `Runs` as a test. -/
def runs (r : Run) (i : Instr) : Bool := (classOf i).any fun c => c.legal r i && c.dead r i == 0

theorem runs_sound {r : Run} {i : Instr} (h : runs r i = true) : Runs r i := by
  unfold runs at h
  cases hc : classOf i with
  | none => simp [hc] at h
  | some c => simp [hc] at h; exact ⟨c, hc, h.1, h.2⟩

theorem all_run {s : State} {l : List Instr} {Q : Instr → Bool} (h : s.run?.any (fun r => l.all fun i => runs r i && Q i) = true) :
    The s fun r => ∀ i ∈ l, Runs r i ∧ Q i = true := by
  unfold The Executing
  cases hr : s.run? with
  | none => simp [hr] at h
  | some r =>
    simp [hr] at h
    exact ⟨r, rfl, fun i hi => ⟨runs_sound (h i hi).1, (h i hi).2⟩⟩

/-- `Quiet` as a test. -/
abbrev quiet (s : State) : Prop := s.reqs = [] ∧ s.sidelog = [] ∧ ∀ x ∈ s.selv.colls, x.2.held = []

theorem The.imp {s : State} {P Q : Run → Prop} (h : The s P) (k : ∀ r, P r → Q r) : The s Q := by
  obtain ⟨r, e, p⟩ := h; exact ⟨r, e, k r p⟩

/-- Scratch page 0 of workgroup 0 resident, its first words tagged or not. -/
def scratch0 (tags : CMap 1) (s : State) : State :=
  match s.run? with
  | none => s
  | some r => s.putWg r.wk { r.wg with pages := [(0, 1)], tags := tags }

/-- `Cached` as a test. -/
def cached (s : State) (r : Run) (nd : Need) (ea : BitVec 64) (n pa : Nat) (e : BitVec 128) : Bool :=
  decide (ea.toNat < 2 ^ 57 ∧ 0 < n ∧ ea.toNat % 65536 + n ≤ 65536) &&
    match aperFind r.path.aper ea.toNat with
    | some (0, _, ia) => (FMap.get? s.tlb (tlbKey r.gang.part ia)).any fun c =>
        leafOut s.mgmt (c &&& ~~~0x10000000) (c.getLsbD 28) ia nd == .ok pa e (c.getLsbD 28)
    | _ => false

theorem cached_sound {s : State} {r : Run} {nd : Need} {ea : BitVec 64} {n pa : Nat} {e : BitVec 128}
    (h : cached s r nd ea n pa e = true) : Cached s r nd ea n pa e := by
  unfold cached at h
  rw [Bool.and_eq_true] at h
  obtain ⟨h1, h2⟩ := h
  have h1 := of_decide_eq_true h1
  split at h2
  · rename_i g ia ha
    cases hc : FMap.get? s.tlb (tlbKey r.gang.part ia) with
    | none => simp [hc] at h2
    | some c => simp [hc] at h2; exact ⟨h1.1, h1.2.1, h1.2.2, g, ia, c, ha, hc, h2⟩
  · exact absurd h2 (by simp)

/-! ### Words -/

/-- The words of the basic opcodes, each the table's pattern with these fields in its places. -/
theorem test_decode_basic :
    (decode 0x00000000).toOption = some (.nop) ∧
    (decode 0x0101945E).toOption = some (.mode 0x1945E) ∧
    (decode 0x020000F1).toOption = some (.mshape 0x3 0x31) ∧
    (decode 0x03E95B91).toOption = some (.lit 0xE95B91) ∧
    (decode 0x0400B8E9).toOption = some (.lith 0xB8E9) ∧
    (decode 0x05780200).toOption = some (.mov 0x0 0x78 0x2) ∧
    (decode 0x06320A00).toOption = some (.movs 0x0 0x32 0xA) ∧
    (decode 0x075EA40A).toOption = some (.sel 0x0 0x5E 0xA4 0xA) := by decide

/-- The words of the integer opcodes, each the table's pattern with these fields in its places. -/
theorem test_decode_integer :
    (decode 0x1042A088).toOption = some (.add 0x0 0x42 0xA0 0x88) ∧
    (decode 0x112EA006).toOption = some (.sub 0x0 0x2E 0xA0 0x6) ∧
    (decode 0x124AA006).toOption = some (.mul 0x0 0x4A 0xA0 0x6) ∧
    (decode 0x131C880A).toOption = some (.mulh 0x0 0x1C 0x88 0xA) ∧
    (decode 0x146C880A).toOption = some (.mad 0x0 0x6C 0x88 0xA) ∧
    (decode 0x150CA084).toOption = some (.min 0x0 0xC 0xA0 0x84) ∧
    (decode 0x166A0602).toOption = some (.max 0x0 0x6A 0x6 0x2) ∧
    (decode 0x17708800).toOption = some (.abs 0x0 0x70 0x88) ∧
    (decode 0x18780A00).toOption = some (.neg 0x0 0x78 0xA) ∧
    (decode 0x19108888).toOption = some (.and 0x0 0x10 0x88 0x88) ∧
    (decode 0x1A34A4A4).toOption = some (.or 0x0 0x34 0xA4 0xA4) ∧
    (decode 0x1B660684).toOption = some (.xor 0x0 0x66 0x6 0x84) ∧
    (decode 0x1C3284A0).toOption = some (.andn 0x0 0x32 0x84 0xA0) ∧
    (decode 0x1D3E8400).toOption = some (.not 0x0 0x3E 0x84) ∧
    (decode 0x1E6E8806).toOption = some (.shl 0x0 0x6E 0x88 0x6) ∧
    (decode 0x1F1EA002).toOption = some (.shr 0x0 0x1E 0xA0 0x2) ∧
    (decode 0x204A8884).toOption = some (.sar 0x0 0x4A 0x88 0x84) ∧
    (decode 0x2128A4A4).toOption = some (.rot 0x0 0x28 0xA4 0xA4) ∧
    (decode 0x2202A000).toOption = some (.clz 0x0 0x2 0xA0) ∧
    (decode 0x230C0200).toOption = some (.ctz 0x0 0xC 0x2) ∧
    (decode 0x24300A00).toOption = some (.popc 0x0 0x30 0xA) ∧
    (decode 0x2526A400).toOption = some (.brev 0x0 0x26 0xA4) ∧
    (decode 0x264EA000).toOption = some (.bswap 0x0 0x4E 0xA0) ∧
    (decode 0x27580A84).toOption = some (.bfx 0x0 0x58 0xA 0x84) ∧
    (decode 0x28260A02).toOption = some (.bfi 0x0 0x26 0xA 0x2) ∧
    (decode 0x296E0A02).toOption = some (.lea1 0x0 0x6E 0xA 0x2) ∧
    (decode 0x2A7206A0).toOption = some (.lea2 0x0 0x72 0x6 0xA0) ∧
    (decode 0x2B78A4A0).toOption = some (.lea3 0x0 0x78 0xA4 0xA0) ∧
    (decode 0x2C7888A0).toOption = some (.lea4 0x0 0x78 0x88 0xA0) ∧
    (decode 0x2D2C0688).toOption = some (.absd 0x0 0x2C 0x6 0x88) ∧
    (decode 0x2E3AA084).toOption = some (.avg 0x0 0x3A 0xA0 0x84) ∧
    (decode 0x2F4A02A4).toOption = some (.dot4 0x0 0x4A 0x2 0xA4) ∧
    (decode 0x3072A4A0).toOption = some (.dotq 0x0 0x72 0xA4 0xA0) ∧
    (decode 0x3142020A).toOption = some (.pack2 0x0 0x42 0x2 0xA) ∧
    (decode 0x32200206).toOption = some (.prmb 0x0 0x20 0x2 0x6) := by decide

/-- The words of the compare opcodes, each the table's pattern with these fields in its places. -/
theorem test_decode_compare :
    (decode 0x38010AA0).toOption = some (.ceq 0x1 0xA 0xA0) ∧
    (decode 0x39040288).toOption = some (.cne 0x4 0x2 0x88) ∧
    (decode 0x3A030A0A).toOption = some (.clt 0x3 0xA 0xA) ∧
    (decode 0x3B01A088).toOption = some (.cle 0x1 0xA0 0x88) ∧
    (decode 0x3C0602A0).toOption = some (.cgt 0x6 0x2 0xA0) ∧
    (decode 0x3D010A84).toOption = some (.cge 0x1 0xA 0x84) ∧
    (decode 0x3E01A0A0).toOption = some (.cun 0x1 0xA0 0xA0) ∧
    (decode 0x3F038402).toOption = some (.ctst 0x3 0x84 0x2) ∧
    (decode 0x40070F0B).toOption = some (.pand 0x7 0x1 0x7 0x1 0x3) ∧
    (decode 0x41050000).toOption = some (.por 0x5 0x0 0x0 0x0 0x0) ∧
    (decode 0x4202050E).toOption = some (.pxor 0x2 0x0 0x5 0x1 0x6) ∧
    (decode 0x43010900).toOption = some (.pnot 0x1 0x1 0x1) ∧
    (decode 0x44010D00).toOption = some (.pmov 0x1 0x1 0x5) ∧
    (decode 0x45340000).toOption = some (.pget 0x0 0x34) := by decide

/-- The words of the float opcodes, each the table's pattern with these fields in its places. -/
theorem test_decode_float :
    (decode 0x50640AA0).toOption = some (.fadd 0x0 0x64 0xA 0xA0) ∧
    (decode 0x5174840A).toOption = some (.fsub 0x0 0x74 0x84 0xA) ∧
    (decode 0x522A020A).toOption = some (.fmul 0x0 0x2A 0x2 0xA) ∧
    (decode 0x5354880A).toOption = some (.ffma 0x0 0x54 0x88 0xA) ∧
    (decode 0x546E0A88).toOption = some (.ffms 0x0 0x6E 0xA 0x88) ∧
    (decode 0x5530060A).toOption = some (.fnma 0x0 0x30 0x6 0xA) ∧
    (decode 0x563EA084).toOption = some (.fmin 0x0 0x3E 0xA0 0x84) ∧
    (decode 0x57360AA4).toOption = some (.fmax 0x0 0x36 0xA 0xA4) ∧
    (decode 0x5874A000).toOption = some (.fabs 0x0 0x74 0xA0) ∧
    (decode 0x595C0200).toOption = some (.fneg 0x0 0x5C 0x2) ∧
    (decode 0x5A1CA400).toOption = some (.frcp 0x0 0x1C 0xA4) ∧
    (decode 0x5B4C8800).toOption = some (.frsq 0x0 0x4C 0x88) ∧
    (decode 0x5C320600).toOption = some (.fsqrt 0x0 0x32 0x6) ∧
    (decode 0x5D3A0206).toOption = some (.fdiv 0x0 0x3A 0x2 0x6) ∧
    (decode 0x5E220A00).toOption = some (.fexp2 0x0 0x22 0xA) ∧
    (decode 0x5F760200).toOption = some (.flog2 0x0 0x76 0x2) ∧
    (decode 0x600E8400).toOption = some (.fsinp 0x0 0xE 0x84) ∧
    (decode 0x6136A000).toOption = some (.fcosp 0x0 0x36 0xA0) ∧
    (decode 0x623AA400).toOption = some (.fflr 0x0 0x3A 0xA4) ∧
    (decode 0x633CA000).toOption = some (.fceil 0x0 0x3C 0xA0) ∧
    (decode 0x642CA000).toOption = some (.frnd 0x0 0x2C 0xA0) ∧
    (decode 0x65680600).toOption = some (.ffrc 0x0 0x68 0x6) ∧
    (decode 0x6616A400).toOption = some (.fcls 0x0 0x16 0xA4) ∧
    (decode 0x67668488).toOption = some (.fscl 0x0 0x66 0x84 0x88) ∧
    (decode 0x680CA000).toOption = some (.fgete 0x0 0xC 0xA0) ∧
    (decode 0x696A020A).toOption = some (.fdot2 0x0 0x6A 0x2 0xA) := by decide

/-- The words of the convert opcodes, each the table's pattern with these fields in its places. -/
theorem test_decode_convert :
    (decode 0x7054A000).toOption = some (.cvt 0x0 0x54 0xA0) ∧
    (decode 0x711CA006).toOption = some (.cvpk 0x0 0x1C 0xA0 0x6) ∧
    (decode 0x72540A00).toOption = some (.cvlo 0x0 0x54 0xA) ∧
    (decode 0x731C0A00).toOption = some (.cvhi 0x0 0x1C 0xA) := by decide

/-- The words of the lane opcodes, each the table's pattern with these fields in its places. -/
theorem test_decode_lane :
    (decode 0x802AA4A4).toOption = some (.shfli 0x0 0x2A 0xA4 0xA4) ∧
    (decode 0x811CA002).toOption = some (.shflx 0x0 0x1C 0xA0 0x2) ∧
    (decode 0x820A0206).toOption = some (.shflb 0x0 0xA 0x2 0x6) ∧
    (decode 0x831EA40A).toOption = some (.shflf 0x0 0x1E 0xA4 0xA) ∧
    (decode 0x842A0A00).toOption = some (.ballot 0x0 0x2A 0xA) ∧
    (decode 0x85018800).toOption = some (.vany 0x1 0x88) ∧
    (decode 0x86048800).toOption = some (.vall 0x4 0x88) ∧
    (decode 0x87068800).toOption = some (.veq 0x6 0x88) ∧
    (decode 0x8834A000).toOption = some (.scan 0x0 0x34 0xA0) ∧
    (decode 0x8978A000).toOption = some (.scanx 0x0 0x78 0xA0) ∧
    (decode 0x8A4AA400).toOption = some (.reda 0x0 0x4A 0xA4) ∧
    (decode 0x8B5E0A00).toOption = some (.redmn 0x0 0x5E 0xA) ∧
    (decode 0x8C500A00).toOption = some (.redmx 0x0 0x50 0xA) ∧
    (decode 0x8D568400).toOption = some (.matchL 0x0 0x56 0x84) ∧
    (decode 0x8E6E0000).toOption = some (.actm 0x0 0x6E) ∧
    (decode 0x8F010000).toOption = some (.elect 0x1) := by decide

/-- The words of the control opcodes, each the table's pattern with these fields in its places. -/
theorem test_decode_control :
    (decode 0x9026DEBB).toOption = some (.bra 0x2 0x6DEBB) ∧
    (decode 0x9181E2E0).toOption = some (.call 0x8 0x1E2E0) ∧
    (decode 0x92000A00).toOption = some (.calli 0xA) ∧
    (decode 0x93008800).toOption = some (.jmpi 0x88) ∧
    (decode 0x94000000).toOption = some (.ret) ∧
    (decode 0x9505513B).toOption = some (.join 0x5513B) ∧
    (decode 0x96000000).toOption = some (.exit) ∧
    (decode 0x97000000).toOption = some (.yield) ∧
    (decode 0x9800020A).toOption = some (.waitc 0x2 0xA) ∧
    (decode 0x99000006).toOption = some (.brk 0x6) ∧
    (decode 0x9AAF879A).toOption = some (.loop 0xA 0xF879A) := by decide

/-- The words of the memory opcodes, each the table's pattern with these fields in its places. -/
theorem test_decode_memory :
    (decode 0xA0580A88).toOption = some (.ldl 0x0 0x58 0xA 0x88) ∧
    (decode 0xA13C0602).toOption = some (.stl 0x3C 0x6 0x2) ∧
    (decode 0xA216A40A).toOption = some (.lds 0x0 0x16 0xA4 0xA) ∧
    (decode 0xA3228802).toOption = some (.sts 0x22 0x88 0x2) ∧
    (decode 0xA43002A0).toOption = some (.ldc 0x0 0x30 0x2 0xA0) ∧
    (decode 0xA5028484).toOption = some (.stc 0x2 0x84 0x84) ∧
    (decode 0xA63E0A0A).toOption = some (.ldk 0x0 0x3E 0xA 0xA) ∧
    (decode 0xA7400688).toOption = some (.stk 0x40 0x6 0x88) ∧
    (decode 0xA8380A0A).toOption = some (.ldg 0x0 0x38 0xA 0xA) ∧
    (decode 0xA96E8488).toOption = some (.stg 0x6E 0x84 0x88) ∧
    (decode 0xAA140A84).toOption = some (.ldgs 0x0 0x14 0xA 0x84) ∧
    (decode 0xAB740A88).toOption = some (.stgs 0x74 0xA 0x88) ∧
    (decode 0xAC1202A4).toOption = some (.ldsq 0x0 0x12 0x2 0xA4) ∧
    (decode 0xAD400A0A).toOption = some (.stsq 0x40 0xA 0xA) ∧
    (decode 0xAE64A0A0).toOption = some (.ldgq 0x0 0x64 0xA0 0xA0) ∧
    (decode 0xAF580284).toOption = some (.stgq 0x58 0x2 0x84) := by decide

/-- The words of the atomic opcodes, each the table's pattern with these fields in its places. -/
theorem test_decode_atomic :
    (decode 0xB06EA0A4).toOption = some (.ldga 0x0 0x6E 0xA0 0xA4) ∧
    (decode 0xB15E8888).toOption = some (.stgr 0x5E 0x88 0x88) ∧
    (decode 0xB26E060A).toOption = some (.atsAdd 0x0 0x6E 0x6 0xA) ∧
    (decode 0xB360A0A0).toOption = some (.atsMin 0x0 0x60 0xA0 0xA0) ∧
    (decode 0xB4620288).toOption = some (.atsMax 0x0 0x62 0x2 0x88) ∧
    (decode 0xB54C06A0).toOption = some (.atsAnd 0x0 0x4C 0x6 0xA0) ∧
    (decode 0xB650A4A4).toOption = some (.atsOr 0x0 0x50 0xA4 0xA4) ∧
    (decode 0xB72488A4).toOption = some (.atsXor 0x0 0x24 0x88 0xA4) ∧
    (decode 0xB86C840A).toOption = some (.atsXch 0x0 0x6C 0x84 0xA) ∧
    (decode 0xB972A488).toOption = some (.atsCas 0x0 0x72 0xA4 0x88) ∧
    (decode 0xBA640206).toOption = some (.atgAdd 0x0 0x64 0x2 0x6) ∧
    (decode 0xBB26A484).toOption = some (.atgMin 0x0 0x26 0xA4 0x84) ∧
    (decode 0xBC380206).toOption = some (.atgMax 0x0 0x38 0x2 0x6) ∧
    (decode 0xBD74020A).toOption = some (.atgAnd 0x0 0x74 0x2 0xA) ∧
    (decode 0xBE6A8884).toOption = some (.atgOr 0x0 0x6A 0x88 0x84) ∧
    (decode 0xBF688884).toOption = some (.atgXor 0x0 0x68 0x88 0x84) ∧
    (decode 0xC0220A06).toOption = some (.atgXch 0x0 0x22 0xA 0x6) ∧
    (decode 0xC1240688).toOption = some (.atgCas 0x0 0x24 0x6 0x88) ∧
    (decode 0xC252880A).toOption = some (.atcAdd 0x0 0x52 0x88 0xA) ∧
    (decode 0xC32684A0).toOption = some (.atcCas 0x0 0x26 0x84 0xA0) ∧
    (decode 0xC420880A).toOption = some (.atgsAdd 0x0 0x20 0x88 0xA) ∧
    (decode 0xC56C0284).toOption = some (.atgsCas 0x0 0x6C 0x2 0x84) ∧
    (decode 0xC60C0202).toOption = some (.reds 0xC 0x2 0x2) ∧
    (decode 0xC718A00A).toOption = some (.redg 0x18 0xA0 0xA) := by decide

/-- The words of the fence opcodes, each the table's pattern with these fields in its places. -/
theorem test_decode_fence :
    (decode 0xC8003726).toOption = some (.fence 0x3 0x72 0x6) ∧
    (decode 0xC902A006).toOption = some (.gath 0x0 0x2 0xA0 0x6) ∧
    (decode 0xCA600202).toOption = some (.scat 0x60 0x2 0x2) ∧
    (decode 0xCB2006A4).toOption = some (.stgc 0x20 0x6 0xA4) ∧
    (decode 0xCC1806A0).toOption = some (.ldge 0x0 0x18 0x6 0xA0) ∧
    (decode 0xCD00A4A4).toOption = some (.pfg 0xA4 0xA4) := by decide

/-- The words of the engine opcodes, each the table's pattern with these fields in its places. -/
theorem test_decode_engine :
    (decode 0xD000A400).toOption = some (.cstep 0xA4) ∧
    (decode 0xD1280000).toOption = some (.cstat 0x0 0x28) ∧
    (decode 0xD200A406).toOption = some (.binit 0xA4 0x6) ∧
    (decode 0xD3000206).toOption = some (.barv 0x2 0x6) ∧
    (decode 0xD4000A88).toOption = some (.bexp 0xA 0x88) ∧
    (decode 0xD5008406).toOption = some (.bwait 0x84 0x6) ∧
    (decode 0xD6068488).toOption = some (.btest 0x6 0x84 0x88) ∧
    (decode 0xD700A4A0).toOption = some (.binv 0xA4 0xA0) ∧
    (decode 0xD8000288).toOption = some (.rrot 0x2 0x88) ∧
    (decode 0xD900A0A0).toOption = some (.sppin 0xA0 0xA0) ∧
    (decode 0xDA00A006).toOption = some (.sprel 0xA0 0x6) ∧
    (decode 0xDB00A406).toOption = some (.spawn 0xA4 0x6) ∧
    (decode 0xDC00A484).toOption = some (.tdep 0xA4 0x84) ∧
    (decode 0xDD000600).toOption = some (.tsig 0x6) ∧
    (decode 0xDE008803).toOption = some (.post 0x88 0x1 0x1) ∧
    (decode 0xDF000200).toOption = some (.seal 0x2 0x0) := by decide

/-- The words of the task opcodes, each the table's pattern with these fields in its places. -/
theorem test_decode_task :
    (decode 0xE00C0200).toOption = some (.pmrk 0x0 0xC 0x2 0x0) ∧
    (decode 0xE1008888).toOption = some (.subs 0x88 0x88) ∧
    (decode 0xE2000A01).toOption = some (.settle 0xA 0x1) ∧
    (decode 0xE3008800).toOption = some (.lque 0x88) ∧
    (decode 0xE430A00A).toOption = some (.lmma 0x30 0xA0 0xA) ∧
    (decode 0xE5000200).toOption = some (.aalloc 0x2) ∧
    (decode 0xE6000000).toOption = some (.afree) ∧
    (decode 0xE71602A0).toOption = some (.adrn 0x0 0x16 0x2 0xA0) ∧
    (decode 0xE80084A4).toOption = some (.afil 0x84 0xA4) ∧
    (decode 0xE92484A0).toOption = some (.trace 0x0 0x24 0x84 0xA0) ∧
    (decode 0xEA008888).toOption = some (.psend 0x88 0x88) ∧
    (decode 0xEB3CA088).toOption = some (.comp 0x0 0x3C 0xA0 0x88) := by decide

/-- The words of the system opcodes, each the table's pattern with these fields in its places. -/
theorem test_decode_system :
    (decode 0xF05CC1F0).toOption = some (.trap 0x5CC1F0) ∧
    (decode 0xF1000000).toOption = some (.rte) ∧
    (decode 0xF2560716).toOption = some (.srd 0x0 0x56 0x716) ∧
    (decode 0xF33CC678).toOption = some (.swr 0x3C 0xC678) ∧
    (decode 0xF400A000).toOption = some (.mapack 0xA0) ∧
    (decode 0xF5000000).toOption = some (.icinv) ∧
    (decode 0xF63C0000).toOption = some (.cyc 0x0 0x3C) ∧
    (decode 0xF700A000).toOption = some (.pause 0xA0) := by decide
/-! ### Ill-formed terms -/

/-- W with a destination; an s register above s31; p0 as a destination; reserved selectors in A and in B (R226–R231). -/
theorem test_ill_formed_fields :
    (Instr.add 1 3 1 2).wellFormed = false ∧ (Instr.movs 0 32 1).wellFormed = false ∧ (Instr.ceq 0 1 2).wellFormed = false ∧
    (Instr.add 0 3 0xAA 2).wellFormed = false ∧ (Instr.add 0 3 1 0xFF).wellFormed = false ∧
    (Instr.add 1 0 0xA9 0xA4).wellFormed = true := by decide

/-- Address pairs and jump targets name an even v or s register; register groups name v registers (R231, R277, R306). -/
theorem test_ill_formed_pairs :
    (Instr.ldg 0 4 0x85 0).wellFormed = false ∧ (Instr.ldg 0 4 0xA4 0).wellFormed = false ∧ (Instr.jmpi 3).wellFormed = false ∧
    (Instr.subs 0x82 0x83).wellFormed = false ∧ (Instr.subs 0x82 0x84).wellFormed = true ∧
    (Instr.lmma 32 0x80 8).wellFormed = false ∧ (Instr.lmma 32 0 0x88).wellFormed = false := by decide

/-- Each instruction's own conditions: a reserved type in MODE, M = 3 in MSHAPE, a JOIN ahead, quads of registers that start off a
multiple of 4, kind 3 and scope 5 of a fence (R236, R282, R292, R303). -/
theorem test_ill_formed_basic :
    (Instr.mode 15).wellFormed = false ∧ (Instr.mshape 3 1).wellFormed = false ∧ (Instr.join 1).wellFormed = false ∧
    (Instr.ldsq 0 2 1 0).wellFormed = false ∧ (Instr.stsq 2 1 0).wellFormed = false ∧ (Instr.ldgq 0 2 2 0).wellFormed = false ∧
    (Instr.stgq 2 2 0).wellFormed = false ∧ (Instr.fence 3 0x80 0).wellFormed = false ∧ (Instr.fence 1 0x80 5).wellFormed = false := by decide

/-- Odd or misplaced registers of the engine, task and system instructions (R309, R313, R319, R326, R327, R317, R331, R337), and
numbers that name no system register (R330). -/
theorem test_ill_formed_engines :
    (Instr.cstat 0 3).wellFormed = false ∧ (Instr.rrot 0x81 1).wellFormed = false ∧ (Instr.rrot 2 1).wellFormed = false ∧
    (Instr.pmrk 0 3 0x82 0).wellFormed = false ∧ (Instr.trace 0 3 0 1).wellFormed = false ∧ (Instr.trace 0 4 120 1).wellFormed = false ∧
    (Instr.psend 8 1).wellFormed = false ∧ (Instr.comp 0 3 2 1).wellFormed = false ∧ (Instr.srd 0 2 0x0B).wellFormed = false ∧
    (Instr.srd 0 3 5).wellFormed = false ∧ (Instr.swr 2 0x28).wellFormed = false ∧ (Instr.swr 3 0x10).wellFormed = false ∧
    (Instr.cyc 0 1).wellFormed = false := by decide

/-! ### Worked examples of the spec -/

/-- R253's example: add v3, v1, v2 under i8 with SAT, i8 without, b8 with. -/
theorem test_add_example :
    let v := lane0 [(1, 0x7F800102), (2, 0x01FF7F05)]
    sees (exec (.add 0 3 1 2) (bench 0x2004 id v)) (fun _ r => r.group.vreg 3 0 == 0x7F807F07 && r.group.aflags == 0x20) = true ∧
    sees (exec (.add 0 3 1 2) (bench 0x0004 id v)) (fun _ r => r.group.vreg 3 0 == 0x807F8007 && r.group.aflags == 0) = true ∧
    sees (exec (.add 0 3 1 2) (bench 0x2000 id v)) (fun _ r => r.group.vreg 3 0 == 0x80FF8007 && r.group.aflags == 0x20) = true := by decide

/-- R244's example: lit 1, lit 0, lith 0x8000 leave fw0 0x80000000 and fw1 1, written by mov v4, fw0 under b64. -/
theorem test_lit_example :
    sees (exec (.lit 0x800000) (bench 2)) (fun _ r => r.path.latch 0 0 == 0xFF800000) = true ∧
    sees (exec (.mov 0 4 0xA0) (bench 3 fun p => { p with fw := CMap.setMany [] [(0, 0x80000000), (32, 1)], live := [(0, 1), (1, 1)], mask := 1 }))
      (fun _ r => r.group.vreg 4 0 == 0x80000000 && r.group.vreg 5 0 == 1) = true := by decide

/-- R260's example: lanes 0 to 15 of a group, v1 the lane index. -/
theorem test_lane_example :
    let s := bench 2 (fun p => { p with mask := 0xFFFF }) (lanesV 1 fun L => BitVec.ofNat 32 L)
    sees (exec (.reda 0 6 1) s) (fun _ r => r.group.sreg 6 == 120) = true ∧
    sees (exec (.shflf 0 2 1 0xA9) s) (fun _ r => r.group.vreg 2 14 == 15 && r.group.vreg 2 15 == 15) = true ∧
    sees (exec (.scanx 0 3 1) s) (fun _ r => r.group.vreg 3 0 == 0 && r.group.vreg 3 15 == 105) = true ∧
    sees (exec (.ballot 0 7 1) s) (fun _ r => r.group.sreg 7 == 0x0000FFFE) = true ∧
    sees (exec (.elect 2) s) (fun _ r => r.group.pred 2 == 1) = true := by decide

/-- R258's example: shflx v3, v3, one swaps even and odd lanes. -/
theorem test_shuffle_swaps :
    sees (exec (.shflx 0 3 3 0xA9) (bench 2 id (lanesV 3 fun L => BitVec.ofNat 32 (100 + L))))
      (fun _ r => r.group.vreg 3 0 == 101 && r.group.vreg 3 1 == 100) = true := by decide

/-- R254's example: clt p3, v4, zero under f32: a negative number, −0, a NaN. -/
theorem test_clt_example :
    sees (exec (.clt 3 4 0xA4) (bench 10 id (lanesV 4 fun L => if L = 0 then 0xBF800000 else if L = 1 then 0x80000000 else 0x7FC00000)))
      (fun _ r => r.group.pred 3 == 1) = true := by decide

/-- R264's example: fmin of +0 and −0, and of a NaN and 2.0. -/
theorem test_fmin_example :
    sees (exec (.fmin 0 6 1 2) (bench 10 id (lane0 [(1, 0), (2, 0x80000000)]))) (fun _ r => r.group.vreg 6 0 == 0x80000000) = true ∧
    sees (exec (.fmin 0 6 1 2) (bench 10 id (lane0 [(1, 0x7FC00001), (2, 0x40000000)]))) (fun _ r => r.group.vreg 6 0 == 0x40000000) = true := by
  decide

/-- R268's example: fcls of a positive subnormal and of −∞ under f16. -/
theorem test_fcls_example :
    sees (exec (.fcls 0 2 1) (bench 8 id (lane0 [(1, 0xFC000001)]))) (fun _ r => r.group.vreg 2 0 == 0x00010020) = true := by decide

/-- R124's examples of conversions: f32 to bf16 and f16, −2.5 to i32 under RNE and RNA, 3.0e10 to i32, −300 to i8 with and without SAT,
f8b infinity to f8a. -/
theorem test_conversion_examples :
    convert ⟨0, false, false⟩ 9 (.flt (fmtF32.decode 0x3F800001)) = (0x3F80, fNX) ∧
    (convert ⟨0, false, false⟩ 8 (.flt (fmtF32.decode 0x477FF000))).1 = 0x7C00 ∧
    convert ⟨0, false, false⟩ 6 (.flt (fmtF32.decode 0xC0200000)) = (0xFFFFFFFE, fNX) ∧
    convert ⟨4, false, false⟩ 6 (.flt (fmtF32.decode 0xC0200000)) = (0xFFFFFFFD, fNX) ∧
    convert ⟨0, false, false⟩ 6 (.flt (fmtF32.decode 0x50DF8476)) = (0x7FFFFFFF, fNV) ∧
    convert ⟨0, false, false⟩ 4 (.int (-300)) = (0xD4, 0) ∧ convert ⟨0, true, false⟩ 4 (.int (-300)) = (0x80, fSAT) ∧
    convert ⟨0, false, false⟩ 12 (.flt (fmtF8B.decode 0x7C)) = (0x7F, 0) ∧
    convert ⟨0, true, false⟩ 12 (.flt (fmtF8B.decode 0x7C)) = (0x7E, fSAT) := by decide

/-- R117's worked encodings: 96 in f8a, −0.3125 in f8b, 1.0 in bf16, −2.5 in f16. -/
theorem test_format_examples :
    fmtF8A.decode 0x6C = .fin false 12 3 ∧ fmtF8B.decode 0xB5 = .fin true 5 (-4) ∧ fmtBF16.decode 0x3F80 = .fin false 128 (-7) ∧
    fmtF16.decode 0xC100 = .fin true 0x500 (-9) := by decide

/-- R118's example: the bytes 0xC8, 0xD6 hold 96, 0, 0 and −3; 0x83, 0x00 hold 3, then an escape outside slot 0. -/
theorem test_q4x_example :
    let q := fun raw j => raw / 2 ^ (4 * j) % 16
    q4xVal (q 0xD6C8) 0x7F 0 = (.fin false 12 3, false) ∧ q4xVal (q 0xD6C8) 0x7F 1 = (.fin false 0 0, false) ∧
    q4xVal (q 0xD6C8) 0x7F 3 = (.fin true 3 0, false) ∧ q4xVal (q 0x0083) 0x7F 0 = (.fin false 3 0, false) ∧
    q4xVal (q 0x0083) 0x7F 1 = (.fin false 0 0, true) := by decide

/-- R251's example: lea3 adds eight times a 32-bit index to a pair; R250: a field of 8 bits at 4. -/
theorem test_lea_and_fields :
    sees (exec (.lea3 0 10 8 12) (bench 3 id (lane0 [(8, 0xFFFFFFF8), (9, 1), (12, 2)])))
      (fun _ r => r.group.vreg 10 0 == 8 && r.group.vreg 11 0 == 2) = true ∧
    sees (exec (.bfx 0 3 1 2) (bench 6 id (lane0 [(1, 0x00000F80), (2, 0x0804)]))) (fun _ r => r.group.vreg 3 0 == 0xFFFFFFF8) = true ∧
    sees (exec (.bfi 0 3 1 2) (bench 2 id (lane0 [(1, 0xAB), (2, 0x0804), (3, 0xFFFFFFFF)]))) (fun _ r => r.group.vreg 3 0 == 0xFFFFFABF) = true := by
  decide

/-- R247: the high half of a signed product, the rounded average, the absolute difference of the extremes, the negation of a b type. -/
theorem test_arithmetic_corners :
    sees (exec (.mulh 0 3 1 2) (bench 6 id (lane0 [(1, 0xFFFFFFFF), (2, 1)]))) (fun _ r => r.group.vreg 3 0 == 0xFFFFFFFF) = true ∧
    sees (exec (.avg 0 3 1 2) (bench 2 id (lane0 [(1, 0xFFFFFFFF), (2, 0xFFFFFFFE)]))) (fun _ r => r.group.vreg 3 0 == 0xFFFFFFFF) = true ∧
    sees (exec (.absd 0 3 1 2) (bench 6 id (lane0 [(1, 0x80000000), (2, 0x7FFFFFFF)]))) (fun _ r => r.group.vreg 3 0 == 0xFFFFFFFF) = true ∧
    sees (exec (.neg 0 3 1) (bench 0x2002 id (lane0 [(1, 5)]))) (fun _ r => r.group.vreg 3 0 == 0 && r.group.aflags == 0x20) = true ∧
    sees (exec (.mad 0 1 1 1) (bench 2 id (lane0 [(1, 3)]))) (fun _ r => r.group.vreg 1 0 == 12) = true := by decide

/-- R248, R249: shifts by the width and beyond, a rotation, counts of zero and of one bit. -/
theorem test_bit_corners :
    sees (exec (.shl 0 3 1 2) (bench 2 id (lane0 [(1, 1), (2, 32)]))) (fun _ r => r.group.vreg 3 0 == 0) = true ∧
    sees (exec (.sar 0 3 1 2) (bench 2 id (lane0 [(1, 0x80000000), (2, 40)]))) (fun _ r => r.group.vreg 3 0 == 0xFFFFFFFF) = true ∧
    sees (exec (.rot 0 3 1 2) (bench 2 id (lane0 [(1, 0x80000001), (2, 33)]))) (fun _ r => r.group.vreg 3 0 == 3) = true ∧
    sees (exec (.clz 0 3 1) (bench 2)) (fun _ r => r.group.vreg 3 0 == 32) = true ∧
    sees (exec (.ctz 0 3 1) (bench 2 id (lane0 [(1, 8)]))) (fun _ r => r.group.vreg 3 0 == 3) = true ∧
    sees (exec (.bswap 0 3 1) (bench 2 id (lane0 [(1, 0x01020304)]))) (fun _ r => r.group.vreg 3 0 == 0x04030201) = true := by decide

/-- R252, R253: sums of signed bytes and 4-bit fields; bytes picked and replicated. -/
theorem test_dot_and_permute :
    sees (exec (.dot4 0 3 1 2) (bench 4 id (lane0 [(1, 0xFF010203), (2, 0x02020202), (3, 1)]))) (fun _ r => r.group.vreg 3 0 == 11) = true ∧
    sees (exec (.dotq 0 3 1 2) (bench 4 id (lane0 [(1, 0x80000001), (2, 0x10000002), (3, 0)]))) (fun _ r => r.group.vreg 3 0 == 0xFFFFFFFA) = true ∧
    sees (exec (.prmb 0 3 1 2) (bench 2 id (lane0 [(1, 0x44332211), (2, 0x88776655), (3, 0xF410)]))) (fun _ r => r.group.vreg 3 0 == 0xFF552211) = true ∧
    sees (exec (.pack2 0 3 1 2) (bench 0x2005 id (lane0 [(1, 0xFFFF0000), (2, 5)]))) (fun _ r => r.group.vreg 3 0 == 0x00058000) = true := by decide

/-- R120, R123: 1 + 2^−24 ties to even; the largest f16 and itself overflow; R270: exact sums rounded once. -/
theorem test_float_rounding :
    sees (exec (.fadd 0 3 1 2) (bench 10 id (lane0 [(1, 0x3F800000), (2, 0x33800000)]))) (fun _ r => r.group.vreg 3 0 == 0x3F800000 && r.group.aflags.getLsbD 4) = true ∧
    sees (exec (.fadd 0 3 1 1) (bench 8 id (lane0 [(1, 0x00007BFF)]))) (fun _ r => r.group.vreg 3 0 == 0x7C00) = true ∧
    sees (exec (.fdiv 0 3 1 2) (bench 10 id (lane0 [(1, 0x3F800000)]))) (fun _ r => r.group.vreg 3 0 == 0x7F800000 && r.group.aflags.getLsbD 1) = true ∧
    sees (exec (.fsqrt 0 3 1) (bench 10 id (lane0 [(1, 0x40800000)]))) (fun _ r => r.group.vreg 3 0 == 0x40000000) = true ∧
    sees (exec (.fdot2 0 8 1 2) (bench 8 id (lane0 [(1, 0x3C003C00), (2, 0x40003C00), (8, 0x3F800000)]))) (fun _ r => r.group.vreg 8 0 == 0x40800000) = true := by
  decide

/-! ### Witnesses: operands, arithmetic, floats -/

/-- SourceOperands: each kind of selector at the ends of its range, under a 64-bit type. -/
theorem witness_SourceOperands :
    (∀ x ∈ [0x00#8, 0x7E, 0x80, 0x9E, 0xA0, 0xA2, 0xA4, 0xA9], selOk true x = true ∧ x.toNat ≤ 0xA9) ∧
    (∀ x ∈ [0x01#8, 0x7F, 0x9F, 0xA3, 0xAA, 0xFF], selOk true x = false) ∧ tyIs64 3 = true ∧ tyIs64 7 = true ∧ tyIs64 11 = true := by decide

/-- IllegalAndDeadLatches: an odd register under b64 is illegal; a latch that is live in lane 0 alone is dead in the others; lanes 0 and 31. -/
theorem witness_IllegalAndDeadLatches :
    (The (bench 3) fun r => ((classOf (.add 0 3 2 4)).map fun c => c.legal r (.add 0 3 2 4)) = some false) ∧
    The (bench 2 fun p => { p with live := [(3, 1)] }) fun r =>
      ((classOf (.add 0 3 0xA3 4)).map fun c => (c.legal r (.add 0 3 0xA3 4), c.dead r (.add 0 3 0xA3 4))) = some (true, 0xFFFFFFFE) ∧
      r.active.getLsbD 31 = true ∧ (CMap.get r.path.live 3).getLsbD 0 = true := ⟨the_of (by decide), the_of (by decide)⟩

/-- BasicInstructions: the premise on gm; fw0 live in every lane, and dead; MOV and SEL run, under b64 and under q4x. -/
theorem witness_BasicInstructions :
    (The (bench 2) fun r => gmT r.path.gm ≤ 14 ∧ r.active &&& ~~~(CMap.get r.path.live 0) ≠ 0) ∧
    (The (bench 2 fun p => { p with live := [(0, 0xFFFFFFFF)] }) fun r => r.active &&& ~~~(CMap.get r.path.live 0) = 0) ∧
    (The (bench 3) fun r => ∀ i ∈ [Instr.mov 0 4 0xA5, .sel 0 126 2 0x9E], Runs r i ∧ true = true) ∧
    The (bench 14) fun r => ∀ i ∈ [Instr.mov 1 0 0, .sel 0 127 127 0xA9], Runs r i ∧ true = true :=
  ⟨the_of (by decide), the_of (by decide), all_run (Q := fun _ => true) (by decide), all_run (Q := fun _ => true) (by decide)⟩

/-- IntegerArithmetic: every instruction of the table runs, under i8 with SAT and under b64. -/
theorem witness_IntegerArithmetic :
    (The (bench 0x2004) fun r => ∀ i ∈ [Instr.add 0 3 1 2, .sub 0 3 1 2, .mul 0 3 1 2, .mulh 0 3 1 2, .mad 0 3 1 2, .min 0 3 1 2, .max 0 3 1 2,
      .abs 0 3 1, .neg 0 3 1, .absd 0 3 1 2, .avg 1 0 0x80 0xA9], Runs r i ∧ (arithOf i).isSome = true) ∧
    The (bench 3) fun r => ∀ i ∈ [Instr.add 0 126 0 2, .mul 0 4 0x9E 2], Runs r i ∧ (arithOf i).isSome = true :=
  ⟨all_run (by decide), all_run (by decide)⟩

/-- BitOperations: every instruction runs; the types that BFX, BFI and LEA refuse; an odd register under b64. -/
theorem witness_BitOperations :
    (The (bench 2) fun r => ∀ i ∈ [Instr.and 0 3 1 2, .or 0 3 1 2, .xor 0 3 1 2, .andn 0 3 1 2, .not 0 3 1, .shl 0 3 1 2, .shr 0 3 1 2,
      .sar 0 3 1 2, .rot 0 3 1 2, .clz 0 3 1, .ctz 0 3 1, .popc 0 3 1, .brev 0 3 1, .bswap 0 3 1], Runs r i ∧ (bitsOf i).isSome = true) ∧
    (The (bench 7) fun r => ∀ i ∈ [Instr.lea1 0 4 2 1, .lea2 0 4 2 1, .lea3 0 4 2 1, .lea4 0 4 2 1], Runs r i ∧ (leaOf i).isSome = true) ∧
    (The (bench 6) fun r => ∀ i ∈ [Instr.bfx 0 3 1 2, .bfi 0 3 1 2], Runs r i ∧ true = true) ∧
    (The (bench 4) fun r => r.T ≠ 2 ∧ r.T ≠ 3 ∧ r.T ≠ 6 ∧ r.T ≠ 7) ∧
    The (bench 3) fun r => tyIs64 r.T = true ∧ (leaOf (.lea1 0 4 3 1)).any (fun x => decide (x.1.a.toNat < 0xA0 ∧ x.1.a.toNat % 2 = 1)) = true :=
  ⟨all_run (by decide), all_run (by decide), all_run (Q := fun _ => true) (by decide), the_of (by decide), the_of (by decide)⟩

/-- DotProductsAndPacking: each runs under its types; the type that refuses it. -/
theorem witness_DotProductsAndPacking :
    (The (bench 0x2004) fun r => ∀ i ∈ [Instr.dot4 0 3 1 2, .dotq 0 3 1 2], Runs r i ∧ (dotOf i).isSome = true) ∧
    (The (bench 0) fun r => ∀ i ∈ [Instr.dot4 0 3 1 2, .dotq 0 3 1 2], Runs r i ∧ (dotOf i).isSome = true) ∧
    (The (bench 5) fun r => ∀ i ∈ [Instr.pack2 0 3 1 2], Runs r i ∧ true = true) ∧
    (The (bench 2) fun r => ∀ i ∈ [Instr.prmb 0 3 1 2], Runs r i ∧ true = true) ∧
    (The (bench 6) fun r => r.T ≠ 0 ∧ r.T ≠ 4 ∧ r.T ≠ 1 ∧ r.T ≠ 5 ∧ r.T ≠ 2) :=
  ⟨all_run (by decide), all_run (by decide), all_run (Q := fun _ => true) (by decide), all_run (Q := fun _ => true) (by decide), the_of (by decide)⟩

/-- CrossLane: every instruction runs, with ACTIVE full and, for the scalar ones, empty; the lowest lane of a path is ACTIVE. -/
theorem witness_CrossLane :
    (The (bench 10) fun r => ∀ i ∈ [Instr.movs 0 31 1, .ballot 0 6 1, .actm 0 5, .vany 1 1, .vall 7 1, .veq 2 1, .elect 2, .matchL 0 3 1,
      .reda 0 6 1, .redmn 0 6 1, .redmx 0 6 1, .scan 0 3 1, .scanx 0 3 1], Runs r i ∧ true = true) ∧
    (The (bench 11) fun r => ∀ i ∈ [Instr.shfli 0 4 2 0xA5, .shflx 0 4 2 0xA9, .shflb 0 4 2 0xA9, .shflf 0 4 2 0xA9],
      Runs r i ∧ (laneOf i).isSome = true) ∧
    (The (bench 0x8002) fun r => r.active = 0 ∧ runs r (.movs 0 0 1) = true ∧ runs r (.reda 0 0 1) = true) ∧
    The (bench 2) fun r => r.active.getLsbD 0 = true ∧ r.active ≠ 0 :=
  ⟨all_run (Q := fun _ => true) (by decide), all_run (by decide), the_of (by decide), the_of (by decide)⟩

/-- ComparesAndPredicates: every instruction runs; the types that refuse CUN and CTST. -/
theorem witness_ComparesAndPredicates :
    (The (bench 8) fun r => ∀ i ∈ [Instr.ceq 1 1 2, .clt 2 1 2, .cle 3 1 2, .cgt 4 1 2, .cge 7 1 2], Runs r i ∧ (relOf i).isSome = true) ∧
    (The (bench 13) fun r => ∀ i ∈ [Instr.cne 1 1 2, .cun 7 1 2, .pget 0 3], Runs r i ∧ true = true) ∧
    (The (bench 7) fun r => ∀ i ∈ [Instr.ctst 1 2 4], Runs r i ∧ true = true) ∧
    (The (bench 14) fun r => ∀ i ∈ [Instr.pand 1 0 2 1 5, .por 1 0 2 1 0, .pxor 7 0 2 1 5, .pnot 1 0 2, .pmov 1 1 0], Runs r i ∧ (predOf i).isSome = true) ∧
    (The (bench 7) fun r => r.T < 8 ∧ r.T ≤ 14) ∧ (The (bench 14) fun r => 13 < r.T ∧ 7 < r.T) :=
  ⟨all_run (by decide), all_run (Q := fun _ => true) (by decide), all_run (Q := fun _ => true) (by decide), all_run (by decide),
    the_of (by decide), the_of (by decide)⟩

/-- FloatFormats: finite values whose exact sum is a zero of opposite signs; a rounding below the grid and one on it. -/
theorem witness_FloatFormats :
    FinVal (.fin false 1 0) ∧ FinVal (.fin true 1 0) ∧ ZeroVal (FV.add 3 (.fin false 1 0) (.fin true 1 0)).1 ∧
    (roundGrid 4 true 3 0 1) = (2, true) ∧ (roundGrid 0 false 3 2 1) = (6, false) :=
  ⟨⟨_, _, _, rfl⟩, ⟨_, _, _, rfl⟩, ⟨_, _, rfl⟩, by decide, by decide⟩

/-- FloatElements: every instruction of the table runs, the approximating ones under f32, FDIV under f64. -/
theorem witness_FloatElements :
    (The (bench 10) fun r => ∀ i ∈ [Instr.fadd 0 3 1 2, .fsub 0 3 1 2, .fmul 0 3 1 2, .ffma 0 3 1 2, .ffms 0 3 1 2, .fnma 0 3 1 2, .fdiv 0 3 1 2,
      .fsqrt 0 3 1, .fmin 0 3 1 2, .fmax 0 3 1 2, .frcp 0 3 1, .frsq 0 3 1, .fexp2 0 3 1, .flog2 0 3 1, .fsinp 0 3 1, .fcosp 0 3 1, .fflr 0 3 1,
      .fceil 0 3 1, .frnd 0 3 1, .ffrc 0 3 1, .fscl 0 3 1 2, .fgete 0 3 1], Runs r i ∧ (floatOf i).isSome = true) ∧
    The (bench 11) fun r => ∀ i ∈ [Instr.fdiv 0 4 2 0x9E, .ffma 0 4 2 6], Runs r i ∧ (floatOf i).isSome = true :=
  ⟨all_run (by decide), all_run (by decide)⟩

/-- FloatSpecialCases: a NaN, infinities of both signs and zeros in f16; FABS, FNEG and FCLS run under f16 and f64. -/
theorem witness_FloatSpecialCases :
    (fmtF16.read false 0x7E00).isNaN = true ∧ fmtF16.read false 0x7C00 = .inf false ∧ fmtF16.read false 0xFC00 = .inf true ∧
    ZeroVal (fmtF16.read false 0x8000) ∧ FinVal (fmtF16.read false 0x3C00) ∧ ¬ ZeroVal (fmtF16.read false 0x3C00) ∧
    (The (bench 8) fun r => ∀ i ∈ [Instr.fabs 0 3 1, .fneg 0 3 1, .fcls 0 3 1], Runs r i ∧ true = true) ∧
    The (bench 11) fun r => ∀ i ∈ [Instr.fabs 0 4 2, .fneg 0 4 2, .fcls 0 4 2], Runs r i ∧ true = true :=
  ⟨by decide, by decide, by decide, ⟨true, _, rfl⟩, ⟨false, _, _, rfl⟩,
    by rintro ⟨n, x, h⟩; have e : fmtF16.read false 0x3C00 = .fin false 1024 (-10) := by decide
       rw [e] at h; injection h with _ h; simp at h,
    all_run (Q := fun _ => true) (by decide), all_run (Q := fun _ => true) (by decide)⟩

/-- ApproximationPoints: encodings of each special operand in f32. -/
theorem witness_ApproximationPoints :
    fmtF32.read false 0x7FC00000 = .nan ∧ fmtF32.read false 0x7F800000 = .inf false ∧ fmtF32.read false 0xFF800000 = .inf true ∧
    fmtF32.read false 0 = .fin false 0 (-149) ∧ fmtF32.read false 0x80000000 = .fin true 0 (-149) ∧
    fmtF32.read false 0xBF800000 = .fin true 8388608 (-23) := by decide

/-- FloatDotProduct: it runs under f16 and bf16, and i32 refuses it; 0 · ∞ beside a finite product; terms that are both infinities, and
one alone of each sign. -/
theorem witness_FloatDotProduct :
    (The (bench 8) fun r => ∀ i ∈ [Instr.fdot2 0 8 1 2], Runs r i ∧ true = true) ∧
    (The (bench 9) fun r => ∀ i ∈ [Instr.fdot2 0 8 1 2], Runs r i ∧ true = true) ∧ (The (bench 6) fun r => r.T ≠ 8 ∧ r.T ≠ 9) ∧
    (The (bench 8 id (lane0 [(1, 0x7C00), (2, 0)])) fun r =>
      (fmtF16.read false (el 16 (r.src r.T 1 0) 0).toNat).isInf = true ∧ fmtF16.read false (el 16 (r.src r.T 2 0) 0).toNat = .fin false 0 (-24) ∧
      fmtF16.read false (el 16 (r.src r.T 1 0) 1).toNat = .fin false 0 (-24)) ∧
    ∀ x ∈ [(0xFC007C00#32, [FV.inf false, .inf true]), (0x3C007C00, [.inf false, .fin false 1024 (-10)]), (0x3C00FC00, [.inf true, .fin false 1024 (-10)])],
      The (bench 8 id (lane0 [(1, x.1), (2, 0x3C003C00)])) fun r =>
        [0, 1].map (fun k => fmtF16.read false (el 16 (r.src r.T 1 0) k).toNat) = x.2 ∧
        [0, 1].map (fun k => fmtF16.read false (el 16 (r.src r.T 2 0) k).toNat) = [.fin false 1024 (-10), .fin false 1024 (-10)] ∧
        (fmtF32.read false (r.group.vreg 8 0).toNat).isInf = false := by
  and_intros <;> first
    | exact all_run (Q := fun _ => true) (by decide)
    | exact the_of (by decide)
    | (intro x h
       simp only [List.mem_cons, List.not_mem_nil, or_false] at h
       obtain rfl | rfl | rfl := h <;> exact the_of (by decide))

/-- Conversions: CVT from f32 to i32, CVLO and CVHI from f16 to f32, CVPK from f32 to f16. -/
theorem witness_Conversions :
    (The (bench 0x146) fun r => ∀ i ∈ [Instr.cvt 0 3 1], Runs r i ∧ (widenOf i).isSome = true) ∧
    (The (bench 0x10A) fun r => ∀ i ∈ [Instr.cvlo 0 3 1, .cvhi 0 3 1], Runs r i ∧ (widenOf i).isSome = true) ∧
    The (bench 0x148) fun r => ∀ i ∈ [Instr.cvpk 0 3 1 2], Runs r i ∧ true = true :=
  ⟨all_run (by decide), all_run (by decide), all_run (Q := fun _ => true) (by decide)⟩

/-! ### Witnesses: control flow, exceptions, system -/

/-- p1 in lanes 0 to 15. -/
def half (g : Group) : Group := { g with p := CMap.set g.p 1 0xFFFF }

/-- A second path of the group at an address. -/
def sibling (pc : BitVec 64) (s : State) : State :=
  match s.run? with
  | none => s
  | some r => s.putPath (r.key + 1) { r.path with pc := pc }

/-- BranchesCallsAndLoops: a branch that divides, into a group with path number 1 free; one that none, and one that all take; a target at the
next word and one past it; a return
stack of 31 and of 32 entries, and in handler mode of 8; RET with an entry and with none. -/
theorem witness_BranchesCallsAndLoops :
    (The (bench 2 id half) fun r => r.T ≤ 14 ∧ taken r 1 ≠ 0 ∧ r.path.mask &&& ~~~taken r 1 ≠ 0 ∧
      (List.range 32).filter (fun n => (FMap.get? (bench 2 id half).paths (32 * r.gk + n)).isNone) = (List.range 31).map (· + 1) ∧
      Before (taken r 1) (r.path.mask &&& ~~~taken r 1)) ∧
    (The (bench 2) fun r => taken r 8 = 0 ∧ taken r 0 ≠ 0 ∧ r.path.mask &&& ~~~taken r 0 = 0 ∧ stackOf r.path = [] ∧
      target r 1 = r.path.pc + 4 ∧ target r 2 ≠ r.path.pc + 4) ∧
    (The (bench 2 fun p => { p with stack := List.replicate 31 0x2000 }) fun r => (stackOf r.path).length < stackLimit r.path ∧
      stackOf r.path = 0x2000 :: List.replicate 30 0x2000) ∧
    (The (bench 2 fun p => { p with stack := List.replicate 32 0x2000 }) fun r => stackLimit r.path ≤ (stackOf r.path).length) ∧
    The (bench 2 fun p => { inHandler p with hstack := List.replicate 8 0x2000 }) fun r => stackLimit r.path ≤ (stackOf r.path).length := by
  refine ⟨?_, ?_⟩
  case refine_2 => and_intros <;> exact the_of (by decide)
  obtain ⟨r, h, p⟩ := the_of (s := bench 2 id half) (P := fun r => r.T ≤ 14 ∧ taken r 1 = 0xFFFF ∧ r.path.mask = 0xFFFFFFFF ∧
    (List.range 32).filter (fun n => (FMap.get? (bench 2 id half).paths (32 * r.gk + n)).isNone) = (List.range 31).map (· + 1)) (by decide)
  refine ⟨r, h, p.1, by rw [p.2.1]; decide, by rw [p.2.1, p.2.2.1]; decide, p.2.2.2, .inr ⟨?_, 0, ?_⟩⟩ <;> rw [p.2.1, p.2.2.1]
  · decide
  · exact ⟨by decide, by decide, by decide, fun Q h => absurd h (by omega)⟩

/-- IndirectControl: a misaligned target in lane 31, one at 2^57, and aligned ones; a free number for every further part. -/
theorem witness_IndirectControl :
    (The (bench 2 id (lanesV 2 fun L => if L = 31 then 2 else 0x2000)) fun r => r.active.getLsbD 31 = true ∧
      (r.src32 3 31 ++ r.src32 2 31).toNat % 4 ≠ 0 ∧ r.T ≤ 14 ∧ (stackOf r.path).length < stackLimit r.path) ∧
    (The (bench 2 id (lanesV 3 fun _ => 0x02000000)) fun r => r.active.getLsbD 0 = true ∧ 2 ^ 57 ≤ (r.src32 3 0 ++ r.src32 2 0).toNat) ∧
    The (bench 2 id (lanesV 2 fun L => BitVec.ofNat 32 (0x2000 + 4 * (L % 3)))) fun r =>
      (∀ L, L < 32 → r.active.getLsbD L = true → (r.src32 3 L ++ r.src32 2 L).toNat % 4 = 0 ∧ (r.src32 3 L ++ r.src32 2 L).toNat < 2 ^ 57) ∧
      lanes r.path.mask ≤ ((List.range 32).filter fun n =>
        (FMap.get? (bench 2 id (lanesV 2 fun L => BitVec.ofNat 32 (0x2000 + 4 * (L % 3)))).paths (32 * r.gk + n)).isNone).length + 1 :=
  ⟨the_of (by decide), the_of (by decide), the_of (by decide)⟩

/-- SplitsAndWaits: a path alone in its group at a JOIN, and with a sibling inside its region; counters that have and have not reached
their target; BRK with ACTIVE empty, and in and out of handler mode; an EXIT of half the lanes, and of all beside another path. -/
theorem witness_SplitsAndWaits :
    (The (bench 2) fun r => (bench 2).pathsOf r.gk = [(r.key, r.path)] ∧ (r.path.loads.map (·.id)).Nodup ∧ (0xFFFFC#20).toInt ≤ 0 ∧
      0 < (1#20).toInt) ∧
    (The (sibling 0xFF4 (bench 2)) fun r => (sibling 0xFF4 (bench 2)).pathsOf r.gk = [(r.key, r.path), (r.key + 1, { r.path with pc := 0xFF4 })] ∧
      Path.inside { r.path with pc := 0xFF4 } (target r 0xFFFFC) r.path.pc = true ∧ r.path.wait = .ready) ∧
    (The (bench 2) fun r => r.deadOf (.waitc 0xA4 0xA9) false false = 0 ∧
      (CMap.get r.gang.evc ((r.src32 0xA4 0).extractLsb' 0 8).toNat - r.src32 0xA4 0).toNat < 2 ^ 31 ∧
      ¬ (CMap.get r.gang.evc ((r.src32 0xA4 0).extractLsb' 0 8).toNat - r.src32 0xA9 0).toNat < 2 ^ 31) ∧
    (The (bench 0x8002) fun r => r.active = 0) ∧ (The (bench 2) fun r => r.active ≠ 0 ∧ r.path.inH = false) ∧
    (The (bench 2 inHandler) fun r => r.active ≠ 0 ∧ r.path.inH = true) ∧
    (The (bench 0x8002 id half) fun r => r.path.mask &&& ~~~r.active ≠ 0) ∧
    The (sibling 0x2000 (bench 2)) fun r => r.path.mask &&& ~~~r.active = 0 ∧ r.path.fails = [] ∧
      ∃ x ∈ (sibling 0x2000 (bench 2)).paths, x.1 ≠ r.key ∧ x.1 / 512 = r.wk := by
  and_intros <;> exact the_of (by decide)

/-- ExceptionEntry: a path out of handler mode whose context has a handler; causes of several lanes and levels. -/
theorem witness_ExceptionEntry :
    (The (handled (bench 2)) fun r => r.path.inH = false ∧ ((handled (bench 2)).rctx r).hentry ≠ 0) ∧
    [(⟨2, cPERMISSION, 0⟩ : LaneFault), ⟨7, cAPERTURE, 0⟩, ⟨9, cAPERTURE, 0⟩, ⟨12, cNOTPRESENT, 0⟩] ≠ [] := ⟨the_of (by decide), by decide⟩

/-- R184's example: PERMISSION in lane 2, APERTURE in lanes 7 and 9, NOTPRESENT in lane 12: APERTURE at lane 7, HLANES 0x1284. -/
theorem test_reported_cause :
    let s := handled (bench 2)
    s.run?.any (fun r => ((s.raiseLanes r [⟨2, cPERMISSION, 1⟩, ⟨7, cAPERTURE, 7⟩, ⟨9, cAPERTURE, 9⟩, ⟨12, cNOTPRESENT, 12⟩]).run?).any fun q =>
      q.path.hcause == 0x704 && q.path.hlanes == 0x1284 && q.path.haddr == 7 && q.path.inH) = true := by decide

/-- A docket of a pigeonhole's slot 1. -/
def aDocket : Docket :=
  { hole := 0, index := 0, addr := 0x1000, part := 0, ctx := 0, kind := 0, prio := 0, subv := false, pre := false, autoseal := false, entry := 0
    geom := 0, subhdr := 0, outhdr := 0, args := 0, state := 1, code := 0, seen := 0, last := none, lastFinal := false, runs := 0
    stopping := false, parcel := none }

/-- The executing path's gang started for docket 7. -/
def forDocket (s : State) : State :=
  match s.run? with
  | none => s
  | some r => { s.putGang r.gid { r.gang with src := .docket 7 } with dockets := [(7, aDocket)] }

/-- FaultWithoutHandler: no handler, a gang of a launch that is not killed; a path in handler mode; a gang of a docket that is there. -/
theorem witness_FaultWithoutHandler :
    (The (bench 2) fun r => ((bench 2).rctx r).hentry = 0 ∧ r.gang.status ≠ 4 ∧ r.gang.status ≠ 5 ∧ r.gang.src = .launch 0 ∧
      (FMap.get? (bench 2).launches 0).any (fun l => l.killed == false) = true) ∧
    (The (bench 2 inHandler) fun r => r.path.inH = true) ∧
    The (forDocket (bench 2)) fun r => r.gang.src = .docket 7 ∧ r.gang.status = 0 ∧ ((forDocket (bench 2)).rctx r).hentry = 0 ∧
      (FMap.get? (forDocket (bench 2)).dockets 7).isSome = true := by
  and_intros <;> exact the_of (by decide)

/-- ReturnFromHandler: a path out of handler mode, and one in it with its lanes and nothing logged, held or pending. -/
theorem witness_ReturnFromHandler :
    (The (bench 2) fun r => r.path.inH = false ∧ r.T ≤ 14) ∧
    The (bench 2 inHandler) fun r => r.path.inH = true ∧ r.path.hmask &&& r.path.smask &&& r.path.mask ≠ 0 ∧ (bench 2 inHandler).sidelog = [] ∧
      (∀ x ∈ (bench 2 inHandler).gangs, x.2.insts = []) ∧ r.gang.dq = [] ∧ ((bench 2 inHandler).rctx r).chg = [] :=
  ⟨the_of (by decide), the_of (by decide)⟩

/-- A gang with one deferred fault of its first path, and MAPCHG of version 2 pending. -/
def pending (s : State) : State :=
  match s.run? with
  | none => s
  | some r => (s.putGang r.gid { r.gang with dq := [⟨cNOTPRESENT, 0x40, some (r.key, r.path.born)⟩], lost := true }).putCtx 0 0 { s.ctx 0 0 with chg := [2] }

/-- AsynchronousEntry: a switch point with a fault of the path's own and MAPCHG pending; a path between two switch points, in handler mode, and one
that waits; a fault of another path that is there. -/
theorem witness_AsynchronousEntry :
    (The (pending (handled (bench 2 fun p => { p with mid := false }))) fun r =>
      let s := pending (handled (bench 2 fun p => { p with mid := false }))
      s.runAt r.key = some r ∧ s.atDelivery r.key = true ∧ (s.rctx r).hentry ≠ 0 ∧ r.path.inH = false ∧ r.path.mid = false ∧
      r.gang.dq = [⟨cNOTPRESENT, 0x40, some (r.key, r.path.born)⟩] ∧ (s.rctx r).chg = [2]) ∧
    (The (pending (handled (bench 2 inHandler))) fun r => r.path.inH = true ∧ r.path.mid = true) ∧
    (The (pending (bench 2 fun p => { p with wait := .join 0 })) fun r => (pending (bench 2 fun p => { p with wait := .join 0 })).atDelivery r.key = false) ∧
    (The (sibling 0x2000 (bench 2)) fun r => (sibling 0x2000 (bench 2)).atDelivery r.key = true ∧ r.path.mid = true ∧
      (FMap.get? (sibling 0x2000 (bench 2)).paths (r.key + 1)).map (·.born) = some 0) := by
  and_intros <;> exact the_of (by decide)

/-- SystemRegisters: each register of the table at its ends, its neighbours that name none; values gm accepts and does not; even and
odd pairs, aligned and not; handler mode. -/
theorem witness_SystemRegisters :
    (The (bench 2 inHandler (scal [(2, 0xA), (4, 0x2000), (6, 2), (8, 15)])) fun r =>
      (∀ n ∈ [0x000, 0x00A, 0x010, 0x017, 0x020, 0x027, 0x030], (sysValue (bench 2 inHandler (scal [(2, 0xA), (4, 0x2000), (6, 2), (8, 15)])) r n).isSome = true) ∧
      (∀ n ∈ [0x00B, 0x00F, 0x018, 0x01F, 0x028, 0x02F, 0x031, 0xFFFF], sysValue (bench 2 inHandler (scal [(2, 0xA), (4, 0x2000), (6, 2), (8, 15)])) r n = none) ∧
      r.T ≤ 14 ∧ r.path.inH = true ∧ (swrValue r 4 true).toNat % 4 = 0 ∧ (swrValue r 6 true).toNat % 4 ≠ 0) ∧
    srdFields 0 30 true ∧ srdFields 1 0 true ∧ srdFields 0 31 false ∧ gmAccepts 0xA ∧ gmAccepts 0x0500518E ∧ ¬ gmAccepts 15 ∧
    (The (bench 2) fun r => r.path.inH = false) :=
  ⟨the_of (by decide), ⟨by decide, by decide, by decide⟩, ⟨by decide, by decide, by decide⟩, ⟨by decide, by decide, by decide⟩,
    ⟨by decide, by decide, by decide, by decide, by decide⟩, ⟨by decide, by decide, by decide, by decide, by decide⟩,
    fun h => absurd h.1 (by decide), the_of (by decide)⟩

/-- Context 0 with a ring of two syscall records at 0x8000 holding n. -/
def ringed (n : BitVec 32) (s : State) : State := s.putCtx 0 0 { s.ctx 0 0 with syslog := 1, syshead := n, sysbase := 0x8000 }

/-- SyscallsAndMapChanges: no ring, a full one, one with room whose record can be written; ACTIVE empty; a parked path; a path at MAPACK in
handler mode and one out of it; the current version and another. -/
theorem witness_SyscallsAndMapChanges :
    (The (bench 2) fun r => r.active ≠ 0 ∧ ((bench 2).rctx r).syslog = 0 ∧ r.deadOf (.mapack 0xA9) false false = 0 ∧ r.path.inH = false) ∧
    (The (bench 0x8002) fun r => r.active = 0) ∧
    (The (ringed 2 (bench 2)) fun r => ((ringed 2 (bench 2)).rctx r).syslog ≠ 0 ∧
      (((ringed 2 (bench 2)).rctx r).syshead - ((ringed 2 (bench 2)).rctx r).systail).toNat = 2 ^ ((ringed 2 (bench 2)).rctx r).syslog) ∧
    (The (ringed 1 (warm (bench 2))) fun r => r.active ≠ 0 ∧
      (((ringed 1 (warm (bench 2))).rctx r).syshead - ((ringed 1 (warm (bench 2))).rctx r).systail).toNat < 2 ^ ((ringed 1 (warm (bench 2))).rctx r).syslog ∧
      ((ringed 1 (warm (bench 2))).wroteAddr r.gang.part r.gang.ctx (((ringed 1 (warm (bench 2))).rctx r).sysbase +
        BitVec.ofNat 64 (64 * (((ringed 1 (warm (bench 2))).rctx r).syshead.toNat % 2 ^ ((ringed 1 (warm (bench 2))).rctx r).syslog)))
        (sysRecord r (((ringed 1 (warm (bench 2))).rctx r).syshead + 1) 5 ((List.range 8).map r.group.sreg))).1 = true ∧
      SyscallRecord r (((ringed 1 (warm (bench 2))).rctx r).syshead + 1) 5
        (sysRecord r (((ringed 1 (warm (bench 2))).rctx r).syshead + 1) 5 ((List.range 8).map r.group.sreg))) ∧
    (bench 2).mgmt.needsReset = false ∧ (mgd (fun m => { m with needsReset := true }) (bench 2)).mgmt.needsReset = true ∧
    (The (awoken { bench 2 with parked := [((bench 2).cur, 3, ctxKey 0 0)] }) fun r => (bench 2).cur = r.key ∧ ((bench 2).ctx 0 0).swapst = 0) ∧
    Hosted (awoken { bench 2 with parked := [((bench 2).cur, 3, ctxKey 0 0)] }) 0 ∧
    (The (bench 2 fun p => { inHandler p with wait := .mapack 1 }) fun r => r.path.inH = true ∧ r.path.wait = .mapack 1 ∧ r.path.mask ≠ 0 ∧
      (1 : BitVec 32) = (bench 2).mgmt.mapver ∧ (2 : BitVec 32) ≠ (bench 2).mgmt.mapver) := by
  simp only [SyscallRecord]
  and_intros <;> first
    | exact the_of (by decide)
    | decide

/-- R281's example: loop s3 with 2 goes to its target 12 bytes earlier, with 1 falls through. -/
theorem test_loop_example :
    sees (exec (.loop 3 0xFFFFD) (bench 2 id (scal [(3, 2)]))) (fun _ r => r.path.pc == 0xFF4 && r.group.sreg 3 == 1) = true ∧
    sees (exec (.loop 3 0xFFFFD) (bench 2 id (scal [(3, 1)]))) (fun _ r => r.path.pc == 0x1004 && r.group.sreg 3 == 0) = true := by decide

/-- R278, R280: a call pushes PC + 4; a return goes there. -/
theorem test_call_and_return :
    sees (exec (.call 0 0x10) (bench 2)) (fun _ r => r.path.pc == 0x1040 && r.path.stack == [0x1004]) = true ∧
    sees (exec .ret (bench 2 fun p => { p with stack := [0x3000] })) (fun _ r => r.path.pc == 0x3000 && r.path.stack == []) = true := by decide

/-- R185: an illegal word with a handler at 0x1000 enters it with HPC, HMODE and every latch dead; without one the launch is killed. -/
theorem test_illegal_entry :
    sees (exec (.mshape 3 1) (handled (bench 10 fun p => { p with pc := 0x1040, live := [(0, 1)] }))) (fun _ r => r.path.inH && r.path.hpc == 0x1040 &&
      r.path.hmode == 10 && r.path.pc == 0x1000 && r.path.gm == 2 && r.path.live == [] && r.path.hcause == 1) = true ∧
    gives (exec (.mshape 3 1) (bench 10)) (fun t => t.paths.isEmpty && (FMap.get? t.launches 0).any (·.killed)) = true := by decide

/-- R329: SWR of HENTRY's like registers outside handler mode is illegal; of AFLAGS it writes seven bits. -/
theorem test_swr :
    sees (exec (.swr 2 0x00A) (bench 2 id (scal [(2, 0xFFFFFFFF)]))) (fun _ r => r.group.aflags == 0x7F && r.path.pc == 0x1004) = true ∧
    sees (exec (.swr 2 0x009) (handled (bench 2 id (scal [(2, 1)])))) (fun _ r => r.path.inH && r.path.hcause == 1) = true := by decide

/-! ### Witnesses: memory -/

/-- OnChipMemory: accesses that end at the limit of each space; a quad; atomics on 32 and 64 bits; nothing tagged. -/
theorem witness_OnChipMemory :
    ((bench 3).reqs = [] ∧ ∀ tags, (scratch0 tags (bench 2)).reqs = []) ∧
    (The (scratch0 [] (bench 2 id (lanesV 1 fun L => BitVec.ofNat 32 (32 * L)))) fun r =>
      let s := scratch0 [] (bench 2 id (lanesV 1 fun L => BitVec.ofNat 32 (32 * L)))
      (r.legal (.sts 8 1 28) (fun t => decide (t ≤ 14)) false false false = true ∧ r.deadOf (.sts 8 1 28) false false = 0) ∧
      (∀ l ∈ r.path.loads, l.id ≠ s.uid) ∧
      ∀ L, L < 32 → r.active.getLsbD L = true →
        0 ≤ offset r ⟨.S, false, 0, 8, 1, 28⟩ L ∧ offset r ⟨.S, false, 0, 8, 1, 28⟩ L + chipBytes r ⟨.S, false, 0, 8, 1, 28⟩ ≤ s.spLimit r .S ∧
        offset r ⟨.S, false, 0, 8, 1, 28⟩ L % 4 = 0 ∧ (offset r ⟨.S, false, 0, 8, 1, 28⟩ L).toNat / 1024 = 0 ∧ CMap.get r.wg.pages 0 = 1 ∧
        tagged (s.slocTags (r.sloc .S)) (offset r ⟨.S, false, 0, 8, 1, 28⟩ L).toNat (chipBytes r ⟨.S, false, 0, 8, 1, 28⟩) = false) ∧
    (The (bench 3) fun r => ∀ c ∈ [(Chip.mk .L false 0 8 0xA4 56), ⟨.C, false, 0, 8, 0xA4, 127⟩, ⟨.K, false, 0, 8, 0xA4, 120⟩],
      ∀ L, L < 32 → r.active.getLsbD L = true → 0 ≤ offset r c L ∧ offset r c L + chipBytes r c ≤ (bench 3).spLimit r c.sp) ∧
    (The (bench 3) fun r => ∀ i ∈ [Instr.ldl 0 8 0xA4 56, .ldc 0 8 0xA4 127, .ldk 0 8 0xA4 120, .lds 0 8 0xA4 0, .ldsq 0 8 0xA4 0],
      r.legal i (fun t => decide (t ≤ 14)) (tyIs64 r.T) false false = true ∧ r.deadOf i false false = 0 ∧ (chipLoad i).isSome = true) ∧
    (The (bench 3) fun r => ∀ i ∈ [Instr.stl 8 0xA4 56, .stc 8 0xA4 127, .stk 8 0xA4 120, .sts 8 0xA4 0, .stsq 8 0xA4 0],
      r.legal i (fun t => decide (t ≤ 14)) (tyIs64 r.T) false false = true ∧ r.deadOf i false false = 0 ∧ (chipStore i).isSome = true) ∧
    The (bench 3) fun r => ∀ i ∈ [Instr.atsAdd 0 8 0xA4 0, .atsMin 0 8 0xA4 0, .atsMax 0 8 0xA4 0, .atsAnd 0 8 0xA4 0, .atsOr 0 8 0xA4 0,
        .atsXor 0 8 0xA4 0, .atsXch 0 8 0xA4 0, .atsCas 0 8 0xA4 0, .atcAdd 0 8 0xA4 0, .atcCas 0 8 0xA4 0, .reds 8 0xA4 0],
      (chipAtomic i).any (fun x => r.legal i x.2.1.acc (tyIs64 r.T) false false && (x.2.1 != .cas || x.1.d.toNat % 4 == 0)) = true := by
  and_intros
  case refine_1.refine_1 => decide
  case refine_1.refine_2 => exact fun tags => rfl
  all_goals exact the_of (by decide)

/-- Translation: an address under aperture 0, one under none and one at 2^57; a cached entry that grants; no cached entry under a table and
under PTROOT zero; an entry with a reserved bit; an anonymous page with an empty ring and with a frame. -/
theorem witness_Translation :
    let s := bench 2
    let anon := { ((s.putPart 0 { s.part 0 with ftlog := 4, ftbase := 0x40000, fttail := 1 }) : State) with
      mem := Memory.write (Memory.write s.mem 0x20000 16 (1 + 0x30000 * 2 ^ 64)) 0x30000 16 0x4E }
    aperCovers 1 0x1000 = true ∧ aperCovers 1 0x40000000 = false ∧ (∀ n, n < 8 → aperCovers (CMap.get [(0, (1 : BitVec 64))] n) 0x40000000 = false) ∧
    (FMap.get? (warm s).tlb (0 * 2 ^ 36 + 0x1000 / 65536)) = some 0x1000000F ∧
    leafOut s.mgmt (0x1000000F &&& ~~~0x10000000) true 0x1000 .wr = .ok 0x1000 0xF true ∧
    (0xF#128).getLsbD 0 = true ∧ s.mgmt.frameRetired 0x1000 = false ∧ aperFind [(0, (1 : BitVec 64))] 0x1000 = some (aperMap 1 0x1000) ∧
    FMap.get? s.tlb (tlbKey 0 0x1000) = none ∧ (State.reset.part 0).ptroot = 0 ∧
    freshWalk (Memory.write s.mem 0x20000 16 0x1000000F) 0x10000 0x1000 = .format (some 0x1000000F) ∧
    freshWalk anon.mem 0x10000 0x1000 = .leaf 0x4E 0x30000 false ∧ (0x4E#128).getLsbD 0 = false ∧ (0x4E#128).getLsbD 6 = true ∧
    (anon.part 0).ftlog ≠ 0 ∧ (anon.part 0).fthead ≠ (anon.part 0).fttail ∧ (s.part 0).fthead = (s.part 0).fttail := by decide

/-- Page 0 cached as a page of q4x with its scale bytes from 0 on. -/
def q4xPage (s : State) : State := { s with tlb := [(tlbKey 0 0, 0x11C0000F)] }

/-- GlobalLoads: each load of the table, of lanes that end at the end of their page, under b32 and b64; eight elements of a q4x page under
f16, a stored scale byte for each lane; q4x codes with escapes. -/
theorem witness_GlobalLoads :
    (The (warm (bench 2 id (lanesV 2 fun L => if L = 0 then 0xFFFC else BitVec.ofNat 32 (0x1000 + 4 * L)))) fun r =>
      let s := warm (bench 2 id (lanesV 2 fun L => if L = 0 then 0xFFFC else BitVec.ofNat 32 (0x1000 + 4 * L)))
      (∀ l ∈ r.path.loads, l.id ≠ s.uid) ∧ quiet s ∧
      (∀ i ∈ [Instr.ldg 0 8 2 0, .ldga 0 8 2 0, .ldgs 0 8 2 0], r.legal i (fun t => decide (t ≤ 14)) (tyIs64 r.T) false false = true ∧ (gLoadOf i).isSome = true) ∧
      ∀ L, L < 32 → r.active.getLsbD L = true → cached s r .rd (gAddr r 2 0 L) (fmtSpan r.T (entFmt 0xF) 1) (gAddr r 2 0 L).toNat 0xF = true ∧
        (gAddr r 2 0 L).toNat % tyBytes r.T = 0 ∧ (0xF#128).getLsbD 8 = false) ∧
    (The (warm (bench 3 id (lanesV 2 fun L => BitVec.ofNat 32 (0x1000 + 16 * L)))) fun r =>
      r.legal (.ldgq 0 8 2 0) (fun t => decide (t ≤ 14)) (tyIs64 r.T) false false = true ∧
      ∀ L, L < 32 → r.active.getLsbD L = true →
        cached (warm (bench 3 id (lanesV 2 fun L => BitVec.ofNat 32 (0x1000 + 16 * L)))) r .rd (gAddr r 2 0 L) (fmtSpan r.T (entFmt 0xF) 2) (gAddr r 2 0 L).toNat 0xF = true ∧
        (gAddr r 2 0 L).toNat % fmtSpan r.T (entFmt 0xF) 2 = 0) ∧
    (The (q4xPage (bench 8 id (lanesV 2 fun L => BitVec.ofNat 32 (0x1000 + 4 * L)))) fun r =>
      let s := q4xPage (bench 8 id (lanesV 2 fun L => BitVec.ofNat 32 (0x1000 + 4 * L)))
      r.legal (.ldgq 0 8 2 0) (fun t => decide (t ≤ 14)) (tyIs64 r.T) false false = true ∧ entFmt 0x1C0000F = 14 ∧ r.T = 8 ∧
      ∀ L, L < 32 → r.active.getLsbD L = true →
        cached s r .rd (gAddr r 2 0 L) (fmtSpan r.T 14 8) (gAddr r 2 0 L).toNat 0x1C0000F = true ∧ (gAddr r 2 0 L).toNat % fmtSpan r.T 14 8 = 0 ∧
        (match s.scaleByte (some r.gk) r.gang.part (gAddr r 2 0 L).toNat 0x1C0000F none with
          | (.ok (some (v, [])), t) => decide (v = (CMap.get s.mem (0x100 + L / 4)).toNat ∧ t = s)
          | _ => false) = true) ∧
    (Raw 2 0 ∧ ¬ Raw 10 8 ∧ ¬ Raw 8 14 ∧ (∀ i, (fun i : Nat => if i % 4 = 0 then 8 else 3) i < 16)) :=
  ⟨the_of (by decide), the_of (by decide), the_of (by decide), by simp [Raw], by simp [Raw], by simp [Raw],
    fun i => by dsimp only; split <;> omega⟩

/-- Lanes at the words of the last 128 bytes of the cached page. -/
def lastWords : State := warm (bench 2 id (lanesV 2 fun L => BitVec.ofNat 32 (0xFF80 + 4 * L)))

/-- GlobalStores: each store of the table, of lanes at distinct addresses of a cached page, one at its end. -/
theorem witness_GlobalStores :
    The lastWords fun r => FreshUid lastWords r ∧ Quiet lastWords ∧ r.path.fails = [] ∧
      (∀ i ∈ [Instr.stg 8 2 0, .stgr 8 2 0, .stgs 8 2 0],
        r.legal i (fun t => decide (t ≤ 14)) (tyIs64 r.T) false false = true ∧ (gStoreOf i).isSome = true) ∧
      ∀ L, On r L → Cached lastWords r .wr (gAddr r 2 0 L) 4 (gAddr r 2 0 L).toNat 0xF ∧ (0xF#128).getLsbD 8 = false ∧ (gAddr r 2 0 L).toNat % 4 = 0 :=
  The.imp (show The lastWords fun r => (∀ l ∈ r.path.loads, l.id ≠ lastWords.uid) ∧ quiet lastWords ∧ r.path.fails = [] ∧
      (∀ i ∈ [Instr.stg 8 2 0, .stgr 8 2 0, .stgs 8 2 0],
        r.legal i (fun t => decide (t ≤ 14)) (tyIs64 r.T) false false = true ∧ (gStoreOf i).isSome = true) ∧
      ∀ L, L < 32 → r.active.getLsbD L = true → cached lastWords r .wr (gAddr r 2 0 L) 4 (gAddr r 2 0 L).toNat 0xF = true ∧
        (gAddr r 2 0 L).toNat % 4 = 0 from the_of (by decide))
    fun _ h => ⟨h.1, h.2.1, h.2.2.1, h.2.2.2.1, fun L o =>
      ⟨cached_sound (h.2.2.2.2 L o.1 o.2).1, by decide, (h.2.2.2.2 L o.1 o.2).2⟩⟩

/-- STGQ: lanes at quads of the cached page. -/
theorem witness_GlobalStores_quad :
    The (warm (bench 2 id (lanesV 2 fun L => BitVec.ofNat 32 (0xFE00 + 16 * L)))) fun r =>
      r.legal (.stgq 8 2 0) (fun t => decide (t ≤ 14)) (tyIs64 r.T) false false = true ∧ (gStoreOf (.stgq 8 2 0)).isSome = true ∧
      ∀ L, L < 32 → r.active.getLsbD L = true →
        cached (warm (bench 2 id (lanesV 2 fun L => BitVec.ofNat 32 (0xFE00 + 16 * L)))) r .wr (gAddr r 2 0 L) 16 (gAddr r 2 0 L).toNat 0xF = true ∧
        (gAddr r 2 0 L).toNat % 16 = 0 := the_of (by decide)

/-- The atomics of global memory. -/
def gAtomics : List Instr := [.atgAdd 0 8 2 0, .atgMin 0 8 2 0, .atgMax 0 8 2 0, .atgAnd 0 8 2 0, .atgOr 0 8 2 0, .atgXor 0 8 2 0, .atgXch 0 8 2 0,
  .atgCas 0 8 2 0, .atgsAdd 0 8 2 0, .atgsCas 0 8 2 0]

/-- GlobalAtomics: every atomic of the table, on the words of the page's last 128 bytes. -/
theorem witness_GlobalAtomics :
    The lastWords fun r => FreshUid lastWords r ∧ Quiet lastWords ∧
      (∀ i ∈ gAtomics, (gAtomicOf i).any (fun x => r.legal i x.2.1.acc (tyIs64 r.T) false false && (x.2.1 != .cas || x.1.d.toNat % 2 == 0)) = true) ∧
      r.legal (.redg 8 2 0) accAtomic (tyIs64 r.T) false false = true ∧
      ∀ L, On r L → Cached lastWords r .rmw (gAddr r 2 0 L) (tyBytes r.T) (gAddr r 2 0 L).toNat 0xF ∧
        Cached lastWords r .wr (gAddr r 2 0 L) (tyBytes r.T) (gAddr r 2 0 L).toNat 0xF ∧ (gAddr r 2 0 L).toNat % 4 = 0 :=
  The.imp (show The lastWords fun r => (∀ l ∈ r.path.loads, l.id ≠ lastWords.uid) ∧ quiet lastWords ∧
      (∀ i ∈ gAtomics, (gAtomicOf i).any (fun x => r.legal i x.2.1.acc (tyIs64 r.T) false false && (x.2.1 != .cas || x.1.d.toNat % 2 == 0)) = true) ∧
      r.legal (.redg 8 2 0) accAtomic (tyIs64 r.T) false false = true ∧
      ∀ L, L < 32 → r.active.getLsbD L = true → cached lastWords r .rmw (gAddr r 2 0 L) (tyBytes r.T) (gAddr r 2 0 L).toNat 0xF = true ∧
        cached lastWords r .wr (gAddr r 2 0 L) (tyBytes r.T) (gAddr r 2 0 L).toNat 0xF = true ∧ (gAddr r 2 0 L).toNat % 4 = 0 from the_of (by decide))
    fun _ h => ⟨h.1, h.2.1, h.2.2.1, h.2.2.2.1, fun L o => ⟨cached_sound (h.2.2.2.2 L o.1 o.2).1, cached_sound (h.2.2.2.2 L o.1 o.2).2.1, (h.2.2.2.2 L o.1 o.2).2.2⟩⟩

/-- Lanes 1 and 3 ACTIVE, every lane at 0x1000. -/
def twoLanes : State := warm (bench 0x8002 id fun g => lanesV 2 (fun _ => 0x1000) { g with p := [(1, 0xA)] })

/-- The next element of a long instruction that packs. -/
def packed (r : Run) (L : Nat) : BitVec 64 :=
  gAddr r 2 0 (lowLane r.active) + BitVec.ofNat 64 ((((lanesOf r.active).filter fun Q => decide (Q < L)).length) * tyBytes r.T)

/-- LongInstructions: lanes 1 and 3 ACTIVE, no unit done, at one address or at consecutive elements from 0x1000 on. -/
theorem witness_LongInstructions :
    The twoLanes fun r => Quiet twoLanes ∧ r.path.pix = 0 ∧ r.active = 0xA ∧
      (∀ i ∈ [Instr.gath 0 8 2 0, .ldge 0 8 2 0, .scat 8 2 0, .stgc 8 2 0], r.legal i (fun t => decide (t ≤ 14)) (tyIs64 r.T) false false = true) ∧
      ∀ L, On r L → ∀ nd ∈ [Need.rd, .wr], Cached twoLanes r nd (gAddr r 2 0 L) (tyBytes r.T) 0x1000 0xF ∧
        Cached twoLanes r nd (packed r L) (tyBytes r.T) (if L = 1 then 0x1000 else 0x1004) 0xF ∧ Raw r.T (entFmt 0xF) :=
  The.imp (show The twoLanes fun r => quiet twoLanes ∧ r.path.pix = 0 ∧ r.active = 0xA ∧
      (∀ i ∈ [Instr.gath 0 8 2 0, .ldge 0 8 2 0, .scat 8 2 0, .stgc 8 2 0], r.legal i (fun t => decide (t ≤ 14)) (tyIs64 r.T) false false = true) ∧
      r.T ≤ 3 ∧ ∀ L, L < 32 → r.active.getLsbD L = true → ∀ nd ∈ [Need.rd, .wr], cached twoLanes r nd (gAddr r 2 0 L) (tyBytes r.T) 0x1000 0xF = true ∧
        cached twoLanes r nd (packed r L) (tyBytes r.T) (if L = 1 then 0x1000 else 0x1004) 0xF = true from the_of (by decide))
    fun _ h => ⟨h.1, h.2.1, h.2.2.1, h.2.2.2.1, fun L o nd k =>
      ⟨cached_sound (h.2.2.2.2.2 L o.1 o.2 nd k).1, cached_sound (h.2.2.2.2.2 L o.1 o.2 nd k).2, .inl h.2.2.2.2.1⟩⟩

/-- Lane 5 alone ACTIVE, at a page that the table does not map. -/
def atMissing : State := handled (warm (bench 0x8002 id fun g => lanesV 2 (fun _ => 0x200000) { g with p := [(1, 0x20)] }))

/-- A logged store of a group. -/
def oneEntry (group path : Nat) : LogEntry :=
  { core := 0, group := group, path := path, part := 0, ctx := 0, ia := 0, va := 0, bytes := [], red := false, width := 0, ty := 0 }

/-- FencesAndFetch: a store to a page that is not present; a fence with nothing outstanding, beside a logged store of the group, and with a
failure that is posted and one that its instruction reported; a path that waits in a fence; PAUSE of 0 and of 1, and a path in it before and at its count. -/
theorem witness_FencesAndFetch :
    (The atMissing fun r => r.legal (.stg 8 2 0) (fun t => decide (t ≤ 14)) (tyIs64 r.T) false false = true ∧ r.active = 1#32 <<< 5 ∧
      ((atMissing.pieces r.path.aper r.gang.part .wr 3 (gAddr r 2 0 5).toNat (tyBytes r.T)) =
        ([.bad cNOTPRESENT 0x200000 4 false none], atMissing)) ∧ quiet atMissing ∧
      0x200000 % 64 + tyBytes r.T ≤ 64 ∧ r.gang.dq = [] ∧ (atMissing.rctx r).hentry ≠ 0) ∧
    (The (bench 2) fun r => (∀ k ∈ [0, 1, 2], r.legal (.fence k 0x81 4) (fun t => decide (t ≤ 14)) false false false = true) ∧
      quiet (bench 2) ∧ r.path.fails = [] ∧ r.deadOf (.pause 0xA9) false false = 0 ∧
      ((r.src32 0xA9 (lowLane r.path.mask)).extractLsb' 0 16).toNat = 1 ∧ ((r.src32 0xA4 (lowLane r.path.mask)).extractLsb' 0 16).toNat = 0) ∧
    (The { bench 2 with sidelog := [oneEntry 0 0] } fun r => ∃ l ∈ [oneEntry 0 0], l.group = r.gk) ∧
    (∀ posted : Bool, The (bench 2 fun p => { p with fails := [⟨0, 0x23, 0x40, none, posted⟩] }) fun r => (0x81#8).getLsbD 7 = true ∧
      r.path.fails = [⟨0, 0x23, 0x40, none, posted⟩]) ∧
    (The (bench 2 fun p => { p with wait := .fence 1 0x81 [] }) fun r => r.path.wait = .fence 1 0x81 [] ∧ r.path.fails = []) ∧
    (The (bench 2 fun p => { p with wait := .pause 0 }) fun r => r.path.wait = .pause 0 ∧ 0 ≤ ((bench 2).core r.wg.core).cycles) ∧
    The (bench 2 fun p => { p with wait := .pause 1 }) fun r => r.path.wait = .pause 1 ∧ ((bench 2).core r.wg.core).cycles < 1 := by
  and_intros <;> first
    | exact the_of (by decide)
    | (intro posted; cases posted <;> exact the_of (by decide))

/-- R294, R292: a store of two bytes and the load that follows it; the register takes the value when the load returns. -/
theorem test_store_then_load :
    let s := scratch0 [] (bench 2 (fun p => { p with mask := 1 }) (lane0 [(1, 0x20), (3, 0x11223344)]))
    gives (exec (.sts 3 1 4) s) (fun t => gives (exec (.lds 0 5 1 4) t) fun u => gives (exec (.loadReturn u.cur t.uid) u) fun v =>
      (v.run?).any fun r => r.group.vreg 5 0 == 0x11223344 && r.path.pc == 0x1008) = true := by decide

/-- R91, R184: a store past the end of scratch faults SCRATCH_BOUND with its exact offset. -/
theorem test_scratch_bound :
    sees (exec (.sts 3 1 0) (handled (scratch0 [] (bench 2 (fun p => { p with mask := 1 }) (lane0 [(1, 1021)])))))
      (fun _ r => r.path.inH && r.path.hcause == 8 && r.path.haddr == 1021) = true := by decide

/-- R299: two lanes add to one word in ascending order; lane 1 reads what lane 0 left. -/
theorem test_atomic_order :
    let s := warm (bench 2 (fun p => { p with mask := 3 }) fun g => lanesV 2 (fun _ => 0x4000) (lanesV 8 (fun _ => 5) g))
    gives (exec (.atgAdd 0 8 2 0) s) (fun t => Memory.read t.mem 0x4000 4 == 10 && gives (exec (.loadReturn t.cur s.uid) t) fun u =>
      (u.run?).any fun r => r.group.vreg 8 0 == 0 && r.group.vreg 8 1 == 5) = true := by decide

/-- R103: a store under no aperture faults APERTURE. R107: one to a page without W PERMISSION. -/
theorem test_translation_faults :
    sees (exec (.stg 8 2 0) (handled (warm (bench 2 id (lanesV 2 fun _ => 0x40000000))))) (fun _ r => r.path.hcause == 4 && r.path.haddr == 0x40000000) = true ∧
    sees (exec (.stg 8 2 0) (handled { bench 2 id (lanesV 2 fun _ => 0x40) with mem := Memory.write (bench 2).mem 0x20000 16 7 }))
      (fun _ r => r.path.hcause == 5) = true := by decide

/-! ### Witnesses: engines and tasks -/

/-- Barrier words 0 and 8 of cluster memory: their tags and values. -/
def barred (w : BitVec 64) (tags : CMap 1) (s : State) : State :=
  match s.run? with
  | none => s
  | some r => s.putGang r.gid { r.gang with ctags := tags, cmem := Memory.write [] 0 8 w.toNat }

/-- A second group's path that waits in BWAIT for phase 1 of word 0 of cluster memory. -/
def waiter (s : State) : State :=
  match s.run? with
  | none => s
  | some r => (s.putGroup (r.gk + 1) r.group).putPath (r.key + 32) { r.path with wait := .bwait [(0, 0x80000000, 1)] }

/-- Barriers: words of cluster memory in bounds and aligned, untagged and tagged, before and past phase 1; ACTIVE empty; no waiter and one; the
word of an operand in each space. -/
theorem witness_Barriers :
    (The (bench 2 id (lanesV 1 fun _ => 0x80000000)) fun r =>
      (∀ i ∈ [Instr.binit 1 0xA9, .barv 1 0, .bexp 1 0xA9, .binv 1 0, .btest 3 1 0xA9, .bwait 1 0xA9],
        r.legal i (fun t => decide (t ≤ 14)) false false false = true ∧ r.deadOf i false false = 0) ∧
      (∀ i ∈ [Instr.binit 1 0xA9, .barv 1 0, .bexp 1 0xA9, .binv 1 0], (barrierOf r i).isSome = true) ∧
      (∀ x ∈ (bench 2).paths, x.2.wait = .ready) ∧ quiet (bench 2) ∧
      ∀ L, L < 32 → r.active.getLsbD L = true → barAt (r.src32 1 L) 0 = (.C, 0) ∧
        (bench 2).barTag (barLoc r 1 0 L).1 (barLoc r 1 0 L).2 = false ∧ 8 ≤ (bench 2).spLimit r .C) ∧
    (The (barred 0x0100040010000000 [(0, 1)] (bench 2 id (lanesV 1 fun _ => 0x80000000))) fun r =>
      (barred 0x0100040010000000 [(0, 1)] (bench 2 id (lanesV 1 fun _ => 0x80000000))).barTag (barLoc r 1 0 0).1 (barLoc r 1 0 0).2 = true ∧
      ((barOf ((barred 0x0100040010000000 [(0, 1)] (bench 2)).barWord (barLoc r 1 0 0).1 (barLoc r 1 0 0).2)).phase - 1).toNat < 64 ∧
      ¬ ((barOf ((barred 0x0100040010000000 [(0, 1)] (bench 2)).barWord (barLoc r 1 0 0).1 (barLoc r 1 0 0).2)).phase - 2).toNat < 64) ∧
    (The (bench 0x8002) fun r => r.active = 0) ∧
    (The (waiter (barred 0x0000040010000000 [(0, 1)] (bench 2 id (lanesV 1 fun _ => 0x80000000)))) fun r =>
      ((waiter (barred 0x0000040010000000 [(0, 1)] (bench 2 id (lanesV 1 fun _ => 0x80000000)))).runAt (r.key + 32)).any
        (fun r2 => r2.gk != r.gk && r2.path.wait == .bwait [(0, 0x80000000, 1)]) = true) ∧
    barAt 0x00000008 0xF8 = (.S, 0) ∧ barAt 0xC0000010 0 = (.K, 16) ∧ barAt 0xBFFFFFF8 0 = (.C, 0x3FFFFFF8) := by
  and_intros <;> first
    | exact the_of (by decide)
    | decide

/-- R310, R312's example: BINIT with 1, BEXP of 4,096, BARV, then the copy's −4,096 completes the phase. -/
theorem test_barrier_example :
    let w := (⟨0, 1, 1, 0⟩ : Bar)
    w.word = 0x0000040010000000 ∧ ({ w with pend := w.pend + 0x1000 } : Bar).tested.word = 0x0000040010001000 ∧
    ({ w with pend := 0x1000, arr := w.arr - 1 } : Bar).tested.word = 0x0000040000001000 ∧
    ({ w with pend := 0, arr := 0 } : Bar).tested.word = 0x0100040010000000 ∧
    sees (exec (.barv 1 0) (barred 0x0000040010001000 [(0, 1)] (bench 2 (fun p => { p with mask := 1 }) (lane0 [(1, 0x80000000)]))))
      (fun s r => s.barWord (.cluster 0) 0 == 0x0000040000001000 && r.group.pred 7 == 1) = true := by decide

/-- A copy of 64 bytes inside cluster memory, released at 1 and then at every 2, three times. -/
def aCopy : CopyEntry :=
  { srcsp := 2, dstsp := 2, decode := false, tgt := 3, rank := 0, dtype := 0, reps := 3, release := 1, every := 2, event := 4, x := 64, y := 1
    z := 1, srcsy := 0, dstsy := 0, srcsz := 0, dstsz := 0, srcadv := 0, dstadv := 64, src := 0, dst := 0x100, taddr := 0 }

/-- A copy under way. -/
def anInst (held : Bool) : Inst :=
  { id := 9, entry := 0, k := 0, held := held, wr := false, pos := 0, pend := 0, code := 0, buf := [], fmts := [] }

/-- The gang changed. -/
def ganged (f : Gang → Gang) (s : State) : State :=
  match s.run? with
  | none => s
  | some r => s.putGang r.gid (f r.gang)

/-- Copies: CSTEP by 2 with a release at 1 that it passes, beside a logged store and with ACTIVE empty; CSTAT; an instance that was just
released and one that is held; a logged store whose page is there. -/
theorem witness_Copies :
    (The (ganged (fun g => { g with sched := [aCopy] }) (bench 2 id (lanesV 1 fun _ => 2))) fun r =>
      r.legal (.cstep 1) (fun t => decide (t ≤ 14)) false false false = true ∧ r.deadOf (.cstep 1) false false = 0 ∧ r.active ≠ 0 ∧ uniOf r 1 = 2 ∧
      r.gang.stageCtr.toNat < releaseAt aCopy 0 ∧ releaseAt aCopy 0 ≤ 2 ∧ r.gang.sched = [aCopy] ∧
      r.legal (.cstat 0 30) (fun t => decide (t ≤ 14)) false false false = true ∧ quiet (bench 2)) ∧
    ((bench 2).mgmt.needsReset = false ∧ (∀ x ∈ (bench 2).gangs, x.2.insts = []) ∧
      ({ warm (bench 2) with sidelog := [] }.walkFresh 0 0 .wr false false).2.gangs = (bench 2).gangs ∧ (0xF#128).getLsbD 8 = false) ∧
    (The { bench 2 with sidelog := [oneEntry 0 0] } fun r => ∃ l ∈ [oneEntry 0 0], l.group = r.gk) ∧ (The (bench 0x8002) fun r => r.active = 0) ∧
    (The (ganged (fun g => { g with sched := [aCopy], insts := [anInst false] }) (bench 2)) fun r => r.gang.status = 0 ∧
      r.gang.insts[0]? = some (anInst false) ∧ r.gang.sched[0]? = some aCopy ∧ (aCopy.dst.toNat : Int) + aCopy.x ≤ 4096 * r.gang.clunits ∧
      r.gang.ctags = [] ∧ (∀ x ∈ (bench 2).paths, x.2.wait = .ready) ∧ ((FMap.get? (bench 2).wgs r.wk).isSome = true ∧ r.wk / 8 = r.gid)) ∧
    NotBegun (anInst false) ∧ NotBegun (anInst true) ∧
    ({ warm (bench 2) with sidelog := [] }.walkFresh 0 0 .wr false false).1 = .ok 0 0xF true ∧ (oneEntry 0 0).red = false ∧
    (FMap.get? (bench 2).gangs (0 / 128)).any (fun g => g.status != 5) = true := by
  and_intros <;> first
    | exact the_of (by decide)
    | decide

/-- R164, R308: CSTEP by 3 releases two copies; the first moves its bytes and counts its event. -/
theorem test_copy_released :
    let s := ganged (fun g => { g with sched := [aCopy], cmem := [(5, 0xAB)] }) (bench 2 (fun p => { p with mask := 1 }) (lane0 [(1, 3)]))
    gives (exec (.cstep 1) s) (fun t => (FMap.get? t.gangs 0).any (fun g => g.insts.length == 2 && g.stageCtr == 3) &&
      gives (exec (.courierInstanceDone 0 0) t) fun u => (FMap.get? u.gangs 0).any fun g =>
        CMap.get g.cmem 0x105 == 0xAB && CMap.get g.evc 4 == 1 && g.insts.length == 1) = true := by decide

/-- Scratch page 0 resident with page counts. -/
def pinned (n : BitVec 8) (s : State) : State :=
  match s.run? with
  | none => s
  | some r => s.putWg r.wk { r.wg with pages := [(0, 1)], pins := CMap.set [] 0 n, frames := [(0, 0)] }

/-- A gang of two workgroups at RROT, the other of which waits there already or has not arrived. -/
def twoWgs (arrived : Bool) (s : State) : State :=
  match s.run? with
  | none => s
  | some r => (((((s.putGang r.gid { r.gang with nwg := 2 }).putWg r.wk { r.wg with pages := [(0, 1)] }).putWg (r.wk + 1) { r.wg with core := 1, pages := [(0, 1)] }).putGroup
      (16 * (r.wk + 1)) r.group).putPath (32 * (16 * (r.wk + 1))) { r.path with wait := if arrived then .coll (.rrot 0x80 0x84) else .ready })

/-- PinsAndRingRotation: a range in and out of the allocation, of no bytes, with ACTIVE empty; a count that may rise and one at 255; a rotation
of 64 bytes in which the partner has arrived, and in which it has not. -/
theorem witness_PinsAndRingRotation :
    (The (pinned 0 (bench 2 id (lanesV 1 fun _ => 1024))) fun r =>
      (∀ i ∈ [Instr.sppin 0xA4 1, .sprel 0xA4 1], r.legal i (fun t => decide (t ≤ 14)) false false false = true ∧ r.deadOf i false false = 0) ∧
      (uniOf r 0xA4).toNat + (uniOf r 1).toNat ≤ 1024 * r.wg.spages ∧ (uniOf r 1).toNat ≠ 0 ∧ (uniOf r 0xA4).toNat = 0 ∧
      1024 * r.wg.spages < (uniOf r 0xA9).toNat + (uniOf r 1).toNat ∧ CMap.get r.wg.pages 0 = 1 ∧ r.active ≠ 0 ∧
      pinnedFrames (pinned 0 (bench 2)) r.wg.core = [] ∧ newPins (pinned 0 (bench 2)) r 0 1024 = [0] ∧ CMap.get r.wg.pins 0 ≠ 255) ∧
    (The (pinned 255 (bench 2)) fun r => CMap.get r.wg.pins 0 = 255) ∧ (The (bench 0x8002) fun r => r.active = 0) ∧
    (The (twoWgs true (bench 2 id (scal [(4, 64), (1, 128)]))) fun r =>
      r.legal (.rrot 0x80 0x84) (fun t => decide (t ≤ 14)) false false false = true ∧ r.deadOf (.rrot 0x80 0x84) false false = 0 ∧
      (twoWgs true (bench 2 id (scal [(4, 64), (1, 128)]))).pathsOf r.gk = [(r.key, r.path)] ∧ r.gang.nwg = 2 ∧ r.path.pix = 0 ∧
      (r.src32 0x84 0).toNat = 64 ∧ (r.group.sreg 0).toNat = 0 ∧ (r.group.sreg 1).toNat = 128 ∧ r.wg.spages = 1 ∧ r.wg.tags = [] ∧ r.wg.rot = [] ∧
      (twoWgs true (bench 2 id (scal [(4, 64), (1, 128)]))).reqs = [] ∧
      (((twoWgs true (bench 2 id (scal [(4, 64), (1, 128)]))).runAt (32 * (16 * (8 * r.gid + 1)))).any fun q =>
        q.path.wait == .coll (.rrot 0x80 0x84) && q.path.pix == 0 && q.wg.tags == [] && q.wg.rot == [] && (q.src32 0x84 0).toNat == 64) = true) ∧
    (The (twoWgs false (bench 2 id (scal [(4, 64)]))) fun r =>
      ((twoWgs false (bench 2 id (scal [(4, 64)]))).pathsOf (16 * (8 * r.gid + 1))).map (·.2.wait) = [.ready]) := by
  and_intros <;> exact the_of (by decide)

/-- MatrixMultiply: f16 with N = 1 and f8a with N = 4, the registers at the ends of their range; i32, N = 0 and N = 5 not allowed. -/
theorem witness_MatrixMultiply :
    (The (bench 0x00080008) fun r => r.T = 8 ∧ gmN r.path.gm = 1 ∧ gmM r.path.gm = 0 ∧ (bench 0x00080008).pathsOf r.gk = [(r.key, r.path)] ∧ r.path.pix = 0 ∧
      (r.path.loads.map (·.id)).Nodup) ∧
    (The (bench 0x0020000C) fun r => r.T = 12 ∧ gmN r.path.gm = 4 ∧ gmM r.path.gm = 0 ∧ 0 + 8 ≤ 40 ∧ 96 + 8 * 4 ≤ 128 ∧ 8 + 8 * 4 ≤ 40) ∧
    (The (bench 0x00080006) fun r => ¬(r.T = 8 ∨ r.T = 9 ∨ r.T = 12 ∨ r.T = 13)) ∧ (The (bench 8) fun r => ¬ 1 ≤ gmN r.path.gm) ∧
    (The (bench 0x00280008) fun r => ¬ gmN r.path.gm ≤ 4) :=
  ⟨the_of (by decide), the_of (by decide), the_of (by decide), the_of (by decide), the_of (by decide)⟩

/-- Pigeonhole 0 of partition 0, of two slots in host memory at 0x1000, of context 0, with n dockets in it. -/
def holed (n : BitVec 32) (s : State) : State :=
  (s.putPart 0 { s.part 0 with phmask := [(0, 1)] }).putHole 0 { base := 0x8000000000001000, log := 1, tail := n }

theorem docketAt_none {s : State} (h : s.dockets = []) (part ctx : Nat) (va : BitVec 64) (m : CMap 8) :
    ({ s with mem := m } : State).docketAt part ctx va = none := by simp [State.docketAt, h]

/-- DocketCommands: pigeonhole 0 usable, with room for one docket and full; a pigeonhole that is disabled, and number 256; a path of one lane
whose docket image, or whose pending docket, lies at 0x1000. -/
theorem witness_DocketCommands :
    (The (holed 1 (warm (bench 2 (fun p => { p with mask := 1 }) (lane0 [(2, 0x1000), (5, 256)])))) fun r =>
      let s := holed 1 (warm (bench 2 (fun p => { p with mask := 1 }) (lane0 [(2, 0x1000), (5, 256)])))
      (∀ i ∈ [Instr.spawn 2 0xA4, .comp 0 30 2 0xA4, .tdep 2 0xA9, .tsig 2], r.legal i (fun t => decide (t ≤ 14)) false false false = true ∧
        r.deadOf i false false = 0) ∧ quiet s ∧ s.hostErr = false ∧ r.active = 1 ∧ s.dockets = [] ∧ (s.hole 0).log ≤ 16 ∧
      ¬(256 ≤ (uniOf r 0xA4).toNat ∨ (s.hole 0).log = 0 ∨ (s.hole 0).hostfed = true ∨ s.holeOwner 0 ≠ some r.gang.part ∨ (s.hole 0).ctx ≠ r.gang.ctx) ∧
      (s.hole 1).log = 0 ∧ 256 ≤ (uniOf r 5).toNat ∧ ((s.hole 0).tail - (s.hole 0).head).toNat + 1 ≤ 2 ^ (s.hole 0).log ∧ (s.hole 0).base.msb = true ∧
      (s.hole 0).base.toNat % 2 ^ 63 + 64 * 2 ^ (s.hole 0).log ≤ 2 ^ 63 ∧
      ∀ L, L < 32 → r.active.getLsbD L = true → (cached s r .rd (pairOf r 2 L) 64 0x1000 0xF && cached s r .rmw (pairOf r 2 L) 64 0x1000 0xF) = true ∧
        (pairOf r 2 L).toNat % 64 = 0) ∧
    (The (holed 2 (bench 2)) fun _ => 2 ^ ((holed 2 (bench 2)).hole 0).log < (((holed 2 (bench 2)).hole 0).tail - ((holed 2 (bench 2)).hole 0).head).toNat + 1) ∧
    (The ((warm (bench 2 (fun p => { p with mask := 1 }) (lane0 [(2, 0x1000)]))).putDocket 7 aDocket) fun r =>
      let s := (warm (bench 2 (fun p => { p with mask := 1 }) (lane0 [(2, 0x1000)]))).putDocket 7 aDocket
      s.docketAt r.gang.part r.gang.ctx aDocket.addr = some (7, aDocket) ∧ pairOf r 2 0 = aDocket.addr ∧ lowLane r.active = 0 ∧
      BitVec.ofNat 32 (Memory.read s.mem 0x1004 4) + (lanesOf r.active).foldl (fun x _ => x + 0) 0 = 0 ∧
      s.dockets = [(7, aDocket)] ∧ aDocket.state = 1 ∧ aDocket.subv = false ∧ r.active = 1 ∧ r.path.aper = (s.rctx r).aper ∧ r.path.held = none) := by
  and_intros <;> exact the_of (by decide)

/-- The launch's chip scratchpad holding a header with a postmark at 0, in a group that is none. -/
def headed (h : Nat) (s : State) : State :=
  { s with launches := s.launches.map fun x => (x.1, { x.2 with chip := Memory.write [] 0 64 h }) }

/-- PostmarksAndHeaderEvents: headers in the chip scratchpad and in global memory without subscribers: open, sealed, at postmark 2^31; a
docket of each kind of state with a fire owed and not. -/
theorem witness_PostmarksAndHeaderEvents :
    (The (headed (0xFFFF * 2 ^ 256 + 5) (bench 2)) fun r =>
      let s := headed (0xFFFF * 2 ^ 256 + 5) (bench 2)
      (∀ i ∈ [Instr.post 0xA4 1 0, .post 0xA4 1 1, .seal 0xA4 1, .pmrk 0 30 0xA4 1], r.legal i (fun t => decide (t ≤ 14)) false false false = true ∧
        r.deadOf i false false = 0) ∧ quiet s ∧ r.active ≠ 0 ∧ (r.path.aper = (s.rctx r).aper ∧ r.path.held = none) ∧
      s.selv.lender = [] ∧ s.selv.notices = [] ∧ s.owing = [] ∧ r.gang.src = .launch 0 ∧ (uniOf r 0xA4).toNat = 0 ∧
      (FMap.get? s.launches 0).any (fun la => decide (64 ≤ 1024 * la.record.chip) &&
        BitVec.ofNat 512 (Memory.read la.chip 0 64) == BitVec.ofNat 512 (0xFFFF * 2 ^ 256 + 5)) = true) ∧
    (The (warm (bench 2 id (lane0 [(2, 0x4000)]))) fun r =>
      let s := warm (bench 2 id (lane0 [(2, 0x4000)]))
      (∀ i ∈ [Instr.post 2 0 0, .post 2 0 1, .seal 2 0, .pmrk 0 30 2 0], r.legal i (fun t => decide (t ≤ 14)) false false false = true) ∧ s.dockets = [] ∧
      cached s r .rmw (pairOf r 2 (lowLane r.active)) 64 0x4000 0xF = true ∧ (pairOf r 2 (lowLane r.active)).toNat % 64 = 0 ∧
      BitVec.ofNat 512 (Memory.read s.mem 0x4000 64) = 0) ∧
    (let h : BitVec 512 := 0x1FFFF#512 <<< 256 ||| 5
     h.getLsbD 32 = false ∧ h.getLsbD 34 = false ∧ (h.extractLsb' 0 32).toNat = 5 ∧ (h.extractLsb' 256 16).toNat = 0xFFFF ∧
     (0x100000005#512).getLsbD 32 = true ∧ ((0x80000000#512).extractLsb' 0 32).toNat = 2 ^ 31) ∧
    (let owed := fun (d : Docket) (h : BitVec 512) => d.last.getD 0 ≠ h.extractLsb' 0 32 ∨ (h.getLsbD 32 = true ∧ d.lastFinal = false)
     owed { aDocket with state := 4 } 5 ∧ ¬ owed { aDocket with state := 4, last := some 5 } 5 ∧ owed { aDocket with state := 3, pre := true } 5 ∧
     owed aDocket 0x100000000 ∧ FMap.get? (State.reset.putDocket 7 aDocket).dockets 7 = some aDocket) := by
  refine ⟨?_, ?_, by decide, by decide⟩ <;> exact the_of (by decide)

/-- R157: the first POST of a header makes postmark 1 in slot 1; a sealed tile refuses the status form with code 0x10. -/
theorem test_post :
    gives (exec (.post 0xA4 1 0) (headed 0 (bench 2))) (fun t => (FMap.get? t.launches 0).any fun l => Memory.read l.chip 0 8 == 0x200000001) = true ∧
    sees (exec (.post 0xA4 1 1) (headed (2 ^ 32) (bench 2))) (fun _ r => r.group.pred 7 == 0 && r.path.lstat == 0x10) = true := by decide

/-- A context whose settle groups lie in host memory at 0x100. -/
def grouped (s : State) : State := s.putCtx 0 0 { s.ctx 0 0 with sgn := 2, sgbase := 0x8000000000000100 }

/-- An accepted docket at 0x1000, a header at 0x4000 whose list of one entry at 0x5000 holds x. -/
def listed (x : Nat) : State :=
  let s := (warm (bench 2 id (lane0 [(2, 0x4000), (4, 0x1000)]))).putDocket 7 aDocket
  { s with mem := Memory.write (Memory.write s.mem 0x4000 64 (0x5000 * 2 ^ 192 + 2 ^ 272)) 0x5000 8 x }

/-- SubscriptionsAndSettling: no docket at the address, and one that is accepted, with a header whose list is empty, full, and has room; a group
at SGN, and the last group below it with UNSETTLED 0 and 3, in host memory and in global memory. -/
theorem witness_SubscriptionsAndSettling :
    (The (warm (bench 2 id (lane0 [(2, 0x4000), (4, 0x1000)]))) fun r =>
      let s := warm (bench 2 id (lane0 [(2, 0x4000), (4, 0x1000)]))
      (r.legal (.subs 2 4) (fun t => decide (t ≤ 14)) false false false = true ∧ r.deadOf (.subs 2 4) false false = 0) ∧ quiet s ∧
      (r.path.aper = (s.rctx r).aper ∧ r.path.held = none) ∧ r.active ≠ 0 ∧
      (cached s r .rmw (pairOf r 2 (lowLane r.active)) 64 0x4000 0xF && cached s r .rmw (pairOf r 4 (lowLane r.active)) 64 0x1000 0xF) = true ∧
      s.docketAt r.gang.part r.gang.ctx (pairOf r 4 (lowLane r.active)) = none ∧
      (s.putDocket 7 aDocket).docketAt r.gang.part r.gang.ctx (pairOf r 4 (lowLane r.active)) = some (7, aDocket) ∧
      (BitVec.ofNat 512 (Memory.read s.mem 0x4000 64)).extractLsb' 272 16 = 0) ∧
    (∀ x ∈ [0, 0x1001], The (listed x) fun r =>
      (listed x).docketAt r.gang.part r.gang.ctx (pairOf r 4 (lowLane r.active)) = some (7, aDocket) ∧ aDocket.part = r.gang.part ∧
      aDocket.ctx = r.gang.ctx ∧ aDocket.addr = pairOf r 4 (lowLane r.active) ∧ aDocket.state = 1 ∧ aDocket.subv = false ∧ quiet (listed x) ∧
      (BitVec.ofNat 512 (Memory.read (listed x).mem 0x4000 64)).extractLsb' 272 16 = 1 ∧
      (BitVec.ofNat 512 (Memory.read (listed x).mem 0x4000 64)).extractLsb' 192 64 = 0x5000 ∧
      cached (listed x) r .rmw 0x5000 8 0x5000 0xF = true ∧ Memory.read (listed x).mem 0x5000 8 = x) ∧
    (The ((warm (bench 2)).putCtx 0 0 { (bench 2).ctx 0 0 with sgn := 2, sgbase := 0x4000 }) fun r =>
      let s := (warm (bench 2)).putCtx 0 0 { (bench 2).ctx 0 0 with sgn := 2, sgbase := 0x4000 }
      ((uniOf r 0xA9).extractLsb' 0 16).toNat < (s.rctx r).sgn ∧ cached s r .rd ((s.rctx r).sgbase + 16) 4 0x4010 0xF = true ∧
      Memory.read s.mem 0x4010 4 = 0) ∧ (grouped (bench 2)).hostErr = false ∧
    (The (grouped (bench 2)) fun r => ((grouped (bench 2)).rctx r).sgn = 2 ∧ ((uniOf r 0xA9).extractLsb' 0 16).toNat = 1 ∧
      ((grouped (bench 2)).rctx r).sgbase.msb = true ∧ Memory.read (grouped (bench 2)).hostMem 0x110 4 = 0 ∧
      Memory.read (Memory.write (grouped (bench 2)).hostMem 0x110 4 3) 0x110 4 ≠ 0 ∧ r.legal (.settle 0xA9 1) (fun t => decide (t ≤ 14)) false false false = true) ∧
    (The (bench 2) fun r => ((bench 2).rctx r).sgn ≤ ((uniOf r 0xA4).extractLsb' 0 16).toNat) := by
  and_intros <;> first
    | exact the_of (by decide)
    | decide
    | (intro x h
       simp only [List.mem_cons, List.not_mem_nil, or_false] at h
       obtain rfl | rfl := h <;> exact the_of (by decide))

/-- A list of a workgroup. -/
def aList (wg : Option Nat) : LoomList :=
  { addr := 0x4000, part := 0, ctx := 0, wg := wg, docket := none, banks := [], acc := none, cmd := 0, step := 0, fmt := false, ended := false, code := 0 }

/-- Core 0 changed. -/
def cored (f : Core → Core) (s : State) : State := s.putCore 0 (f (s.core 0))

/-- The workgroup holds banks 0 and 1. -/
def banked (s : State) : State :=
  match s.run? with
  | none => s
  | some r => s.putWg r.wk { r.wg with acc := some ⟨[0, 1], [(1, 1)], [(4096, 7)]⟩ }

/-- LoomQueueAndBanks: an aligned and an unaligned list, a queue of seven and of eight; counts of 0, 1, 16 and 17; a request already queued; banks
held and none, with and without a list of the workgroup. -/
theorem witness_LoomQueueAndBanks :
    (The (bench 2 id (lane0 [(2, 0x4000), (4, 0x4010), (6, 16), (7, 17)])) fun r =>
      (∀ i ∈ [Instr.lque 2, .lque 4, .aalloc 6], r.legal i (fun t => decide (t ≤ 14)) false false false = true ∧ r.deadOf i false false = 0) ∧
      r.active ≠ 0 ∧ (pairOf r 2 (lowLane r.active)).toNat % 32 = 0 ∧ (pairOf r 4 (lowLane r.active)).toNat % 32 ≠ 0 ∧
      (r.src32 6 0).toNat = 16 ∧ 16 < (r.src32 7 0).toNat ∧ (r.src32 0xA4 0).toNat = 0 ∧ r.wg.acc = none ∧ r.wk < 2 ^ 80 ∧
      quiet (bench 2) ∧ ((bench 2).core r.wg.core).loom = [] ∧
      ((bench 2).core r.wg.core).bankQueue = [] ∧ ∀ b, b < 16 → FMap.get? ((bench 2).core r.wg.core).bankOwner b = none) ∧
    FreeBanks (bench 2) 0 (List.range 16) ∧ (The { bench 2 with sidelog := [oneEntry 0 0] } fun r => ∃ l ∈ [oneEntry 0 0], l.group = r.gk) ∧
    ((cored (fun c => { c with loom := List.replicate 8 (aList (some 0)) }) (bench 2)).core 0).loom.length = 8 ∧
    ((cored (fun c => { c with loom := List.replicate 7 (aList (some 0)) }) (bench 2)).core 0).loom.length < 8 ∧
    (The (cored (fun c => { c with bankQueue := [(5, 16)], bankOwner := [(0, 5)] }) (bench 2)) fun r =>
      ((cored (fun c => { c with bankQueue := [(5, 16)], bankOwner := [(0, 5)] }) (bench 2)).core r.wg.core).bankQueue ≠ []) ∧
    (The (banked (bench 2)) fun r => r.wg.acc ≠ none ∧ ∀ l ∈ loomOf (banked (bench 2)) r.wg.core, l.wg ≠ some r.wk) ∧
    (The (cored (fun c => { c with loom := [aList (some 0)] }) (banked (bench 2))) fun r => r.wg.acc ≠ none ∧
      ∃ l ∈ loomOf (cored (fun c => { c with loom := [aList (some 0)] }) (banked (bench 2))) r.wg.core, l.wg = some r.wk) := by
  refine ⟨the_of (by decide), ⟨by decide, fun b => ?_⟩, ?_⟩
  case refine_2 =>
    and_intros <;> first
      | exact the_of (by decide)
      | decide
  have h : ∀ b, FMap.get? ((bench 2).core 0).bankOwner b = none := fun b => by
    have e : ((bench 2).core 0).bankOwner = [] := by decide
    rw [e]; rfl
  exact ⟨fun hb => ⟨List.mem_range.1 hb, h b⟩, fun hb => List.mem_range.2 hb.1⟩

/-- AccumulatorImages: one of two banks held; a count of 0, of 17, and a bank beyond the allocation; the first units of an image in the cached page. -/
theorem witness_AccumulatorImages :
    (The (banked (warm (bench 2 id (lane0 [(2, 0x1000), (3, 0), (6, 0x10), (7, 0x110)])))) fun r =>
      let s := banked (warm (bench 2 id (lane0 [(2, 0x1000), (3, 0), (6, 0x10), (7, 0x110)])))
      (∀ i ∈ [Instr.adrn 0 5 2 6, .afil 2 6], r.legal i (fun t => decide (t ≤ 14)) false false false = true ∧ r.deadOf i false false = 0) ∧
      quiet s ∧ r.active ≠ 0 ∧ r.path.pix = 0 ∧ bankFirst r 6 = 0 ∧ bankCount r 6 = 1 ∧ bankCount r 7 = 17 ∧ bankCount r 3 = 0 ∧
      bankFirst r 6 + bankCount r 6 ≤ (r.wg.acc.map fun x => x.banks.length).getD 0 ∧ (pairOf r 2 (lowLane r.active)).toNat % 16 = 0 ∧
      (∀ l ∈ loomOf s r.wg.core, l.wg ≠ some r.wk) ∧
      ∀ u, u < 8 → (cached s r .wr (pairOf r 2 (lowLane r.active) + BitVec.ofNat 64 (16 * u)) 16 (0x1000 + 16 * u) 0xF) = true) ∧
    (The (bench 2) fun r => r.wg.acc = none) := ⟨the_of (by decide), the_of (by decide)⟩

/-- A trace of the path with one ray. -/
def aTrace (path : Nat) : Trace := { id := 3, path := path, event := 5, load := 3, rays := [(0, 0, 0x4000)] }

/-- Trace 3 of the path under way, lane 0's record awaited in v4 to v7. -/
def tracing : State := ganged (fun g => { g with traces := [aTrace 0] }) (bench 2 fun p => { p with
  loads := [{ id := 3, wr := true, status := true, hold := false, lanes := [{ lane := 0, reg := 4, nreg := 4, data := 0 }] }] })

/-- Rays: headers aligned and mapped, unaligned, beyond 2^57; ACTIVE empty; a logged store; a trace of the path in flight; a header whose page
lacks R; records of a hit alone, of a portal alone and of both, either one nearer. -/
theorem witness_Rays :
    (The (bench 2 id (lanesV 8 fun _ => 0x4000)) fun r =>
      (r.legal (.trace 0 20 0 0xA9) (fun t => decide (t ≤ 14)) false false false = true ∧ r.deadOf (.trace 0 20 0 0xA9) false false = 0) ∧ r.active ≠ 0 ∧
      (bench 2).tracesOn r.wg.core < 64 ∧
      ∀ L, L < 32 → r.active.getLsbD L = true → (headerOf r 0 L).toNat % 64 = 0 ∧ (headerOf r 0 L).toNat < 2 ^ 57 ∧ aperFind r.path.aper (headerOf r 0 L).toNat ≠ none) ∧
    quiet (bench 2) ∧ (The { bench 2 with sidelog := [oneEntry 0 0] } fun r => ∃ l ∈ [oneEntry 0 0], l.group = r.gk) ∧
    (The (bench 2 id (lanesV 8 fun L => if L = 31 then 8 else 0x4000)) fun r => r.active.getLsbD 31 = true ∧ (headerOf r 0 31).toNat % 64 ≠ 0) ∧
    (The (bench 2 id (lanesV 9 fun _ => 0x02000000)) fun r => 2 ^ 57 ≤ (headerOf r 0 0).toNat) ∧ (The (bench 0x8002) fun r => r.active = 0) ∧
    (The tracing fun r => r.gang.status = 0 ∧ r.gang.halted = false ∧ tracing.mgmt.needsReset = false ∧
      r.gang.traces[0]? = some (aTrace 0) ∧ (aTrace 0).path = r.key ∧ (r.gang.traces.map (·.id)).Nodup ∧ tracing.pathsOf r.gk = [(r.key, r.path)] ∧
      tracing.wgs.map (·.1) = [r.wk] ∧ r.wk / 8 = r.gid ∧ r.key / 512 = r.wk ∧
      (r.path.loads.filter fun l => l.id == 3).map (fun l => (l.mute, l.lanes.map fun y => (y.lane, y.skip))) = [(false, [(0, [])])] ∧
      r.path.mask.getLsbD 0 = true ∧ (aTrace 0).rays.map (·.1) = [0]) ∧
    (match ({ bench 2 with mem := Memory.write (bench 2).mem 0x20000 16 0xB } : State).rayRead 0 0 0 0x4000 64 with
      | (.error c, _) => c == cPERMISSION
      | _ => false) = true ∧
    (∀ f ∈ [({} : Found), { hit := some (0x3F800000, 7, 0) }, { portal := some (0x3F800000, 9) }], f.hit = none ∨ f.portal = none) ∧
    FV.cmp? (fmtF32.decode 0x3F800000) (fmtF32.decode 0x40000000) = some .lt ∧
    FV.cmp? (fmtF32.decode 0x40000000) (fmtF32.decode 0x3F800000) ≠ some .lt ∧
    (ganged (fun g => { g with traces := List.replicate 64 (aTrace 0) }) (bench 2)).tracesOn 0 = 64 := by
  and_intros <;> first
    | exact the_of (by decide)
    | decide

/-- Parcels can go to package 5. -/
def granted (f : Nat) (s : State) : State := { s with selv := { s.selv with credits := FMap.set [] 5 (2, f) } }

/-- A registration with two senders. -/
def aReg (busy : List Nat) : PReg := { slots := 0x8000, hole := 0, prio := 1, entry := 0, geom := 0, grants := [(9, 0, 2), (10, 2, 2)], busy := busy }

/-- A registration record of two grants for pigeonhole 0, its table in host memory. -/
def aRecord : Nat := 0x8000 + 2 ^ 72 + 0x8000000000002000 * 2 ^ 256 + 2 * 2 ^ 320

/-- The record at 0x1000 of host memory, whose table at 0x2000 names senders 9 and x. -/
def registering (x : Nat) : State :=
  { holed 0 (awoken State.reset) with
    hostMem := Memory.write (Memory.write [] 0x1000 64 aRecord) 0x2000 8 (0x10009 + x * 2 ^ 32) }

/-- Parcels: one lane whose destination has a credit, has none left, has no grant, and whose HOPS is 255; a logged store; a registration with a free
slot, and none. -/
theorem witness_Parcels :
    (The (granted 1 (bench 2 (fun p => { p with mask := 1 }) (lane0 [(40, 5)]))) fun r =>
      (r.legal (.psend 16 40) (fun t => decide (t ≤ 14)) false false false = true ∧ r.deadOf (.psend 16 40) false false = 0) ∧ (granted 1 (bench 2)).mgmt.selvDown = false ∧
      r.active = 1 ∧ parcelFail (granted 1 (bench 2)) r 16 40 0 = none ∧ quiet (granted 1 (bench 2)) ∧
      ((FMap.get? (granted 1 (bench 2)).selv.credits ((r.src32 40 0).extractLsb' 0 16).toNat).map (·.2)).getD 0 = 1 ∧
      ((FMap.get? (granted 0 (bench 2)).selv.credits ((r.src32 40 0).extractLsb' 0 16).toNat).map (·.2)).getD 0 = 0) ∧
    (The (bench 2) fun r => parcelFail (bench 2) r 16 40 0 = some 0x22) ∧ (The (bench 2 id (lane0 [(25, 0xFF0000)])) fun r => parcelFail (bench 2) r 16 40 0 = some 0x21) ∧
    (The (bench 0x8002) fun r => r.active = 0) ∧
    (The { bench 2 with sidelog := [oneEntry 0 0] } fun r => ∃ l ∈ [oneEntry 0 0], l.group = r.gk) ∧
    (let g := aReg [2]
     let s := (holed 0 (warm (bench 2))).putCtx 0 0 { (bench 2).ctx 0 0 with reg := some g }
     s.mgmt.selvDown = false ∧ s.hostErr = false ∧ (s.ctx 0 0).reg = some g ∧ g.prio < 4 ∧ g.grants.find? (fun x => x.1 == 10) = some (10, 2, 2) ∧
     2 + 1 ∉ g.busy ∧ 2 + 0 ∈ g.busy ∧ (s.wroteVA 0 0 2 (0x8000 + 64 * 3) (List.replicate 64 0)).1 = true ∧ (s.hole 0).base.msb = true ∧
     (s.hole 0).base.toNat % 2 ^ 63 + 64 * 2 ^ (s.hole 0).log ≤ 2 ^ 63 ∧ (s.hole 0).log = 1 ∧
     ((s.hole 0).tail - (s.hole 0).head).toNat < 2 ^ (s.hole 0).log ∧ g.grants.find? (fun x => x.1 == 8) = none) ∧
    ((bench 2).ctx 0 0).reg = none := by
  and_intros <;> first
    | exact the_of (by decide)
    | decide

/-- Parcels, the registrations: a function that is there and one that is not; a record in host memory. -/
theorem witness_Parcels_record :
    Hosted (registering 10) 0 ∧ (bench 2).mgmt.started = false ∧ (registering 10).vfEn = false ∧
    (BitVec.ofNat 512 aRecord).extractLsb' 256 64 = 0x8000000000002000 ∧ ((BitVec.ofNat 512 aRecord).extractLsb' 320 13).toNat = 2 ∧
    (∀ x ∈ [10, 0x20009], Memory.read (registering x).hostMem 0x1000 64 = aRecord) := by
  refine ⟨⟨?_, ?_⟩, ?_⟩ <;> decide

/-- The record's table: it names two senders, or one twice. -/
theorem witness_Parcels_table : ∀ x ∈ [10, 0x20009],
    [0, 1].map (fun i => Memory.read (registering x).hostMem (0x2000 + 4 * i) 4) = [0x10009, x] := by decide

/-- The record's pigeonhole is the context's; a withdrawal with and without a slot in use and a record to follow. -/
theorem witness_Parcels_registration :
    (∀ x ∈ [10, 0x20009], let s := registering x
      s.hostErr = false ∧ (s.hole 0).hostfed = false ∧ s.holeOwner 0 = some 0 ∧ (s.hole 0).ctx = 0) ∧
    (∀ f v busy, let c := { State.reset.ctx 0 0 with reg := some (aReg busy), regNext := f, prstat := 3, preg := v }
      (State.reset.putCtx 0 0 c).ctx 0 0 = c) := by
  refine ⟨by decide, fun f v busy => rfl⟩

/-! ### Witnesses: the host's side, the package and the step -/

/-- StartUpAndAttestation: before start-up and after it, the last cluster still asleep, no reset owed; a ramp stage of 0 and of 4; firmware at
each status, its image fetched and not; no report made, one in the making, leaves and none; images 1 and 8; a host bus that answers and one
that does not. -/
theorem witness_StartUpAndAttestation :
    let m := State.reset.mgmt
    m.started = false ∧ m.fwstat = 0 ∧ m.fwstat ≠ 2 ∧ m.attst ≠ 1 ∧ m.attst ≠ 4 ∧ m.leaves ≠ 0 ∧ (State.reset.core 0).ramp = 0 ∧
    (mgd (fun m => { m with started := true, awake := 23, fwstat := 2, attst := 1 }) State.reset).mgmt.started = true ∧
    (mgd (fun m => { m with started := true, awake := 23 }) State.reset).mgmt.awake < 24 ∧ m.needsReset = false ∧
    (mgd (fun m => { m with fwstat := 2, leaves := 0 }) State.reset).mgmt.fwstat = 2 ∧ (mgd (fun m => { m with leaves := 0 }) State.reset).mgmt.leaves = 0 ∧
    ((mgd (fun m => { m with attst := 4 }) State.reset).mgmt.attst = 1 ∨ (mgd (fun m => { m with attst := 4 }) State.reset).mgmt.attst = 4) ∧
    State.reset.hostErr = false ∧ { State.reset with hostErr := true }.hostErr = true ∧
    (mgd (fun m => { m with fwstat := 2, image := some [] }) State.reset).mgmt.image = some [] ∧ m.image = none ∧
    1 ≤ 8 ∧ ((State.reset.putCore 3 { State.reset.core 3 with ramp := 4 }).core 3).ramp ≠ 0 := by decide

/-- A package without spare channels in stack 7, and without spare ways in slice 47. -/
def spent : State := mgd (fun m => { (m.setChan 270 2).setChan 271 2 with l2Ent := [(47, 0x1FFFF)] }) State.reset

/-- DegradationSteps: units at the ends of their numbering with a spare free and without one, a core that drains beside an active spare. -/
theorem witness_DegradationSteps :
    Live.package State.reset ∧ coreState State.reset.mgmt 237 ≠ 2 ∧ (State.reset.mgmt.core 237).getLsbD (24 + 3) = false ∧
    coreState State.reset.mgmt 0 = 0 ∧ State.reset.gangsOn ((State.reset.mgmt.core 0).extractLsb' 16 8).toNat = [] ∧
    (let s := mgd (fun m => m.setCore 230 (withState (m.core 230) 3)) State.reset
     coreState s.mgmt 230 = 3 ∧ (s.core ((s.mgmt.core 230).extractLsb' 16 8).toNat).loom = [] ∧ s.gangsOn ((s.mgmt.core 230).extractLsb' 16 8).toNat = [] ∧ coreState s.mgmt (10 * (230 / 10) + 8) = 1 ∧
     ∀ j, j < 8 → coreState s.mgmt (10 * (230 / 10) + j) ≠ 1) ∧
    chanState State.reset.mgmt (34 * 7 + 31) = 0 ∧ chanState State.reset.mgmt (34 * 7 + 32) = 1 ∧ (∀ j, j < 32 → chanState State.reset.mgmt (34 * 7 + j) ≠ 1) ∧
    Live.package spent ∧ chanState spent.mgmt (34 * 7 + 31) = 0 ∧ (∀ j, j < 34 → chanState spent.mgmt (34 * 7 + j) ≠ 1) ∧
    State.reset.mgmt.l2 47 = 0xFFFF ∧ State.reset.mgmt.isl (120 + 4 * (47 / 12) + 47 % 12 / 3) ≠ 2 ∧ (spent.mgmt.l2 47).getLsbD 16 = true ∧
    (spent.mgmt.l2 47).getLsbD 0 = true ∧ ((State.reset.mgmt.port 7).extractLsb' 0 2).toNat = 0 ∧
    (((mgd (fun m => { m with portEnt := [(7, 1)] }) State.reset).mgmt.port 7).extractLsb' 0 2).toNat = 1 ∧ State.reset.mgmt.isl 151 ≠ 2 ∧
    (State.reset.ctx 8 63).grace = false ∧ State.reset.swaps = [] ∧ State.reset.gangsOf 8 63 = [] ∧
    (let c := (State.reset.putCtx 8 63 { State.reset.ctx 8 63 with grace := true, acked := 0 }).ctx 8 63
     c.grace = true ∧ c.swapst = 0 ∧ c.acked ≠ State.reset.mgmt.mapver) := by
  simp only [Live.package]; decide

/-- A link of the state changed. -/
def linked (l : Nat) (f : Link → Link) (s : State) : State := s.putLink l (f (s.link l))

/-- A posted store under way on link 15. -/
def aReq (kind : Nat) (sent : Bool) (id : Nat) (covers : List Nat) : Req :=
  { id := id, path := 0, kind := kind, group := 0, link := 15, tag := 3, gen := 9, va := 0x40, addr := 0x40, len := 8, data := 7, op := 0, load := 0
    lane := 0, off := 0, sent := sent, covers := covers, tainted := false }

/-- Flit 9, awaiting its acknowledgement, refused n times. -/
def aFlit (n : Nat) : RetryFlit := { seq := 9, fails := n }

/-- Link 15 with slot 1 loaded, flit 9 not acknowledged, and more changed. -/
def keyed (f : Link → Link) : Link :=
  (linked 15 (fun k => f { k with slot1 := { k.slot1 with loaded := true, rxlast := some 5 }, retry := [aFlit 0] }) State.reset).link 15

/-- Links: signals at PAM4 and NRZ with the spare lane free and in use; a posted store and held flags that cover it and not, tainted and not; a counter
above the last and one equal to it; flits to send again and none, refused up to the seventh time and beyond; key slots loaded, full and not, at rest and
switching. -/
theorem witness_Links :
    (let s := State.reset
     let nrz := fun (b : BitVec 32) => mgd (fun m => { m with linkEnt := [(15, 1 + b * 128)] }) s
     Live.package s ∧ s.reqs = [] ∧ ((s.mgmt.linkE 15).extractLsb' 0 2).toNat = 0 ∧ (((nrz 0).mgmt.linkE 15).extractLsb' 0 2).toNat = 1 ∧
     ((nrz 0).mgmt.linkE 15).getLsbD 7 = false ∧ ((nrz 1).mgmt.linkE 15).getLsbD 7 = true ∧ (((nrz 1).mgmt.linkE 15).extractLsb' 0 2).toNat = 1 ∧
     (let t := linked 15 (fun k => { k with retraining := true, pam4 := true }) s
      (t.link 15).pam4 = true ∧ (t.link 15).retry = [] ∧ Idle t 15) ∧
     (let t := linked 15 (fun k => { k with retraining := true }) s
      (t.link 15).retraining = true ∧ (t.link 15).pam4 = false ∧ (t.link 15).retry = [] ∧ Idle t 15) ∧
     (let t := linked 15 (fun k => { k with retraining := true, retry := [aFlit 0, { seq := 10, due := true }] }) s
      let k := t.link 15
      k.retraining = true ∧ k.pam4 = false ∧ k.keyheld = false ∧ k.signal ≠ 2 ∧ (k.retry.map (·.seq)).Nodup ∧ NoWarning k k.retry.length ∧ Idle t 15)) ∧
    (let q := { aReq 1 true 4 [] with left := true }
     let s := { bench 2 with reqs := [q] }
     s.reqs = [q] ∧ (FMap.get? s.paths q.path).isSome = true ∧ q.kind = 1 ∧ q.sent = true ∧ q.left = true ∧ q.load = 0 ∧ q.more = [] ∧
     q.covers = [] ∧ q.link < 16 ∧ q.orphan = false ∧ (s.runAt q.path).isSome = true ∧
     (∀ x ∈ s.wgs, x.1 / 8 = q.path / 4096 → ∃ y ∈ s.paths, y.1 / 512 = x.1) ∧ s.sidelog = [] ∧ (∀ x ∈ s.selv.colls, x.2.held = []) ∧
     (∀ cov ∈ [[4], [2]], ∀ b ∈ [true, false], let f := { aReq 5 false 6 cov with tainted := b }
       f.kind = 5 ∧ f.sent = false ∧ f.path = q.path ∧ f.more = [] ∧ f.orphan = false ∧ f.id ≠ q.id ∧ f.covers.contains f.id = false ∧ f.len ≤ 8) ∧
     (aReq 5 false 6 [4]).covers.contains q.id = true ∧ (aReq 5 false 6 [2]).covers.contains q.id = false) ∧
    (let s := linked 15 (fun _ => keyed id) State.reset
     let k := s.link 15
     k.signal ≠ 2 ∧ k.slot1.rxdead = false ∧ k.slot1.rxlast = some 5 ∧ (5 : BitVec 40).toNat < (6 : BitVec 40).toNat ∧ Idle s 15 ∧
     (∀ x ∈ k.retry, x.due = false ∧ x.seq = 9 ∧ x.seq ≠ 8) ∧ k.retry = [] ++ aFlit 0 :: [] ∧ (aFlit 0).fails < 7 ∧ (k.retry.map (·.seq)).Nodup ∧
     k.keyheld = false ∧ k.retraining = false ∧ NoWarning k 1 ∧ NoWarning { k with txslot := 1 } 1 ∧ k.txslot.toNat ≠ 1 ∧ k.txslot.toNat = 0 ∧
     k.switching = false ∧ k.slot0.loaded = false ∧ k.slot1.loaded = true ∧ k.slot1.full = false ∧ k.retry.length < 256 ∧ Live.package s ∧
     ((s.mgmt.linkE 15).extractLsb' 0 2).toNat = 0 ∧ (keyed fun k => { k with retry := [aFlit 7] }).retry = [] ++ aFlit 7 :: [] ∧ 7 ≤ (aFlit 7).fails) ∧
    ((keyed fun k => { k with slot1 := { k.slot1 with full := true } }).slot1.full = true ∧ (keyed fun k => { k with retraining := true }).retraining = true ∧
     (keyed fun k => { k with signal := 2 }).signal = 2 ∧ (keyed fun k => { k with switching := true }).switching = true ∧
     (keyed fun k => { k with slot1 := { k.slot1 with rxdead := true } }).slot1.rxdead = true) := by
  simp only [Live.package, Idle, NoWarning]; and_intros <;> decide

/-- Launch queue 15 of partition 0 with one record in host memory, the record's bytes, and a table of entry addresses at 0x6000. -/
def queued (x : Nat) (s : State) : State :=
  { s.putQueue 15 { base := 0x8000000000001000, log := 1, tail := 1 } with hostMem := Memory.write [] 0x1000 128 x, mem := Memory.write s.mem 0x6000 8 0x1000 }

/-- A marker's record of one gang, with a completion word in host memory at 0x2000. -/
def aMarker : Nat := 2 + 0x6000 * 2 ^ 256 + 2 ^ 32 + 2 ^ 64 + 2 ^ 80 + 2 ^ 96 + 0x8000000000002000 * 2 ^ 512 + 0x55 * 2 ^ 576 + (3 + 16) * 2 ^ 640

/-- The launch of the bench, its record changed. -/
def launched (f : Launch → Launch) (s : State) : State := { s with launches := s.launches.map fun x => (x.1, f x.2) }

/-- The first error of a record's checks, or none. -/
def refusal (s : State) (x : Nat) : Option Reject := match (s.checkRecord 0 0 x).1 with | .error e => some e | .ok _ => none

/-- Launches: a queue with a marker, and records of each rejection, of a host that answers and of one that does not; a pigeonhole fed by its host; a ring of
notifications with room, full and none; a launch with a gang, with none, killed and not, that waits for its settle group and not; a launch and a marker that are
complete. -/
theorem witness_Launches :
    (let s := queued aMarker State.reset.withProgram
     let q := s.queue (16 * 0 + 15)
     Fetchable s 0 15 ∧ ¬ Fetchable s 0 14 ∧ (s.readAddr 0 q.ctx (q.base + BitVec.ofNat 64 (128 * (q.head.toNat % 2 ^ q.log))) 128).1.map leNat = some aMarker ∧
     ({ s with hostErr := true }.readAddr 0 q.ctx (q.base + BitVec.ofNat 64 (128 * (q.head.toNat % 2 ^ q.log))) 128).1 = none ∧
     Hosted (awoken s) 0 ∧ ¬ Hosted s 0 ∧ q.log ≠ 0 ∧ ((1#32) - q.head).toNat ≤ 2 ^ q.log ∧ ¬ ((4#32) - q.head).toNat ≤ 2 ^ q.log ∧
     refusal s aMarker = none ∧ refusal s (aMarker + 1) = some .badKind ∧ refusal s (aMarker + 4 * 2 ^ 8) = some .badRecord ∧
     refusal s (aMarker + 2 ^ 32) = some .staleMap ∧ refusal (s.putPart 0 { s.part 0 with pst := 2 }) aMarker = some .noFit ∧
     refusal s (aMarker + 17 * 2 ^ 160) = some .badRecord ∧ refusal s (aMarker + 7 * 2 ^ 112) = none ∧
     refusal (s.putPart 0 { s.part 0 with pclust := 0 }) aMarker = some .noFit) ∧
    (let s := (holed 0 (awoken State.reset)).putHole 0 { (holed 0 State.reset).hole 0 with hostfed := true }
     s.holeOwner 0 = some 0 ∧ s.fnPart 0 = some 0 ∧ (s.hole 0).hostfed = true ∧ (s.hole 0).log ≠ 0 ∧
     ((2#32) - (s.hole 0).head).toNat ≤ 2 ^ (s.hole 0).log ∧ ¬ ((3#32) - (s.hole 0).head).toNat ≤ 2 ^ (s.hole 0).log) ∧
    (let f : Fn := { base := 0x8000000000000000, log := 4, head := 15 }
     4 ≤ f.log ∧ (f.head - f.tail).toNat < 2 ^ f.log ∧ f.base.msb = true ∧ State.reset.hostErr = false ∧ 2 ^ f.log ≤ ((16 : BitVec 32) - f.tail).toNat) ∧
    (State.reset.fn 0).log < 4 ∧
    (let s := awoken (bench 2)
     FMap.get? s.launches (2 ^ 32) = none ∧ ((FMap.get? s.launches 0).any fun l => !l.killed && l.record.kind != 2) = true ∧ Hosted s 0 ∧
     (∃ x ∈ s.gangs, x.2.src = .launch 0 ∧ x.2.status ≠ 4 ∧ x.2.status ≠ 5)) ∧
    (let s := { awoken (bench 2) with gangs := [] }
     (FMap.get? s.launches 0).any (fun l => !l.killed) = true ∧ (∀ x ∈ s.gangs, x.2.src ≠ .launch 0)) ∧
    (let s := { launched (fun l => { l with next := 1, record := { l.record with settled := false, gx := 1, gy := 1, gz := 1 } }) (bench 2) with gangs := [] }
     (FMap.get? s.launches 0).any fun l => l.record.kind != 2 && l.next == l.record.gx * l.record.gy * l.record.gz && !l.record.settled &&
       l.record.doneEn == false) = true ∧
    (let s := { launched (fun l => { l with next := 1, record := { l.record with settled := true, sgrp := 1, gx := 1, gy := 1, gz := 1 } }) (grouped (bench 2)) with gangs := [] }
     (FMap.get? s.launches 0).any (fun l => !l.killed && l.record.settled && l.record.sgrp == 1 && l.next == l.record.gx * l.record.gy * l.record.gz) = true ∧
     (s.ctx 0 0).sgbase.msb = true ∧ (s.ctx 0 0).sgbase.toNat % 2 ^ 63 + 16 * 1 < 2 ^ 63 ∧ Memory.read s.hostMem 0x110 4 = 0 ∧
     Memory.read (Memory.write s.hostMem 0x110 4 3) 0x110 4 ≠ 0) ∧
    (let s := launched (fun l => { l with next := 0, record := { l.record with gx := 2, gy := 1, gz := 1 } }) (bench 2)
     (FMap.get? s.launches 0).any fun l => !l.killed && l.next != l.record.gx * l.record.gy * l.record.gz) = true ∧
    (let s := launched (fun l => { l with record := { l.record with kind := 2, doneEn := true, doneAddr := 0x8000000000002000 } }) (bench 2)
     (∃ x ∈ s.launches, FMap.get? s.launches 0 = some x.2 ∧ EarliestIn s x.2 ∧ x.2.record.doneAddr.msb = true)) ∧
    (let s := launched (fun l => { l with record := { l.record with kind := 2 }, index := 1 }) (bench 2)
     let t := { s with launches := s.launches ++ (bench 2).launches.map fun x => (7, x.2) }
     (∃ x ∈ t.launches, FMap.get? t.launches 0 = some x.2 ∧ x.2.record.kind = 2 ∧ ¬ EarliestIn t x.2)) := by
  simp only [Fetchable, Hosted, EarliestIn]; and_intros <;> decide

/-- The package after start-up with n virtual functions. -/
def virtual (n : Nat) (s : State) : State := { awoken s with vfEn := true, numVfs := n }

/-- A context 0 whose settle group 1 has the one member at 0x4000, or at x. -/
def membered (x : Nat) : State :=
  let s := grouped (awoken (warm (bench 2)))
  { s with hostMem := Memory.write [] 0x110 16 (2 ^ 32 + 0x5000 * 2 ^ 64), mem := Memory.write s.mem 0x5000 8 x }

/-- PartitionsAndHostRegisters: a partition that can be enabled, with a core and with none, one whose clusters are taken, one whose function is gone; gangs of
it placed, killed and on their cores, and none; partitions that lose their function and keep it; pigeonhole masks that overlap and not; register values at the
ends of their range; every kind of function; an aperture written while a gang is placed, and while its context is suspended; members of a settle group that can
be sealed, that are unaligned, and none. -/
theorem witness_PartitionsAndHostRegisters :
    (let s := State.reset.putPart 0 { State.reset.part 0 with pclust := 1 }
     s.partEn 0 = false ∧ (s.part 0).pclust ≠ 0 ∧ s.vfEn = false ∧ s.hasCore 0 = true ∧
     (∀ n, n < 9 → n ≠ 0 → ¬ (s.partEn n = true ∧ (s.part n).pclust &&& (s.part 0).pclust ≠ 0)) ∧
     (mgd (fun m => { m with coreEnt := (List.range 10).map fun i => (i, 2) }) s).hasCore 0 = false) ∧
    (let s := virtual 8 ((State.reset.putPart 8 { State.reset.part 8 with pclust := 1 }).putPart 1 { State.reset.part 1 with pclust := 1, en := true })
     Hosted s 8 ∧ s.partEn 8 = false ∧ (∃ n, n < 9 ∧ n ≠ 8 ∧ s.partEn n = true ∧ (s.part n).pclust &&& (s.part 8).pclust ≠ 0) ∧
     (s.partEn 1 = true ∧ 0 < 1) ∧ ¬ (s.partEn 1 = true ∧ 1 < 1) ∧ ¬ Hosted s 0) ∧
    ¬ Hosted State.reset 8 ∧
    (∀ x ∈ (bench 2).gangs, ¬ (x.2.part = 1 ∧ x.2.ctx < 64 ∧ (x.2.status = 0 ∨ x.2.status = 2 ∨ (x.2.status = 5 ∧ x.2.cluster ≠ 1000)))) ∧
    (∃ x ∈ (bench 2).gangs, x.2.part = 0 ∧ x.2.ctx < 64 ∧ x.2.status = 0) ∧
    (∃ x ∈ (ganged (fun g => { g with status := 5 }) (bench 2)).gangs, x.2.part = 0 ∧ x.2.ctx < 64 ∧ x.2.status = 5 ∧ x.2.cluster ≠ 1000) ∧
    State.reset.launches = [] ∧ State.reset.partEn 0 = false ∧ (bench 2).partEn 0 = true ∧ ((FMap.get? (bench 2).launches 0).any fun l => decide (l.part < 9)) = true ∧
    (let s := State.reset.putPart 1 { State.reset.part 1 with phmask := [(3, 0x8000000000000000)] }
     CMap.get (s.part 1).phmask 3 &&& 0x8000000000000000#64 ≠ 0 ∧ (∀ n, n < 9 → n ≠ 0 → CMap.get (s.part n).phmask 3 &&& 1#64 = 0)) ∧
    (let s := holed 1 State.reset
     (CMap.get (s.part 0).phmask 0).getLsbD 0 = true ∧ (0 : BitVec 64).getLsbD 0 = false ∧ (s.hole 0).head ≠ (s.hole 0).tail) ∧
    ((12 : BitVec 64).toNat % 32 ≤ 12 ∧ (4 : BitVec 64).toNat % 32 = 4 ∧ (3 : BitVec 64).toNat % 32 < 4 ∧ 12 < (13 : BitVec 64).toNat % 32 ∧
     (State.reset.queue 15).head = (State.reset.queue 15).tail ∧ Hosted (awoken State.reset) 0 ∧ (awoken State.reset).gangs = []) ∧
    (let s := virtual 8 (holed 1 State.reset)
     (1 ≤ 8 ∧ Hosted s 8) ∧ ¬ Hosted s 9 ∧ s.mgmt.isl 173 ≠ 2 ∧ ¬ Hosted s 0 ∧ s.holeOwner 0 ≠ some 8 ∧ s.holeOwner 255 = none ∧
     Hosted (awoken (holed 1 State.reset)) 0 ∧ (awoken (holed 1 State.reset)).holeOwner 0 = some 0) ∧
    (let s := awoken (bench 2)
     Hosted s 0 ∧ (s.ctx 0 0).swapst ≠ 2 ∧ ((s.putCtx 0 0 { s.ctx 0 0 with swapst := 2 }).ctx 0 0).swapst = 2 ∧ (FMap.get? s.paths 0).isSome = true ∧
     (∃ x ∈ s.gangs, x.1 = 0 ∧ x.2.part = 0 ∧ x.2.ctx = 0 ∧ x.2.status ≠ 4 ∧ x.2.status ≠ 5)) ∧
    ((0x20000 : BitVec 32).getLsbD 17 = true ∧ (0x1 : BitVec 32).getLsbD 17 = false ∧ (State.reset.ctx 0 0).sgn ≤ 0 ∧ ((grouped State.reset).ctx 0 0).sgn = 2 ∧
     ((grouped State.reset).ctx 0 0).sealing = none) ∧
    ({ grouped State.reset with hostErr := true }.members 0 0 1).1 = none ∧
    ({ grouped (warm (bench 2)) with hostMem := Memory.write [] 0x118 8 0x5000 }.members 0 0 1).1 = some (0x5000, 0) ∧
    (let s := membered 0x4000
     Hosted s 0 ∧ (s.members 0 0 1).1 = some (0x5000, 1) ∧
     (let t := s.putCtx 0 0 { s.ctx 0 0 with sealing := some (0x5000, 1, 0) }
      (t.ctx 0 0).sealing = some (0x5000, 1, 0) ∧ (t.readVA 0 0 2 0x5000 8).1.map leNat = some 0x4000 ∧ (0x4000 : BitVec 64).toNat % 64 = 0 ∧
      ((t.readVA 0 0 2 0x5000 8).2.sealHdr (.g 0 0 0x4000)).isSome = true ∧ (0x4001 : BitVec 64).toNat % 64 ≠ 0 ∧
      ((t.readVA 0 0 2 0x5000 8).2.sealHdr (.g 0 0 0x40000000)).isSome = false)) ∧
    ((State.reset.part 8).invbusy = false ∧ State.reset.sidelog = [] ∧ (∀ x ∈ State.reset.gangs, x.2.insts = []) ∧ State.reset.holes = [] ∧
     ((State.reset.putPart 8 { State.reset.part 8 with invbusy := true }).part 8).invbusy = true) := by
  simp only [Hosted]; and_intros <;> decide

theorem lowest_of {ok : Nat → Nat → Bool} {cls : List Nat} {cl p : Nat}
    (h : cl ∈ cls ∧ p < 8 ∧ ok cl p = true ∧ ∀ c ∈ cls, ∀ x, x < 8 → c < cl ∨ (c = cl ∧ x < p) → ok c x = false) : Lowest ok cls cl p :=
  ⟨h.1, h.2.1, h.2.2.1, fun c x hc hx => h.2.2.2 c hc x hx⟩

/-- `Follows` as a test. -/
def followsB (s : State) (g : Gang) : Bool :=
  (match g.src with | .docket _ => true | .launch _ => false) || s.gangs.any fun x => x.2.src == g.src && decide (x.2.linear < g.linear) && x.2.status != 4

theorem follows_iff (s : State) (g : Gang) : Follows s g ↔ followsB s g = true := by
  unfold Follows followsB; cases g.src <;> simp [and_assoc]

/-- The bench's launch, of two gangs, the second one not yet placed. -/
def nextGang : State := launched (fun l => { l with record := { l.record with gx := 2 } }) (funded (bench 2))

/-- A wave task's docket whose run has not yet started, beside the bench. -/
def runningDocket : State := { awoken (bench 2) with dockets := [(7, { aDocket with state := 3, geom := 0x100000 })] }

/-- The gang of the bench with its status changed, the package awake. -/
def gangIs (n : Nat) : State := awoken (ganged (fun g => { g with status := n }) (bench 2))

/-- A gang off its cores that holds a bank, while another workgroup holds every bank of the cores it could take. -/
def bankless : State :=
  { banked (gangIs 1) with cores := (List.range 8).map fun n => (n, { (bench 2).core n with bankOwner := (List.range 16).map fun b => (b, 999) }) }

/-- Gangs: the next gang of a launch and a wave task's gang, a place and none, the next number free and in use; a gang that leads and one that follows, quiet and
not, on a core that drains; a gang that migrates and one taken off its cores that fits, that fits but for its banks, and that does not. -/
theorem witness_Gangs :
    ((∃ x ∈ nextGang.launches, Due nextGang 0 x.2 ∧ ∀ c, c < 24 → ∀ y, y < 8 → nextGang.fits (launchNeeds x.2) c y = false) ∧
     (∃ x ∈ (awoken nextGang).launches, Due (awoken nextGang) 0 x.2 ∧ x.2.record.sched = [] ∧ x.2.record.wgs ≤ 8 ∧ x.2.record.grps ≤ 16)) ∧
    SeqIs (awoken nextGang) 0 0 1 ∧ SeqIs (nextGang.putCtx 0 0 { nextGang.ctx 0 0 with nextSeq := 0 }) 0 0 1 ∧
    (∃ x ∈ (awoken nextGang).launches, x.1 = 0 ∧ Lowest ((awoken nextGang).fits (launchNeeds x.2)) (List.range 24) 0 0) ∧
    (let s := runningDocket
     (∃ x ∈ s.dockets, x.2.state = 3 ∧ x.2.kind = 0 ∧ x.2.last = none ∧ (∀ y ∈ s.gangs, y.2.src ≠ .docket x.1) ∧ s.mgmt.needsReset = false ∧
      (s.ctx x.2.part x.2.ctx).swapst = 0 ∧ s.partEn x.2.part = true ∧ (s.part x.2.part).pst = 1 ∧ s.backed ⟨0, 1, 1, 0, 256, 0⟩ = true) ∧
     SeqIs s 0 0 1 ∧ (s.readHdr (.g 0 0 0x4000)).isSome = true) ∧
    Lowest (runningDocket.fits ⟨0, 1, 1, 0, 256, 0⟩) ((List.range 6).map (· + 6 * (0 / 64))) 0 0 ∧
    (∃ x ∈ (bench 2).gangs, x.2.status = 0 ∧ (∃ y ∈ (bench 2).launches, x.2.src = .launch y.1) ∧ ¬ Follows (bench 2) x.2 ∧
      (bench 2).onDraining 0 x.2 = false) ∧
    (let s := { gangIs 0 with reqs := [aReq 1 true 4 []] }
     ∃ x ∈ s.gangs, x.1 = 0 ∧ x.2.status = 0 ∧ s.quiet 0 x.2 = false) ∧
    (let s := mgd (fun m => { m with coreEnt := [(0, 3)] }) (gangIs 0)
     ∃ x ∈ s.gangs, x.1 = 0 ∧ s.quiet 0 x.2 = true ∧ s.onDraining 0 x.2 = true) ∧
    (let s := { bench 2 with gangs := (bench 2).gangs.flatMap fun x => [x, (1, { x.2 with linear := 1 })] }
     ∃ x ∈ s.gangs, x.1 = 1 ∧ x.2.status = 0 ∧ s.quiet 1 x.2 = true ∧ Follows s x.2 ∧ (∀ y ∈ s.paths, y.1 / 4096 = 1 → y.2.loads = [])) ∧
    (let s := gangIs 0
     let u := s.unplace 0
     ∃ x ∈ s.gangs, x.1 = 0 ∧ x.2.status = 0 ∧ s.quiet 0 x.2 = true ∧ 0 ∈ x.2.clusters ∧
       (u.fits (s.greqOf 0 x.2) 0 3 && u.bringRoom 0 0 3 x.2 && u.bringBanks 0 0 3 x.2) = true ∧
       FMap.get? u.gangs 0 = some { x.2 with status := 1, cluster := 1000 } ∧ u.fits (s.greqOf 0 x.2) 0 8 = false ∧ 24 ∉ x.2.clusters) ∧
    (let s := gangIs 1
     ∃ x ∈ s.gangs, x.1 = 0 ∧ x.2.status = 1 ∧ (s.ctx x.2.part x.2.ctx).swapst = 0 ∧ s.mgmt.needsReset = false ∧
       Lowest (fun c y => (s.fits (s.greqOf 0 x.2) c y && s.bringRoom 0 c y x.2) && s.bringBanks 0 c y x.2) x.2.clusters 0 0) ∧
    (∃ x ∈ bankless.gangs, x.1 = 0 ∧ x.2.status = 1 ∧
      Lowest (fun c y => bankless.fits (bankless.greqOf 0 x.2) c y && bankless.bringRoom 0 c y x.2) x.2.clusters 0 0 ∧
      ∀ c ∈ x.2.clusters, ∀ y, y < 8 →
        ((bankless.fits (bankless.greqOf 0 x.2) c y && bankless.bringRoom 0 c y x.2) && bankless.bringBanks 0 c y x.2) = false) ∧
    (let s := ganged (fun g => { g with status := 1 }) (bench 2)
     ∃ x ∈ s.gangs, ∀ c ∈ x.2.clusters, ∀ y, y < 8 → (s.fits (s.greqOf 0 x.2) c y && s.bringRoom 0 c y x.2) = false) := by
  refine ⟨⟨⟨_, .head _, by simp only [Due, EarliestIn]; and_intros <;> decide⟩, ⟨_, .head _, by simp only [Due, EarliestIn]; and_intros <;> decide⟩⟩, ⟨0, by decide⟩, ⟨1, by decide⟩, ⟨_, .head _, by decide, lowest_of (by decide)⟩, ⟨by decide, ⟨0, by decide⟩, by decide⟩,
    lowest_of (by decide), by simp only [follows_iff]; decide, by decide, by decide, by simp only [follows_iff]; decide, by decide,
    ⟨_, .head _, by decide, by decide, by decide, by decide, lowest_of (by decide)⟩, ⟨_, .head _, by decide, by decide, lowest_of (by decide), by decide⟩,
    by decide⟩

/-- Workgroup 0, page 5 of its scratch in transit, the fill started by a group's access or by another. -/
def filling (byGroup : Bool) : State :=
  (State.reset.putWg 0 { core := 0, stage := 0, ngrp := 1, slice := 1, spages := 1024, pages := [(5, 3)], frames := [], scratch := [], tags := [], pins := []
                         fills := if byGroup then [(5, 3)] else [], slices := [], acc := none, lists := [] }).putCore 0
    { State.reset.core 0 with victims := [(0, 5, 2)], scores := [(2, 250)] }

/-- SwapsAndPages: a context at each stage of a swap, suspended under R27 and not, at the head of the queue of swaps and not, of a function that holds its
partition and of one that does not; a gang placed and none; a page in transit with a free frame of its phase, its fill a group's and not, its victim recorded and
not; scores in form. -/
theorem witness_SwapsAndPages :
    (¬ Hosted State.reset 0 ∧ Hosted (awoken State.reset) 0 ∧ (State.reset.ctx 0 0).swapst = 0 ∧
     ((State.reset.putCtx 0 0 { State.reset.ctx 0 0 with swapst := 2 }).ctx 0 0).swapst = 2 ∧ State.reset.swaps.head? ≠ some 0) ∧
    (let s := { bench 2 with swaps := [0], reqs := [aReq 1 true 4 []] }
     let t := s.putCtx 0 0 { s.ctx 0 0 with swapst := 1 }
     (t.ctx 0 0).swapst = 1 ∧ (∃ x ∈ t.gangs, x.2.part = 0 ∧ x.2.ctx = 0 ∧ x.2.status = 0 ∧ t.quiet x.1 x.2 = false)) ∧
    (∀ b ∈ [true, false], let s := { ganged (fun g => { g with status := 1 }) (bench 2) with swaps := [0, 5] }
     let t := s.putCtx 0 0 { s.ctx 0 0 with swapst := 1, suspmap := b, savearea := 0x8000 }
     t.swaps = 0 :: [5] ∧ (t.ctx 0 0).suspmap = b ∧ (t.ctx 0 0).swapst = 1 ∧ (∀ x ∈ t.gangs, x.2.part = 0 → x.2.ctx = 0 → x.2.status ≠ 0)) ∧
    (let s := State.reset.putCtx 8 63 { State.reset.ctx 8 63 with swapst := 3 }
     (s.ctx 8 63).swapst = 3 ∧ (s.ctx 8 63).acked = s.mgmt.mapver ∧ (∀ x ∈ s.replies, x.1 ≠ 64 * 8 + 63) ∧
     ({ s with swaps := [575] } : State).swaps = (64 * 8 + 63) :: [] ∧ ((s.putCtx 8 63 { s.ctx 8 63 with acked := 0 }).ctx 8 63).acked ≠ s.mgmt.mapver) ∧
    (∀ b ∈ [true, false], ∃ x ∈ (filling b).wgs, CMap.get x.2.pages 5 = 3 ∧ CMap.get x.2.pages 6 ≠ 3 ∧ x.2.core ≠ 1000 ∧
       (∃ j, j < 128 ∧ 3 * j + 5 % 3 ∉ (filling b).usedFrames x.2.core) ∧ (((x.2.fills.find? fun y => y.1 == 5).map (·.2)).getD 0 = 0 ↔ b = false) ∧
       ((filling b).core x.2.core).victims = [(0, 5, 2)] ∧ (∀ y ∈ (State.reset.core 0).victims, ¬ (y.1 = 0 ∧ y.2.1 = 5)) ∧
       CMap.ok ((filling b).core 0).scores = true) := by
  refine ⟨by simp only [Hosted]; decide, by decide, by decide, by decide, by decide⟩

/-- A binary-swap job of two ranks over two tiles in mode 0, whose image lies at 0x4000. -/
def aJob : Job :=
  { docket := 7, mode := 0, ring := false, chans := 1, gather := true, ranks := 2, me := 0, tiles := 2, tag := 9, src := 0x4000, dst := 0x8000, stat := 0xC000
    tmo := 10000, sub := false, dsthdr := false, peers := [0, 5], pass := 0, running := false, round := 0, srcPost := 0, sealed := false, allSealed := false
    sat := false, part := [], planes := [], arrived := [] }

/-- A pass of it under way, of two tiles of its own. -/
def atRound (n : Nat) : Job :=
  { aJob with pass := 1, running := true, round := n, part := [(0, List.replicate 64 0x3F800000), (1, List.replicate 64 0)] }

/-- A compositing docket, its descriptor at 0x5000, with a job or none. -/
def composing (state : Nat) (jobs : FMap Job) : State :=
  let s := warm (bench 2)
  let m := Memory.write (Memory.write s.mem 0x5000 48 (8 + 0x80 + 1 * 2 ^ 16 + 2 * 2 ^ 32 + 9 * 2 ^ 48 + 0x4000 * 2 ^ 64 + 0x8000 * 2 ^ 128 + 0x6000 * 2 ^ 192))
    0x5020 16 (0xC000 + 10000 * 2 ^ 64)
  { s with mem := Memory.write m 0x6000 8 (5 * 2 ^ 32)
           dockets := [(7, { aDocket with kind := 3, state := state, args := 0x5000 })]
           selv := { s.selv with jobs := jobs } }

/-- A later pass of a compositing docket subscribed to its SRC header, whose postmark is n, slot 1 at 0x8000. -/
def repassing (n : Nat) : State :=
  let s := composing 2 [(7, { aJob with pass := 3, sub := true })]
  { s with mem := Memory.write s.mem 0x4000 64 (n + 0x8000 * 2 ^ 128)
           dockets := s.dockets.map fun x => (x.1, { x.2 with subv := true, subhdr := 0x4000 }) }

/-- The docket that the Selvedge of die 0 starts, its run begun, and the state then. -/
def begun (s : State) (P : State → Docket → Bool) : Bool :=
  match s.pickDocket 0 3 0 with
  | some (7, d) => d.kind == 3 && FMap.get? s.dockets 7 == some d &&
      (let u := { s with lastHole := FMap.set s.lastHole (4 * 0 + d.prio) d.hole }.startRun 7 d
       (FMap.get? u.dockets 7).any (P u))
  | _ => false

/-- CompositingPasses: a docket whose turn it is and one whose it is not; a first pass, whose descriptor is read, and a later one; subscribed at postmark 0 and
beyond, and not; tiles expected, unexpected, of the last round, of the round in progress alone and of a later one, well formed and not; a digest that differs; a
job at rest and one that waits; a status record that can be written. -/
theorem witness_CompositingPasses :
    begun (composing 2 []) (fun u d => decide (FMap.get? u.selv.jobs 7 = none ∧ (u.readDesc 7 d).1 = .ok aJob ∧
      ((u.readDesc 7 d).2.readVA 0 0 (256 * 1 * 2 / 65536 + 2) aJob.src.toNat (256 * 1 * 2)).1.isSome = true)) = true ∧
    (composing 3 []).pickDocket 0 3 0 = none ∧ aJob.arrived = [] ∧ aJob.receives aJob.first ≠ [] ∧ aJob.sub = false ∧
    begun (repassing 0) (fun u d => decide (u.mgmt.selvDown = false ∧ d.last.getD 0 = 0) && (FMap.get? u.selv.jobs 7).any fun j =>
      decide (0 < j.pass ∧ j.sub = true ∧ j.arrived = [] ∧ j.receives j.first ≠ []) && (u.readHdr (.g 0 0 j.src)).isSome) = true ∧
    begun (repassing 1) (fun u d => decide (d.last.getD 0 = 1) && (FMap.get? u.selv.jobs 7).any fun j => (u.readHdr (.g 0 0 j.src)).any fun h =>
      hSlot h 1 == 0x8000 && (u.readVA 0 0 (256 * 1 * 2 / 65536 + 2) 0x8000 (256 * 1 * 2)).1.isSome) = true ∧
    (let s := composing 3 [(7, atRound 0)]
     FMap.get? s.selv.jobs 7 = some (atRound 0) ∧ (atRound 0).running = true ∧ (atRound 0).arrived = [] ∧ (atRound 0).round ≤ (atRound 0).last ∧
     (∃ x ∈ s.dockets, FMap.get? s.dockets 7 = some x.2 ∧ x.2.kind = 3 ∧ x.2.state = 3) ∧
     (s.wroteVA 0 0 2 0xC000 (leBytes (2 + 1 * 2 ^ 32) 16)).1 = true) ∧
    (1, 1) ∉ (atRound 0).receives 0 ∧ (1, 0) ∈ (atRound 0).receives 0 ∧ (1, 1) ∈ (atRound 0).receives 1 ∧ (atRound 0).receives 0 = [(1, 0)] ∧ 0 < (atRound 0).last ∧
    (atRound 0).receives (0 + 1) ≠ [] ∧ (∃ x ∈ (atRound 0).receives 0, 1 ≠ 0 ∨ x ≠ (1, 0)) ∧
    (decodeTile 1 false (encodeTile 0 1 (List.replicate 64 0x3F800000) none)).isSome = true ∧ decodeTile 1 false [] = none ∧ (atRound 0).digest ≠ 0 ∧
    aJob.running = false ∧ (atRound 2).last < (atRound 2).round := by
  and_intros <;> decide

/-- A collective of two ranks over two f32 elements, its peer table at 0x6000. -/
def aColl (busy leaving : Bool) : Coll :=
  { part := 0, ctx := 0, cid := 3, bf16 := false, ring := false, offload := true, ranks := 2, me := 0, elems := 2, base := 0x4000, peers := 0x6000, done := 0x7000
    docket := 0, gen := 0, marks := [], busy := busy, held := [], leaving := leaving }

/-- Its staged entry, the table holding some collectives. -/
def staging (cst : BitVec 3) (colls : FMap Coll) : State :=
  let s := warm (bench 2)
  { s with mem := Memory.write s.mem 0x6000 8 (5 * 2 ^ 32)
           selv := { s.selv with cid := 3, entry := BitVec.ofNat 320 (4 + 2 ^ 16 + 2 * 2 ^ 32 + 0x4000 * 2 ^ 64 + 0x6000 * 2 ^ 128 + 0x7000 * 2 ^ 192), cst := cst, colls := colls } }

/-- Collectives: an entry that is well formed, and one of no elements; a number that is free and one in use; a full table and one with room; a peer table that is
read and one with a reserved bit; a set-up pending; an entry at rest, with an exchange in progress, and leaving; rows of both ranks and the elements' bytes. -/
theorem witness_Collectives :
    (let s := staging 0 []
     s.selv.cst ≠ 1 ∧ s.mgmt.selvDown = false ∧ field s.selv.entry.toNat 0 2 < 8 ∧ field s.selv.entry.toNat 2 1 + 1 = 2 ^ 1 ∧
     field s.selv.entry.toNat 3 1 < 2 ∧ field s.selv.entry.toNat 4 4 = 2 ∧ FMap.get? s.selv.colls 3 = none ∧ s.selv.colls.length < 4096 ∧
     4096 ≤ (List.replicate 4096 ((0 : Nat), aColl false false)).length ∧ stagedColl s.selv = some (aColl false false) ∧
     (s.collPeers (aColl false false)).1 = some [5] ∧
     ({ s with mem := Memory.write s.mem 0x6000 8 (5 * 2 ^ 32 + 2 ^ 63) }.collPeers (aColl false false)).1 = none ∧
     { s.selv with pend := some (aColl false false) }.pend = some (aColl false false)) ∧
    FMap.get? (staging 0 [(3, aColl true false)]).selv.colls 3 = some (aColl true false) ∧ (staging 1 []).selv.cst = 1 ∧
    ((3, aColl false true) ∈ (staging 1 [(3, aColl false true)]).selv.colls ∧ (aColl false true).leaving = true ∧ (aColl false true).busy = false ∧
      (∀ y ∈ (staging 1 [(3, aColl false true)]).selv.colls, y.2.leaving = true → y = (3, aColl false true))) ∧
    (let s := staging 2 [(3, aColl true false)]
     let rows : List (List (BitVec 32 × BitVec 32)) := [[(0, 0), (0, 0)], [(0x3F800000, 0), (0x40000000, 0)]]
     let others := [(1, [((0x3F800000 : BitVec 32), (0 : BitVec 32)), (0x40000000, 0)])]
     s.mgmt.selvDown = false ∧ (aColl true false).busy = true ∧
     rows.length = (aColl true false).ranks ∧ (aColl true false).me < (aColl true false).ranks ∧ (aColl true false).docket = 0 ∧ (aColl true false).held = [] ∧
     others.find? (fun y => y.1 == 1 && y.2.length == 2) = some (1, [(0x3F800000, 0), (0x40000000, 0)]) ∧
     rows[1]? = some [(0x3F800000, 0), (0x40000000, 0)] ∧
     (s.readVA 0 0 (2 * 4 / 65536 + 2) 0x4000 (2 * 4)).1 = some (List.replicate 8 0) ∧
     rows[0]? = some ((List.range 2).map fun i => (BitVec.ofNat 32 (leNat (((List.replicate 8 (0 : Byte)).drop (4 * i)).take 4) * 1), 0)) ∧
     (s.wroteVA 0 0 (2 * 4 / 65536 + 2) 0x4000 (List.replicate 8 0x3F)).1 = true) := by
  and_intros <;> decide

/-- Without elements, or with three ranks by doubling, an entry is not well formed; the staged one is. -/
theorem witness_Collectives_entry :
    EntryOk (staging 0 []).selv.entry.toNat ∧ ¬ EntryOk 0 ∧ ¬ EntryOk (2 * 2 ^ 16 + 2 * 2 ^ 32) := by
  refine ⟨⟨by decide, by decide, fun _ => ⟨1, by decide⟩, by decide, by decide, by decide⟩, fun h => absurd h.2.2.2.2.1 (by decide), fun h => ?_⟩
  obtain ⟨k, hk⟩ := h.2.2.1 (by decide)
  have e : field (2 * 2 ^ 16 + 2 * 2 ^ 32) 2 1 + 1 = 3 := by decide
  rw [e] at hk
  match k with
  | 0 => simp at hk
  | 1 => simp at hk
  | k + 2 => rw [Nat.pow_add] at hk; omega

/-- A borrowed read outstanding for a lane of a load, which has found a stale line before or not. -/
def borrowing (code : BitVec 8) : State :=
  let r : BRead := { id := 8, path := 0, load := 2, lane := 31, off := 0, ia := 0x40000, len := 4, expect := 5 }
  let s := bench 2 fun p => { p with loads := [{ id := 2, wr := true, status := true, hold := false, lanes := [{ lane := 31, reg := 4, nreg := 1, data := 0, code := code }] }] }
  { s with selv := { s.selv with reads := [r], notices := [(0x4000, 5)] } }

/-- BorrowedLines: a line and its header that the lender can read; a pair known, unknown, and a full table; a read outstanding, its load with a stale lane
and not, expected and other postmarks; a notice outstanding and not; the Selvedge up and down. -/
theorem witness_BorrowedLines :
    (let s := warm (bench 2)
     s.mgmt.selvDown = false ∧ (s.walk 0 ((0x4123 : BitVec 64).toNat / 256 * 256) .rd).1 = .ok 0x4100 0xF true ∧
     s.lentPost 0 0x4000 = some (0, 0) ∧ (∀ y ∈ s.selv.lender, ¬ (y.2 = 5 ∧ s.lentAs 0 0 0x4000 y.1 = true)) ∧ s.selv.lender.length < 4096 ∧
     s.lentAs 0 0 0x4000 (2 ^ 64 * (64 * 0 + 0) + 0x4000) = true ∧ (mgd (fun m => { m with island := [(168, 2)] }) s).mgmt.selvDown = true) ∧
    4096 ≤ (List.replicate 4096 ((1 : Nat), (1 : Nat))).length ∧
    (∃ r ∈ (borrowing 0).selv.reads, (borrowing 0).selv.reads = [r] ∧ (5 : BitVec 32) = r.expect ∧ (6 : BitVec 32) ≠ r.expect ∧
      (CMap.get (borrowing 0).selv.newer (Config.borrowPkg r.ia * 2 ^ 64 + (Config.borrowHeader r.ia).toNat)).toNat ≤ r.expect.toNat ∧
      (borrowing 8).selv.reads = [r] ∧ (borrowing 8).loadPath (r.path / 32) r.load r.lane = some 0 ∧
      ((FMap.get? (borrowing 8).paths 0).any fun q => q.loads.any fun l => l.id == r.load && l.lanes.any fun y => y.lane == r.lane && y.code == 8) = true ∧
      ((FMap.get? (borrowing 0).paths 0).any fun q => q.loads.any fun l => l.lanes.any fun y => y.code == 8) = false) ∧
    ((0x4000, 5) ∈ (borrowing 0).selv.notices ∧ (0x4001, 5) ∉ (borrowing 0).selv.notices) ∧
    ((borrowing 0).mgmt.isl 170 = 0 ∧ (borrowing 0).mgmt.isl 171 = 0) := by
  and_intros <;> decide

/-- The debugger of context 0, in a package that has started, selects a register of gang 0's first path, with a word to write. -/
def debugged (halted : Bool) (reg word : Nat) (data : BitVec 32) (s : State) : State :=
  let t := awoken (ganged (fun g => { g with halted := halted }) s)
  t.putCtx 0 0 { t.ctx 0 0 with dbg := { reg := reg, word := word, data := data, lane := 31 } }

/-- A load of the path that is to write v4 to v7 in lane 31. -/
def loading : State := bench 2 fun p => { p with loads := [{ id := 1, wr := true, status := true, hold := false, lanes := [{ lane := 31, reg := 4, nreg := 4, data := 0 }] }] }

theorem selected_of {s : State} {ctx : Nat} {P : Run → Prop} [DecidablePred P] (e : s.mgmt.started = true ∧ s.vfEn = false)
    (h : (s.runAt (dbgKey s 0 ctx)).any (fun r => decide (P r)) = true)
    (t : (FMap.get? s.gangs (2 ^ 32 * (64 * 0 + ctx) + (s.ctx 0 ctx).dbg.gang.toNat)).any (fun g =>
      (s.ctx 0 ctx).dbg.status != 6 && g.status != 4 && g.status != 5 && g.halted) = true)
    (n : s.counted (2 ^ 32 * (64 * 0 + ctx) + (s.ctx 0 ctx).dbg.gang.toNat) = true)
    (f : (s.ctx 0 ctx).dbg.frag = false) : ∃ r, Selected s 0 ctx r ∧ P r := by
  cases hr : s.runAt (dbgKey s 0 ctx) with
  | none => rw [hr] at h; simp at h
  | some r =>
    rw [hr] at h
    cases hg : FMap.get? s.gangs (2 ^ 32 * (64 * 0 + ctx) + (s.ctx 0 ctx).dbg.gang.toNat) with
    | none => rw [hg] at t; simp at t
    | some g =>
      rw [hg] at t; simp [and_assoc] at t
      refine ⟨r, ⟨_, g, ⟨by simp [Hosted, e.1, e.2], rfl, t.1, hg, t.2.1, t.2.2.1⟩, t.2.2.2, n, hr, fun e => absurd e (by simp [f])⟩, by simpa using h⟩

/-- A test of the gang that the debugger's window names. -/
def targets (s : State) (P : Gang → Bool) : Bool :=
  s.mgmt.started && !s.vfEn && (s.ctx 0 0).dbg.status != 6 && (FMap.get? s.gangs 0).any fun g => g.status != 4 && g.status != 5 && P g

/-- Debugger: commands for a gang that does not exist, one swapped out, one halted and one that runs, with and without events outstanding; a package that has not
started; a path stopped at a BRK, one that is not, and none; a STEP under way; registers at the ends of each file, a PC aligned and not, its upper word; loads in
flight and none. -/
theorem witness_Debugger :
    (¬ Hosted State.reset 0 ∧ Hosted (awoken State.reset) 0 ∧ ((awoken State.reset).ctx 0 0).dbg.status ≠ 6 ∧ FMap.get? (awoken State.reset).gangs 0 = none) ∧
    targets (gangIs 2) (fun g => g.status == 2 && !g.halted) = true ∧
    targets (debugged false 0 0 0 (bench 2)) (fun g => !g.halted && g.status == 0) = true ∧ (debugged false 0 0 0 (bench 2)).counted 0 = true ∧
    targets (debugged true 0 0 0 (bench 2)) (fun g => g.halted && g.status == 0) = true ∧ (debugged true 0 0 0 (bench 2)).counted 0 = true ∧
    (∀ x ∈ (debugged true 0 0 0 (bench 2)).paths, x.1 / 4096 = 0 → ∀ l ∈ x.2.loads, l.hold = false) ∧
    (debugged false 0 0 0 { bench 2 with reqs := [aReq 1 true 4 []] }).counted 0 = false ∧
    (let s := debugged true 0 0 0 (bench 2)
     s.runAt (dbgKey (s.putCtx 0 0 { s.ctx 0 0 with dbg := { split := 3 } }) 0 0) = none) ∧
    (∃ r, Selected (debugged true 0 0 0 (bench 2)) 0 0 r ∧ (r.path.wait = .ready ∧ r.path.stop ≠ 0x21)) ∧
    (∃ r, Selected (debugged true 0 0 0 (bench 2 fun p => { p with stop := 0x21 })) 0 0 r ∧ r.path.stop = 0x21) ∧
    (let s := (bench 2).putCtx 0 0 { (bench 2).ctx 0 0 with dbg := { status := 6, step := some 0 } }
     (s.ctx 0 0).dbg.step = some 0 ∧ (FMap.get? s.paths 0).isSome = true ∧ s.agenda = [] ∧ s.stepping = some (0, 0) ∧ (s.ctx 0 0).dbg.status = 6) ∧
    (∃ r, Selected (debugged true 0x7F 0 9 (bench 2)) 0 0 r ∧
      (∀ x ∈ (debugged true 0x7F 0 9 (bench 2)).pathsOf r.gk, x.2.loads = []) ∧
      regValue (debugged true 0x7F 0 9 (bench 2)) r 31 0x7F = some (false, 0) ∧ regValue (debugged true 0x7F 0 9 (bench 2)) r 31 0xA8 = none ∧
      (regValue (debugged true 0x7F 0 9 (bench 2)) r 31 0xC1).map (·.1) = some true ∧ ((debugged true 0xC1 1 9 (bench 2)).ctx 0 0).dbg.word = 1) ∧
    (∃ r, Selected (debugged true 0xC1 1 9 (bench 2)) 0 0 r ∧ (∀ x ∈ (debugged true 0xC1 1 9 (bench 2)).pathsOf r.gk, x.2.loads = [])) ∧
    (∃ r, Selected (debugged true 0x9F 0 9 (bench 2)) 0 0 r ∧ 0x9F = 0x80 + 31 ∧ 0x9F - 0x80 < 32) ∧
    (∃ r, Selected (debugged true 0xA3 0 9 (bench 2)) 0 0 r ∧ 0xA3 = 0xA0 + 3) ∧ (∃ r, Selected (debugged true 0x1009 0 9 (bench 2)) 0 0 r ∧ r.path.wait = .ready) ∧
    (∃ r, Selected (debugged true 0xB7 0 9 (bench 2)) 0 0 r ∧ 0 < 7 ∧ 0xB7 = 0xB0 + 7) ∧ gmAccepts 0x2 ∧ ¬ gmAccepts 0x1F ∧
    ((0x1000 : BitVec 32).toNat % 4 = 0 ∧ (0x1002 : BitVec 32).toNat % 4 ≠ 0) ∧
    (∃ r, Selected (debugged true 5 0 9 loading) 0 0 r ∧ (((debugged true 5 0 9 loading).pathsOf r.gk).any (fun x => x.2.loads.any fun l => l.wr &&
        l.lanes.any fun y => decide (y.lane = 31 ∧ y.reg ≤ 5 ∧ 5 < y.reg + y.nreg ∧ 5 ∉ y.skip)) = true ∧
      (debugged true 5 0 9 loading).pathsOf r.gk = [(r.key, r.path)] ∧ r.path.loads.length = 1 ∧ ∀ l ∈ r.path.loads, l.lanes.length = 1)) := by
  simp only [gmAccepts]
  and_intros <;> first
    | decide
    | exact selected_of (by decide) (by decide) (by decide) (by decide) rfl
    | (simp only [Hosted]; decide)

/-- Slot 0 of pigeonhole 0 in host memory. -/
def slotted (x : Nat) : State := { holed 1 (awoken (warm (bench 2))) with hostMem := Memory.write [] 0x1000 64 x }

/-- A wave task of the bench's gang, its run under way. -/
def taskDone (status : Nat) (d : Docket) : State :=
  { warm (ganged (fun g => { g with src := .docket 7, status := status }) (bench 2)) with dockets := [(7, d)] }

/-- A command that a stack dot unit accepts: f16, two rows, its status at 0xA000. -/
def aDot : Nat := 0x88 * 2 ^ 8 + 2 ^ 32 + 16 * 2 ^ 64 + 0x10000 * 2 ^ 128 + 0x8000 * 2 ^ 192 + 0x9000 * 2 ^ 256 + 0xA000 * 2 ^ 320

/-- A stack dot docket, READY, beside the bench, its command at 0x6000. -/
def dotReady : State :=
  { awoken (warm (bench 2)) with mem := Memory.write (Memory.write (bench 2).mem 0x6000 32 (aDot % 2 ^ 256)) 0x6020 32 (aDot / 2 ^ 256)
                                 dockets := [(7, { aDocket with state := 2, kind := 2, entry := 0x6000 })] }

/-- Dockets: a slot with a reserved kind, and with each field that must be zero or aligned, and one with each kind's fields, waiting and not, its DEP zero
and not; engines with no candidate and with two, one of them passed over; a wave task that is overtaken; runs whose gang has ended and has not, without and with a
subscription, and without a run; commands of a stack dot unit that it accepts and not, a stack without its unit, a vector that was read and one that was not. -/
theorem witness_Dockets :
    (let s := slotted (1 + 2 ^ 32 + 0x4000 * 2 ^ 64)
     s.hostErr = false ∧ s.holeOwner 0 = some 0 ∧ (s.hole 0).log ≠ 0 ∧ (s.hole 0).err.getLsbD 0 = false ∧ (s.hole 0).acc ≠ (s.hole 0).tail ∧ HostRing (s.hole 0) ∧
     0x1000 = (s.hole 0).base.toNat % 2 ^ 63 + 64 * ((s.hole 0).acc.toNat % 2 ^ (s.hole 0).log) ∧ (s.hole 0).waits = false ∧
     ((s.putHole 0 { s.hole 0 with waits := true }).hole 0).waits = true ∧
     (let x := Memory.read s.hostMem 0x1000 64
      x % 8 = 1 ∧ field x 3 1 = 0 ∧ field x 0x10 8 = 0 ∧ field x 0 1 / 32 % 2 = 0 ∧ field x 4 4 ≠ 0) ∧ field (Memory.read (slotted 3).hostMem 0x1000 64) 4 4 = 0) ∧
    Memory.read (slotted 5).hostMem 0x1000 64 % 8 = 5 ∧ field (Memory.read (slotted (2 ^ 24)).hostMem 0x1000 64) 3 1 ≠ 0 ∧
    (let x := Memory.read (slotted (1 + 2 ^ 128)).hostMem 0x1000 64
     x % 8 ≠ 0 ∧ field x 0x10 8 ≠ 0) ∧
    (let x := Memory.read (slotted (32 + 8 * 2 ^ 192)).hostMem 0x1000 64
     field x 0 1 / 32 % 2 = 1 ∧ field x 0x18 8 % 64 ≠ 0) ∧
    (let x := Memory.read (slotted 32).hostMem 0x1000 64
     field x 0 1 / 32 % 2 = 1 ∧ field x 0x18 8 = 0) ∧
    (∀ x ∈ State.reset.dockets, x.2.state ≠ 2) ∧
    (∀ b ∈ [true, false], let s := { awoken (bench 2) with dockets := [(5, { aDocket with state := 2, kind := 1, prio := 1, hole := 0 }), (7, { aDocket with state := 2, kind := 1, hole := 1, prio := 1, passed := b })] }
     (∀ x ∈ s.dockets, x.2.hole / 64 = 0 ∧ x.2.state = 2 ∧ x.2.kind = 1 ∧ x.2.subv = false ∧ s.canTake 0 5 x.1 x.2 = true) ∧
     (s.pickDocket 0 1 5).map (·.1) = some (if b then 7 else 5) ∧ (s.core 5).loom = []) ∧
    (let s := { awoken (bench 2) with dockets := [(5, { aDocket with state := 2, kind := 0, prio := 1, geom := 0x3FF00000 }), (7, { aDocket with state := 2, kind := 0 })] }
     s.canTake 0 0 5 { aDocket with state := 2, kind := 0, prio := 1, geom := 0x3FF00000 } = false ∧ (s.pickDocket 0 0 0).map (·.1) = some 7 ∧
     s.before 0 { aDocket with state := 2, kind := 0, prio := 1, geom := 0x3FF00000 } { aDocket with state := 2, kind := 0 } = true) ∧
    (let s := dotReady
     (s.pickDocket 0 2 0).map (·.1) = some 7 ∧ (s.readVA 0 0 2 0x6000 64).1.map leNat = some aDot ∧ sduOk aDot = true ∧
     ((s.readVA 0 0 2 0x6000 64).2.readVA 0 0 8 (field aDot 0x18 8) (field aDot 8 4 * tyBytes (field aDot 1 1 / 16))).1.isSome = true) ∧
    aDocket.state ≠ 3 ∧
    (let s := taskDone 0 { aDocket with state := 3 }
     (∃ x ∈ s.gangs, x.2.src = .docket 7) ∧ (∃ x ∈ s.gangs, x.2.src = .docket 7 ∧ x.2.status ≠ 4)) ∧
    (let s := taskDone 4 { aDocket with state := 3, subv := true, subhdr := 0x4000, last := some 0 }
     (∃ x ∈ s.gangs, x.2.src = .docket 7) ∧ (∀ x ∈ s.gangs, x.2.src = .docket 7 → x.2.status = 4) ∧
     ({ s with gangs := s.gangs.filter fun x => x.2.src != Source.docket 7 }.readHdr (.g 0 0 0x4000)).any (fun (h : BitVec 512) => !h.getLsbD 32 && h.extractLsb' 0 32 == 0) = true) ∧
    (let s := taskDone 4 { aDocket with state := 3, kind := 2, cmd := some (BitVec.ofNat 512 aDot), vec := List.replicate 32 0 }
     aDot < 2 ^ 512 ∧ sduOk aDot = true ∧ s.mgmt.sduDown (aDot % 8) = false ∧ sduOk (aDot + 8) = false ∧
     (mgd (fun m => { m with island := [(144, 2)] }) s).mgmt.sduDown (aDot % 8) = true ∧ ({ aDocket with vecBad := 7 } : Docket).vecBad ≠ 0 ∧
     (match ({ s with tlb := s.tlb ++ [(tlbKey 0 0x10000, 0x1100000F)] } : State).sduRun 0 0 aDot (List.replicate 32 0) with | (.ok (out, _), s2) => (s2.wroteVA 0 0 128 (field aDot 0x20 8) out).1 | _ => false) = true) := by
  simp only [HostRing]; and_intros <;> decide

/-- A list of workgroup 0, or of docket 7, at the head of core 0's Loom, its command at 0x4000. -/
def loomingOf (l : LoomList) (x : Nat) : State :=
  let s := cored (fun c => { c with loom := [l] }) (banked (warm (bench 2)))
  { launched (fun l => { l with record := { l.record with chip := 16 }, ktags := [(1, 1), (2, 1), (33, 1), (34, 1)]
                                chip := Memory.write (Memory.write [] 8 8 0x0100040010000000) 0x108 8 0x0100040010000000 }) s with
    mem := Memory.write s.mem 0x4000 32 x, dockets := [(7, { aDocket with state := 3, kind := 1 })] }

def looming (x : Nat) : State := loomingOf (aList (some 0)) x

/-- The command at the head of the Loom. -/
def atHeadOf (l : LoomList) (x : Nat) : Bool :=
  let s := loomingOf l x
  loomOf s 0 == [l] && !s.loomFrozen l && (l.docket.all fun k => (FMap.get? s.dockets k).all fun d => !d.stopping) &&
    (s.readVA 0 0 2 ((l.addr.toNat + 32 * l.cmd) % 2 ^ 64) 32).1.map leNat == some x

def atHead (x : Nat) : Bool := atHeadOf (aList (some 0)) x

/-- A Loom task's list. -/
def aTask : LoomList := { aList none with docket := some 7, acc := some ⟨[0], [], []⟩ }

/-- LoomPasses: MMA of f16 with both rings ready in the chip scratchpad, MMAZ, and a command that is not valid; a list without banks; DRAIN of f32 to the
chip scratchpad; END without an event, with one, and with a docket, of a workgroup's list and of a task's; an OP that is none of the four. -/
theorem witness_LoomPasses :
    (let x : BitVec 256 := 1 + 8 * 2 ^ 4 + 8 * 2 ^ 8 + 2 ^ 16 + 2 ^ 28 + 4 * 2 ^ 32 + 0x100 * 2 ^ 96 + 0x1000 * 2 ^ 128 + 0x2000 * 2 ^ 160
     let s1 := looming x.toNat
     atHead x.toNat = true ∧ x.extractLsb' 0 4 = 1 ∧ mmaOk x false = true ∧ (s1.listAcc (aList (some 0))).isSome = true ∧ x.getLsbD 28 = true ∧
     firstBank x + (tileRows x * tileCols x + 4095) / 4096 ≤ 2 ∧ (s1.listLoc (aList (some 0)) .K).1 = .chip 0 ∧
     s1.ringSlot (s1.listLoc (aList (some 0)) .K) (ringA x) ((ringA x).slotBytes 8 32) 0 true = .ok 0 ∧
     s1.ringSlot (s1.listLoc (aList (some 0)) .K) (ringB x) ((ringB x).slotBytes 8 32) 0 true = .ok 0 ∧ 0 % 2 + 1 ≠ 2 ∧
     (∀ q, q < (tileRows x * tileCols x + 4095) / 4096 → ((s1.listAcc (aList (some 0))).map fun a => CMap.get a.kinds (firstBank x + q)) = some 0) ∧
     atHeadOf aTask x.toNat = true ∧ mmaOk x true = true ∧
     (let t : State := { s1 with wgs := s1.wgs.map fun (y : Nat × Wg) => (y.1, { y.2 with acc := none }) }
      t.loomFrozen (aList (some 0)) = false ∧ t.listAcc (aList (some 0)) = none)) ∧
    (let x : BitVec 256 := 2 + 8 * 2 ^ 4 + 8 * 2 ^ 8
     atHead x.toNat = true ∧ x.extractLsb' 0 4 = 2 ∧ mmaOk x false = false) ∧
    (atHead 4 = true ∧ 3 < ((4 : BitVec 256).extractLsb' 0 4).toNat) ∧
    (let x : BitVec 256 := 3 + 2 * 2 ^ 4 + 2 ^ 10 + 2 ^ 16 + 64 * 2 ^ 128
     atHead x.toNat = true ∧ x.extractLsb' 0 4 = 3 ∧ (aList (some 0)).drained = 0 ∧ drainOk x = true ∧ ((looming x.toNat).listAcc (aList (some 0))).isSome = true ∧
     x.extractLsb' 10 2 = 1 ∧ firstBank x + (tileRows x * tileCols x + 4095) / 4096 ≤ 2 ∧
     (tileCols x * tyBytes (x.extractLsb' 4 4).toNat : Nat) ≤ (x.extractLsb' 128 32).toInt ∧
     (x.extractLsb' 64 64).toNat + tileRows x * (x.extractLsb' 128 32).toInt ≤ 1024 * 16 ∧
     (let s := { launched (fun l => { l with ktags := [] }) (looming x.toNat) with cur := 0 }
      s.listLoc (aList (some 0)) .K = (.chip 0, 1024 * 16) ∧ (∃ y ∈ s.launches, FMap.get? s.launches 0 = some y.2 ∧ y.2.record.chip = 16 ∧ y.2.ktags = []) ∧
      (s.readVA 0 0 2 0x4000 32).1.map leNat = some x.toNat)) ∧
    (∀ ev ∈ [0, 3 * 2 ^ 8 + 4 * 2 ^ 16, 2 * 2 ^ 8 + 2 ^ 12 + 0x5000 * 2 ^ 64], ∀ l ∈ [aList (some 0), aTask], let x : BitVec 256 := BitVec.ofNat 256 (ev + 0x6000 * 2 ^ 128)
     (ev ≠ 2 * 2 ^ 8 + 2 ^ 12 + 0x5000 * 2 ^ 64 ∧ l = aTask) ∨ atHeadOf l x.toNat = true ∧ x.extractLsb' 0 4 = 0 ∧ endOk x l.docket.isSome = true ∧ x.extractLsb' 10 2 = 0 ∧
     (let s := loomingOf l x.toNat
      ((s.putCore 0 { s.core 0 with loom := [] }).readVA 0 0 2 ((0x4000 + 32 * 0) % 2 ^ 64) 32).1.map leNat = some x.toNat)) := by
  and_intros <;> decide

/-- StepRunsWhatIsNext: nothing due from outside, a word that is an instruction, one that is none, a fetch that fails; an event, a word of a path's
instruction and the other entries due. -/
theorem witness_StepRunsWhatIsNext :
    (let s := State.reset.withFetchWord 32 0x500301A0
     s.agenda = [] ∧ s.pick = some 0 ∧ (s.runAt 0).any (fun r =>
       (match ({ s with cur := 0 }.fetchAt r) with
        | (.ok pa, s1) => pa == 0x1000 && (match decode (BitVec.ofNat 32 (Memory.read s1.mem pa 4)) with | .ok i => i == .fadd 0 3 0x01 0xA0 | .error _ => false) &&
            (FMap.get? s1.paths 0).all (fun p => !p.interlocked (.fadd 0 3 0x01 0xA0)) && gives (exec (.fadd 0 3 0x01 0xA0) (s1.shows 0 (.fadd 0 3 0x01 0xA0))) fun t => t.reqs.isEmpty && t.exits.isEmpty
        | _ => false)) = true ∧ (∀ x ∈ s.paths, x.2.wait = .ready ∨ x.2.wait = .retry) ∧ s.selv.jobs = [] ∧
     (∀ x ∈ s.ctxs, x.2.dbg.status ≠ 6 ∧ x.2.dbg.step = none ∧ x.2.sealing = none) ∧ (∀ x ∈ s.holes, x.2.again = false) ∧
     (∀ x ∈ s.gangs, x.2.dq = [] ∧ x.2.status ≠ 1 ∧ s.onDraining x.1 x.2 = false) ∧ (∀ y ∈ s.launches, ∃ x ∈ s.gangs, x.2.src = .launch y.1 ∧ x.2.status ≠ 4) ∧ s.inHandler 0 = false) ∧
    (let s := State.reset.withFetchWord 32 0x08000000
     (s.runAt 0).any (fun r => (match ({ s with cur := 0 }.fetchAt r) with
        | (.ok pa, s1) => (match decode (BitVec.ofNat 32 (Memory.read s1.mem pa 4)) with | .error _ => true | .ok _ => false)
        | _ => false)) = true) ∧
    (let s := bench 2 fun p => { p with pc := 0x200000 }
     s.pick = some 0 ∧ (s.runAt 0).any (fun r => (match ({ s with cur := 0 }.fetchAt r) with | (.error c, _) => c == cNOTPRESENT | _ => false)) = true) ∧
    (encode (.kill 0 0 0)).isNone = true ∧ (encode (.trap 0)).isSome = true ∧ gives (exec (.kill 0 0 0) State.reset) (fun _ => true) = true := by
  and_intros <;> decide

/-- StepKeepsMemoryForm: reset's memories are in form, and so are the bench's, which steps. -/
theorem witness_StepKeepsMemoryForm : State.reset.memOk ∧ (bench 2).memOk ∧ gives (step (bench 2)) (fun _ => true) = true := by
  simp only [State.memOk]; decide

/-- R225, R274: the word placed with withFetchWord is what the next step runs: loop s3, -3, which stores nothing. -/
theorem test_step_runs_placed_word :
    gives (step (State.reset.withFetchWord 32 0x9A3FFFFD)) (fun t => (t.run?).isSome && t.mem == (State.reset.withFetchWord 32 0x9A3FFFFD).mem) = true ∧
    decodeTableWord 32 0x9A3FFFFD = some (.loop 3 (-3)) := by decide

/-- R64's example: four ranks contribute 1.0, 2^-24, 2^-24 and -1.0 by binary swap; the result is 2^-23. -/
theorem test_collective_example :
    { aColl false false with ranks := 4 }.result 0 [(0x3F800000, 0), (0x33800000, 0), (0x33800000, 0), (0xBF800000, 0)] = 0x34000000 := by decide

/-- R143 to R145: scores of 255 in both groups make T 1; the younger group's load is held back; OVR 1 makes a group greedy, from its next switch point on. -/
theorem test_throttle :
    (let s : State := State.reset.withFetchWord 32 0xA0000000
     let u : State := { s with
       paths := s.paths ++ s.paths.map fun (x : Nat × Path) => (128, x.2)
       groups := (s.groups ++ s.groups.map fun (x : Nat × Group) => (4, x.2)).map fun (x : Nat × Group) => (x.1, { x.2 with pol := 1 })
       gangs := s.gangs.map fun (x : Nat × Gang) => (x.1, { x.2 with policy := 1 })
       cores := [(0, { scores := [(0, 255), (4, 255)] })] }
     (u.mayAccess 0 0, u.throttled 0, u.throttled 128) = (1, false, true) ∧ ({ u with cur := 128 } : State).pick = some 0 ∧
     (let c := { u.ctx 0 0 with issuepol := 1 }
      (u.putCtx 0 0 c).throttled 128 = true ∧ c.policy 1 = 0 ∧
      ((u.putCtx 0 0 c).switched 128 0 true).throttled 128 = false)) := by decide

/-! ### Witnesses of further clauses: floats, control flow, exceptions, memory -/

/-- FloatFormats, ROUND: a value past the largest f16, a subnormal under FTZ, one below the smallest normal that is not exact, one in range; fields of
each format's special encodings. -/
theorem witness_FloatFormats_round :
    (∀ f ∈ formats, 0 < 2 ^ f.ebits ∧ f.fbits ≤ 64) ∧ fmtF16 ∈ formats ∧ fmtF8A ∈ formats ∧
    scaled (fmtF16.decode (fmtF16.maxBits false)) (-24) < scaled (.fin false (roundGrid 0 false 1 20 10).1 10) (-24) ∧
    (let g := roundGrid 0 false 1 (-20) (-24)
     fmtF16.ftz = true ∧ g.1 ≠ 0 ∧ g.1 < 2 ^ fmtF16.fbits ∧
     ¬ scaled (fmtF16.decode (fmtF16.maxBits false)) (-24) < scaled (.fin false g.1 (-24)) (-24)) ∧
    (let g := roundGrid 0 false 3 (-26) (-24)
     g.2 = true ∧ scaled (.fin false (roundGrid 0 false 3 (-26) (-35)).1 (-35)) (-35) < scaled (.fin false 1 (-14)) (-35)) ∧
    (31 + 1 = 2 ^ fmtF16.ebits ∧ fmtF16 ≠ fmtF8A ∧ 7 < 2 ^ fmtF8A.fbits ∧ 15 < 2 ^ fmtF8A.ebits) := by decide

/-- FloatFormats, ADD16: a NaN, a product of 0 and ∞, infinities of both signs and of one, and finite values. -/
theorem witness_FloatFormats_add16 :
    (fmtF32.decode 0x7FC00000).isNaN = true ∧ fmtF32.decode 0x7F800000 = .inf false ∧ fmtF32.decode 0xFF800000 = .inf true ∧
    ZeroVal (.fin false 0 (-24)) ∧ (FV.inf true).isInf = true ∧ FinVal (fmtF32.decode 0x3F800000) ∧
    ((FV.inf true).sign != (FV.fin false 1 0).sign) = true ∧ (FV.inf true).isNaN = false :=
  ⟨by decide, by decide, by decide, ⟨false, _, rfl⟩, by decide, ⟨_, _, _, rfl⟩, by decide, by decide⟩

/-- ApproximationPoints, the bounds: 3, 1, 128, −200 and the least subnormal; an ulp of 1/3. -/
theorem witness_ApproximationPoints_bounds :
    IsReal (fmtF32.read false 0x40400000) 3 ∧ IsReal (fmtF32.read false 0x3F800000) 1 ∧ IsReal (fmtF32.read false 0x43000000) 128 ∧
    IsReal (fmtF32.read false 0xC3480000) (-200) ∧ IsReal (fmtF32.read false 1) ((2 : ℝ) ^ (-149 : ℤ)) ∧
    (2 : ℝ) ^ 128 ≤ |((2 : ℝ) ^ (-149 : ℤ))⁻¹| ∧ |(3 : ℝ)⁻¹| < 2 ^ 128 ∧ UlpAt (3 : ℝ)⁻¹ ((2 : ℝ) ^ (-25 : ℤ)) := by
  have e3 : fmtF32.read false 0x40400000 = .fin false 12582912 (-22) := by decide
  have e1 : fmtF32.read false 0x3F800000 = .fin false 8388608 (-23) := by decide
  have e128 : fmtF32.read false 0x43000000 = .fin false 8388608 (-16) := by decide
  have e200 : fmtF32.read false 0xC3480000 = .fin true 13107200 (-16) := by decide
  have e0 : fmtF32.read false 1 = .fin false 1 (-149) := by decide
  rw [e3, e1, e128, e200, e0]
  refine ⟨?_, ?_, ?_, ?_, ?_, ?_, ?_, -2, ?_, ?_, ?_⟩
  · norm_num [IsReal]
  · norm_num [IsReal]
  · norm_num [IsReal]
  · norm_num [IsReal]
  · norm_num [IsReal]
  · rw [← zpow_neg, abs_of_pos (by positivity)]; norm_num
  · rw [abs_of_pos (by norm_num)]; norm_num
  · rw [abs_of_pos (by norm_num)]; norm_num
  · rw [abs_of_pos (by norm_num)]; norm_num
  · norm_num

/-- A second path of the group that waits at a JOIN whose region begins at b, its return stack given. -/
def joined (pc b : BitVec 64) (st : List (BitVec 64)) (s : State) : State :=
  match s.run? with
  | none => s
  | some r => s.putPath (r.key + 1) { r.path with pc := pc, wait := .join b, stack := st }

/-- SplitsAndWaits: a sibling that waits at the same JOIN. -/
theorem witness_SplitsAndWaits_meet :
    The (joined 0x1000 0xFF0 [] (bench 2)) fun r => (0xFFFFC#20).toInt ≤ 0 ∧ regionStart r 0xFFFFC = 0xFF0 ∧
      (((joined 0x1000 0xFF0 [] (bench 2)).putPath r.key { r.path with wait := .join 0xFF0 }).pathsOf r.gk).all
        (fun x => x.2.pc == r.path.pc && x.2.wait == .join 0xFF0) = true := the_of (by decide)

/-- SplitsAndWaits: a sibling that waits at a lower JOIN and one at a higher, each path inside the other's region. -/
theorem witness_SplitsAndWaits_lower :
    The (joined 0xFF0 0xFE0 [] (bench 2 fun p => { p with stack := [0xFEC] })) fun r =>
      (joined 0xFF0 0xFE0 [] (bench 2 fun p => { p with stack := [0xFEC] })).pathsOf r.gk =
        [(r.key, r.path), (r.key + 1, { r.path with pc := 0xFF0, wait := .join 0xFE0, stack := [] })] ∧
      r.path.stack = [0xFEC] ∧ regionStart r 0xFFFFC = 0xFF0 ∧ r.path.pc = 0x1000 ∧ r.path.inH = false := the_of (by decide)

theorem witness_SplitsAndWaits_higher :
    The (joined 0x1010 0xFF0 [0xFF8] (bench 2)) fun r =>
      (joined 0x1010 0xFF0 [0xFF8] (bench 2)).pathsOf r.gk =
        [(r.key, r.path), (r.key + 1, { r.path with pc := 0x1010, wait := .join 0xFF0, stack := [0xFF8] })] ∧
      regionStart r 0xFFFFC = 0xFF0 ∧ r.path.pc = 0x1000 ∧ r.path.inH = false := the_of (by decide)

/-- The addresses of these paths lie in those regions. -/
theorem witness_SplitsAndWaits_inside :
    Between 0xFE0 0xFF0 0xFEC ∧ Between 0xFF0 0x1000 0xFF0 ∧ Between 0xFF0 0x1000 0xFF4 ∧ Between 0xFF0 0x1010 0x1000 ∧ Between 0xFF0 0x1000 0xFF8 ∧
    Between 0xFF0 0x1010 0x1004 := by simp only [Between]; decide

/-- SplitsAndWaits: an EXIT of all lanes with a request unanswered and with none. -/
theorem witness_SplitsAndWaits_exit :
    (The { sibling 0x2000 (bench 2) with reqs := [aReq 1 true 4 []], uid := 9 } fun r =>
      let s := { sibling 0x2000 (bench 2) with reqs := [aReq 1 true 4 []], uid := 9 }
      r.path.mask &&& ~~~ r.active = 0 ∧ r.wg.rot = [] ∧ s.exits = [] ∧ (∀ q ∈ s.allReqs, q.exit ≠ s.uid) ∧
      (∀ q ∈ s.reqs, q.isOf r.key = true ∧ (q.withOwners (q.owners.filter (· != r.key))).orphan = true)) ∧
    The (sibling 0x2000 (bench 2)) fun r => r.wg.rot = [] ∧ (sibling 0x2000 (bench 2)).exits = [] ∧ (sibling 0x2000 (bench 2)).allReqs = [] :=
  ⟨the_of (by decide), the_of (by decide)⟩

/-- FaultWithoutHandler: the gang of a docket that runs, without a copy under way. -/
theorem witness_FaultWithoutHandler_docket :
    The { forDocket (bench 2) with dockets := [(7, { aDocket with state := 3 })] } fun r =>
      let s := { forDocket (bench 2) with dockets := [(7, { aDocket with state := 3 })] }
      r.gang.src = .docket 7 ∧ r.gang.status = 0 ∧ r.gang.insts = [] ∧ (s.rctx r).hentry = 0 ∧
      (FMap.get? s.dockets 7).any (fun d => d.state == 3) = true ∧ (FMap.get? (s.raise r 1 0 0 1).dockets 7).isSome = true :=
  the_of (by decide)

/-- OnChipMemory: a late store of lane 3 to cluster memory, as lane 4 and as lane 3 itself see it. -/
theorem witness_OnChipMemory_late :
    let x : Stale := ⟨0, 3, .cluster 0, 8, [0xAB], false⟩
    let s := { bench 2 with stale := [x], lag := true }
    s.stale = [x] ∧ x.loom = false ∧ x.loc = .cluster 0 ∧ x.lane ≠ 4 ∧ (∀ y ∈ s.stale, y.group = 0 ∧ y.lane = 3) ∧ (bench 2).lag = false := by decide

/-- Translation: a frame whose channel is retired and one whose channel is not. -/
theorem witness_Translation_retired :
    let s := mgd (fun m => m.setChan 0 2) (bench 2)
    s.mgmt.chanEnt ≠ [] ∧ s.mgmt.frameRetired 0 = true ∧ (bench 2).mgmt.frameRetired 0 = false := by
  and_intros <;> decide

/-- Translation: leaf entries of every FORMAT kind, and ones that are none. -/
theorem witness_Translation_format :
    (LeafFormat 0x1000000F#128 false ∧ LeafFormat 0x10000000000000000000000000000F#128 false ∧ LeafFormat 0x3F#128 false ∧ LeafFormat 0x1E0000F#128 false ∧
      LeafFormat 0xC00000F#128 false ∧ LeafFormat 0xCF#128 false ∧ LeafFormat 0x10000000F#128 true ∧ LeafFormat 0x4F#128 true) ∧
    ¬ LeafFormat 0xF#128 true ∧ ¬ LeafFormat 0x4E#128 false :=
  ⟨⟨.inl (by decide), .inr (.inl (by decide)), .inr (.inr (.inl (by decide))), .inr (.inr (.inr (.inl (by decide)))), .inr (.inr (.inr (.inr (.inl (by decide))))),
    .inr (.inr (.inr (.inr (.inr (.inl (by decide)))))), .inr (.inr (.inr (.inr (.inr (.inr (by decide)))))), .inr (.inr (.inr (.inr (.inr (.inr (by decide))))))⟩,
    by unfold LeafFormat; decide, by unfold LeafFormat; decide⟩

/-- Translation: a table whose first entry is a node to a leaf; bits of an entry that is no node, of one not valid, and of a node where a leaf must be. -/
theorem witness_Translation_walk :
    (State.reset.withProgram.part 0).ptroot = 0x10000 ∧ FMap.get? (bench 2).tlb (0 * 2 ^ 36 + 0x1000 / 65536) = none ∧
    Memory.read (bench 2).mem 0x10000 16 = 1 + 0x20000 * 2 ^ 64 ∧ Memory.read (bench 2).mem 0x20000 16 = 0xF ∧
    (let e0 : BitVec 128 := 1 + 0x20000 * 2 ^ 64
     e0.getLsbD 1 = false ∧ e0.extractLsb' 2 62 = 0 ∧ e0.extractLsb' 116 12 = 0 ∧ e0.getLsbD 0 = true ∧ (0xF#128).getLsbD 1 = true) ∧
    (0x4#128).extractLsb' 2 62 ≠ 0 ∧ (0x10000#128).getLsbD 0 = false ∧ (1#128).getLsbD 1 = false := by
  and_intros <;> decide

/-- FencesAndFetch: an unanswered write of the path under a fence that names FABRIC; a pause in a gang that is halted and in one that may run. -/
theorem witness_FencesAndFetch_window :
    (The { bench 2 with reqs := [aReq 1 true 4 []] } fun r => (aReq 1 true 4 []).kind = 1 ∧ (aReq 1 true 4 []).isOf r.key = true ∧ (0x81#8).getLsbD 7 = true) ∧
    (The (ganged (fun g => { g with halted := true }) (bench 2 fun p => { p with wait := .pause 0 })) fun r =>
      (ganged (fun g => { g with halted := true }) (bench 2)).mayRun r.gid r.gang = false ∧ r.path.wait = .pause 0) ∧
    (The (bench 2 fun p => { p with wait := .pause 0 }) fun r => (bench 2).mayRun r.gid r.gang = true) :=
  ⟨the_of (by decide), the_of (by decide), the_of (by decide)⟩

/-- Barriers: operands that are unaligned in lane 31, and beyond the allocation; an untagged word that a BWAIT names beside one not reached. -/
theorem witness_Barriers_operands :
    (The (bench 2 id (lanesV 1 fun L => if L = 31 then 0x80000004 else 0x80000000)) fun r => r.active.getLsbD 31 = true ∧
      (∀ i ∈ [Instr.binit 1 0xA9, .barv 1 0, .bexp 1 0xA9, .binv 1 0, .btest 3 1 0xA9, .bwait 1 0xA9], barOperand i = some (1, 0)) ∧
      (barAt (r.src32 1 31) 0).2 % 8 ≠ 0) ∧
    (The (bench 2 id (lanesV 1 fun _ => 0x80100000)) fun r => (bench 2).spLimit r (barAt (r.src32 1 0) 0).1 < (barAt (r.src32 1 0) 0).2 + 8) ∧
    (The (barred 0x0000040010000000 [(0, 1)] (bench 2 id (lanesV 1 fun L => if L = 0 then 0x80000008 else 0x80000000))) fun r =>
      let s := barred 0x0000040010000000 [(0, 1)] (bench 2 id (lanesV 1 fun L => if L = 0 then 0x80000008 else 0x80000000))
      s.barTag (barLoc r 1 0 0).1 (barLoc r 1 0 0).2 = false ∧ s.barTag (barLoc r 1 0 1).1 (barLoc r 1 0 1).2 = true ∧
      ¬ ((barOf (s.barWord (barLoc r 1 0 1).1 (barLoc r 1 0 1).2)).phase - 1).toNat < 64) :=
  ⟨the_of (by decide), the_of (by decide), the_of (by decide)⟩

/-- DocketCommands: a pigeonhole of two slots in device memory, at 0x3000 of the cached page. -/
theorem witness_DocketCommands_device :
    The ((holed 1 (warm (bench 2 (fun p => { p with mask := 1 }) (lane0 [(2, 0x1000)])))).putHole 0 { base := 0x3000, log := 1, tail := 1 }) fun r =>
      let s := (holed 1 (warm (bench 2 (fun p => { p with mask := 1 }) (lane0 [(2, 0x1000)])))).putHole 0 { base := 0x3000, log := 1, tail := 1 }
      r.path.aper = (s.rctx r).aper ∧ r.path.held = none ∧ (s.hole 0).log ≤ 16 ∧
      cached s r .wr ((s.hole 0).base + BitVec.ofNat 64 (64 * ((s.hole 0).tail.toNat % 2 ^ (s.hole 0).log))) 64 0x3040 0xF = true :=
  the_of (by decide)

/-! ### Witnesses of further clauses: engines, links, the host's side, the Selvedge -/

/-- Rays: a triangle and a node of a structure in the cached page, the node not yet opened. -/
theorem witness_Rays_traversal :
    let s := warm (bench 2)
    (match s.rayRead 0 0 0 ((0x5000 + 48 * 2) % 2 ^ 64) 48 with | (.ok (bs, soft), s1) => !soft && bs.length == 48 && s1 == s | _ => false) = true ∧
    (match s.rayRead 0 0 0 ((0x6000 + 128 * 1) % 2 ^ 64) 128 with | (.ok (bs, _), _) => bs.length == 128 | _ => false) = true ∧
    ((0x80000002 : BitVec 32).extractLsb' 30 2).toNat = 2 ∧ ((0xC0000009 : BitVec 32).extractLsb' 30 2).toNat ≠ 1 ∧
    ((0x40000001 : BitVec 32).extractLsb' 30 2).toNat = 1 ∧ 1 ∉ ({} : Found).opened ∧ 1 ∈ ({ opened := [1] } : Found).opened := by decide

/-- Links: the last request of a path that has exited, and its record; a flag for a node whose gang is halted. -/
theorem witness_Links_exits :
    (let q := { aReq 1 true 4 [] with left := true, orphan := true, exit := 3 }
     let s := { bench 2 with reqs := [q], exits := [⟨3, 0, 0, []⟩] }
     s.reqs = [q] ∧ s.exits = [⟨3, 0, 0, []⟩] ∧ q.orphan = true ∧ q.exit = 3 ∧ q.kind = 1 ∧ q.sent = true ∧ q.left = true ∧ q.load = 0 ∧ q.link < 16 ∧
     (∀ y ∈ s.selv.colls, y.2.held = [])) ∧
    (let f := aReq 4 false 6 []
     f.kind = 4 ∧ f.sent = false ∧ f.path = 0 ∧ (FMap.get? (ganged (fun g => { g with halted := true }) (bench 2)).gangs (0 / 4096)).any
       (fun g => g.status == 0 && g.halted) = true) ∧ (bench 2).exits = [] := by decide

/-- PartitionsAndHostRegisters: a cluster with a core and one without, in a package that needs a reset and in one that does not. -/
theorem witness_PartitionsAndHostRegisters_cores :
    coreState State.reset.mgmt (10 * 0 + 0) = 0 ∧ State.reset.mgmt.needsReset = false ∧
    (let m := (mgd (fun m => { m with coreEnt := (List.range 10).map fun i => (i, 2) }) State.reset).mgmt
     (∀ n, n < 10 → coreState m (10 * 0 + n) = 2) ∧ (1 : BitVec 24).getLsbD 0 = true ∧ ∀ cl, cl < 24 → cl ≠ 0 → (1 : BitVec 24).getLsbD cl = false) ∧
    (mgd (fun m => { m with needsReset := true }) State.reset).mgmt.needsReset = true := by decide

/-- `Wanted` as a test. -/
def wantedB (s : State) (g : Gang) : Bool :=
  (s.dockets.any fun x => decide (priority s g < x.2.prio) && (x.2.kind == 0 || x.2.kind == 4) && (x.2.state == 2 || x.2.state == 3) &&
    s.gangs.all fun y => !(y.2.src == .docket x.1) || y.2.status == 1) ||
  s.launches.any fun x => (x.2.part != g.part || x.2.ctx != g.ctx) && x.2.record.kind == 1 && !x.2.killed &&
    (decide (x.2.next < x.2.record.gx * x.2.record.gy * x.2.record.gz) || s.gangs.any fun y => y.2.src == .launch x.1 && y.2.status == 1)

theorem wanted_iff (s : State) (g : Gang) : Wanted s g ↔ wantedB s g = true := by
  unfold Wanted wantedB; simp [and_assoc, imp_iff_not_or]

/-- Gangs: a gang that follows, wanted by a docket of higher priority; one that no docket and no launch wants; a partition with no gang on cores. -/
theorem witness_Gangs_wanted :
    (let s := { bench 2 with gangs := (bench 2).gangs.flatMap (fun x => [x, (1, { x.2 with linear := 1 })]), dockets := [(7, { aDocket with state := 2, prio := 1 })] }
     ∃ x ∈ s.gangs, x.1 = 1 ∧ x.2.status = 0 ∧ s.quiet 1 x.2 = true ∧ Follows s x.2 ∧ Wanted s x.2) ∧
    (∃ x ∈ (bench 2).gangs, x.2.status = 0 ∧ ¬ Wanted (bench 2) x.2 ∧ (bench 2).onDraining 0 x.2 = false) ∧
    (let s := gangIs 1
     ∀ x ∈ s.gangs, x.2.part = 0 → x.2.status ≠ 0 ∧ x.2.status ≠ 5) ∧
    (let s := mgd (fun m => { m with coreEnt := [(0, 3)] }) (gangIs 0)
     (s.unplace 0).mgmt.needsReset = false) := by
  simp only [follows_iff, wanted_iff]; and_intros <;> decide

/-- SwapsAndPages: a context at the end of a swap out whose gang is on cores and quiet; one at the end of a swap in with a reply held for a parked path. -/
theorem witness_SwapsAndPages_gangs :
    (let s := { bench 2 with swaps := [0] }
     let t := s.putCtx 0 0 { s.ctx 0 0 with swapst := 1 }
     (t.ctx 0 0).swapst = 1 ∧ (t.gangs.map (·.1)).Nodup ∧ (∃ x ∈ t.gangs, x.2.part = 0 ∧ x.2.ctx = 0 ∧ x.2.status = 0) ∧
     ∀ x ∈ t.gangs, t.quiet x.1 x.2 = true ∧ x.2.nwg ≤ 8 ∧ ∀ y ∈ t.paths, y.1 / 4096 = x.1 → y.2.loads = [] ∧ y.2.wait ≠ .banks) ∧
    (let s := { ganged (fun g => { g with status := 2 }) (bench 2 fun p => { p with wait := .parked 3 }) with
        swaps := [0], parked := [(0, 3, 0)], replies := [(0, 3, 0x55)] }
     let t := s.putCtx 0 0 { s.ctx 0 0 with swapst := 3 }
     (t.ctx 0 0).swapst = 3 ∧ (t.replies.filter fun x => x.1 == 0) = [(0, 3, 0x55)] ∧ (0, 3, 0) ∈ t.parked ∧
     (∀ y ∈ t.parked, y.2.1 = 3 → y.2.2 = 0 → y = (0, 3, 0)) ∧ (t.runAt 0).isSome = true) := by decide

/-- CompositingPasses, the end of a pass: a rank of a gather that is not the root, a root whose tiles can be written, and one with a header that has readers and
none, a borrower that has not answered and none. -/
theorem witness_CompositingPasses_end :
    (∀ m ∈ (atRound 2).arrived, m.pass ≤ (atRound 2).pass) ∧ (atRound 2).posted = false ∧ ({ atRound 2 with me := 1 } : Job).gather = true ∧
    (let s := composing 3 [(7, atRound 2)]
     (s.wroteVA 0 0 3 (0x8000 + 256 * 1 * 0) (((atRound 2).tile 0).flatMap fun w => leBytes w.toNat 4)).1 = true ∧
     ((s.wroteVA 0 0 3 (0x8000 + 256 * 1 * 0) (((atRound 2).tile 0).flatMap fun w => leBytes w.toNat 4)).2.wroteVA 0 0 3 (0x8000 + 256 * 1 * 1)
       (((atRound 2).tile 1).flatMap fun w => leBytes w.toNat 4)).1 = true ∧
     ({ s with tlb := [], mem := [] }.wroteVA 0 0 3 0x8000 [1]).1 = false ∧
     ((s.walkHdr (.g 0 0 0x4000)).readHdr (.g 0 0 0x4000)).any (fun h => !h.getLsbD 0 && h.extractLsb' 304 16 == 0) = true ∧
     (match (s.walkHdr (.g 0 0 0x4000)).postHdr (.g 0 0 0x4000) with | .ok u => !u.noticed (.g 0 0 0x4000) && (u.sealHdr (.g 0 0 0x4000)).isSome | _ => false) = true ∧
     (match ({ s with selv := { s.selv with notices := [(0x4000, 5)] } }.walkHdr (.g 0 0 0x4000)).postHdr (.g 0 0 0x4000) with
       | .ok u => u.noticed (.g 0 0 0x4000) | _ => false) = true) ∧
    (let s := { composing 3 [] with mem := Memory.write (composing 3 []).mem (0x4000 + 38) 2 1 }
     (s.readHdr (.g 0 0 0x4000)).any (fun h => h.extractLsb' 304 16 != 0) = true) := by
  and_intros <;> decide

/-- CompositingPasses: a docket before its first issue; tiles that are kept, of a pair of a round; runs of ranks by swap and by ring. -/
theorem witness_CompositingPasses_merge :
    (FMap.get? (composing 2 []).selv.jobs 7 = none ∧ (∃ x ∈ (composing 2 []).dockets, x.1 = 7 ∧ x.2.kind = 3 ∧ x.2.state ≠ 5 ∧ x.2.state ≠ 6)) ∧
    (let m := tileMsg 1 1 0 0 true 0 (encodeTile 0 1 (List.replicate 64 0x3F800000) none)
     (decodeTile (atRound 0).chans (atRound 0).ring m.bytes).isSome = true ∧ ∃ x ∈ (atRound 0).part, x.1 = m.tile) ∧
    (atRound 0).me < (atRound 0).ranks ∧ ({ aJob with ring := true } : Job).ring = true ∧ 0 < aJob.last ∧
    (let x := swapRegion 5 2 1
     (2 : Nat).testBit 1 = true ∧ x = (0, 3)) := by decide

/-- CompositingPasses, the codec: a channel of one value, one that PLANE gives, and one that neither does; blocks that are cut short and of no kind. -/
theorem witness_CompositingPasses_codec :
    (∀ x ∈ List.replicate 64 (7 : BitVec 32), x = 7) ∧
    planeWord 0 0x3F800000 0x41000000 0 = 0 ∧ planeWord 0 0x3F800000 0x41000000 1 = 0x3F800000 ∧ planeWord 0 0x3F800000 0x41000000 8 = 0x41000000 ∧
    r32 (minus (v32 0x3F800000) (v32 0)) = 0x3F800000 ∧ r32 (minus (v32 0x41000000) (v32 0)) = 0x41000000 ∧
    (decodeBlock [3]).isNone = true ∧ (decodeBlock [0, 1]).isNone = true ∧ (decodeBlocks 1 [0, 1, 2, 3, 4]).isSome = true ∧
    (decodeBlocks 1 [0, 1, 2, 3, 4, 9]).any (fun x => x.2 != []) = true := by
  refine ⟨fun x h => List.eq_of_mem_replicate h, ?_⟩
  and_intros <;> decide

/-- None of that plane's values is a NaN. -/
theorem witness_CompositingPasses_plane : ∀ i, i < 64 → (v32 (planeWord 0 0x3F800000 0x41000000 i)).isNaN = false := by decide

/-- Collectives: a finite sum and one that is not; rows of two ranks; a store held at the Selvedge that makes no request. -/
theorem witness_Collectives_held :
    FinVal (v32 (r32 (plus (v32 0x3F800000) (v32 0x40000000)))) ∧ ¬ FinVal (v32 (r32 (plus (v32 0x7F800000) (v32 0)))) ∧
    (aColl true false).ranks = 2 ^ 1 ∧ [((0 : BitVec 32), (0 : BitVec 32)), (0, 0)].length = (aColl true false).ranks ∧
    (let c := { aColl true false with ring := true }
     0 < c.elems ∧ 0 < c.ranks ∧ (segment c.elems c.ranks 0).1 ≤ 0 ∧ 0 < (segment c.elems c.ranks 0).1 + (segment c.elems c.ranks 0).2) ∧
    (let h : HeldStore := { id := 3, path := 0, lane := 0, va := 0x4000, pa := 0x4000, bytes := [1, 2, 3, 4], ext := (0x4000, 4) }
     let s := staging 2 [(3, { aColl true false with held := [h] })]
     h.req = none ∧ h.bytes ≠ [] ∧ s.reqs = [] ∧ s.exits = [] ∧ (FMap.get? s.wgs 0).isSome = true ∧ 0 / 8 = h.path / 4096 ∧
     (∀ x ∈ s.wgs, x.1 / 8 = h.path / 4096 → ∃ y ∈ s.paths, y.1 / 512 = x.1)) := by
  refine ⟨?_, ?_, by decide, by decide, by decide, by decide⟩
  · have e : v32 (r32 (plus (v32 0x3F800000) (v32 0x40000000))) = .fin false 12582912 (-22) := by decide
    exact ⟨_, _, _, e⟩
  · have e : v32 (r32 (plus (v32 0x7F800000) (v32 0))) = .inf false := by decide
    rintro ⟨n, m, x, h⟩; rw [e] at h; injection h

/-- Debugger: a step that ends in a PAUSE; a gang whose counters are not zero, of a store that the Selvedge holds. -/
theorem witness_Debugger_pause :
    (let s := (bench 2 fun p => { p with wait := .pause 9 }).putCtx 0 0 { (bench 2).ctx 0 0 with dbg := { status := 6, step := some 0 } }
     (s.ctx 0 0).dbg.step = some 0 ∧ (FMap.get? s.paths 0).any (fun p => p.wait == .pause 9) = true) ∧
    (let h : HeldStore := { id := 3, path := 0, lane := 0, va := 0, pa := 0, bytes := [], ext := (0, 0), req := some (aReq 1 false 4 []) }
     let s := { bench 2 with selv := { (bench 2).selv with colls := [(3, { aColl true false with held := [h] })] } }
     s.counted 0 = false) := by decide

/-- LoomPasses: the command of `witness_LoomPasses` with its rings in bounds, tagged and full, at the first and the last step of a slot; rings that are not
full, not tagged and out of bounds, a tagged CURSOR, banks of the other kind, and rings in scratch. -/
theorem witness_LoomPasses_rings :
    let x : BitVec 256 := 1 + 8 * 2 ^ 4 + 8 * 2 ^ 8 + 2 ^ 16 + 2 ^ 28 + 4 * 2 ^ 32 + 0x100 * 2 ^ 96 + 0x1000 * 2 ^ 128 + 0x2000 * 2 ^ 160
    let s := looming x.toNat
    let loc := s.listLoc (aList (some 0)) .K
    let A := ringA x
    let B := ringB x
    (RingIn s loc A (A.slotBytes 8 32) 0 ∧ RingTags s loc A 0 ∧ RingFull s loc A 0) ∧ (RingIn s loc B (B.slotBytes 8 32) 0 ∧ RingTags s loc B 0 ∧ RingFull s loc B 0) ∧
    (∀ y ∈ s.paths, y.2.wait = .ready) ∧
    [A.hdr + 8 * (1 + A.n + slotOf s loc A 0), B.hdr + 8 * (1 + B.n + slotOf s loc B 0), A.hdr, B.hdr].Pairwise (fun a b => a + 8 ≤ b ∨ b + 8 ≤ a) ∧
    (x.extractLsb' 32 16).toNat * (32 / tyBits (x.extractLsb' 4 4).toNat) = 8 ∧ atHeadOf { aList (some 0) with step := 7 } x.toNat = true ∧
    (let t := { s with launches := s.launches.map fun y => (y.1, { y.2 with chip := [] }) }
     ¬ RingFull t loc A 0) ∧
    (let t := { s with launches := s.launches.map fun y => (y.1, { y.2 with ktags := [(33, 1), (34, 1)] }) }
     ¬ RingTags t loc A 0) ∧
    (let t := { s with launches := s.launches.map fun y => (y.1, { y.2 with ktags := [(1, 1), (2, 1)] }) }
     RingTags t loc A 0 ∧ ¬ RingTags t loc B 0) ∧
    (let t := { s with launches := s.launches.map fun y => (y.1, { y.2 with ktags := (0, 1) :: y.2.ktags }) }
     ¬ RingIn t loc A (A.slotBytes 8 32) 0) ∧
    ¬ RingIn s loc { B with data := 0x4000 } (B.slotBytes 8 32) 0 ∧
    (∃ a ∈ s.listAcc (aList (some 0)), CMap.get a.kinds 1 ≠ 0) ∧
    (s.listLoc (aList (some 0)) .S).1 = .scratch 0 := by
  simp only [RingIn, RingTags, RingFull, slotOf]; and_intros <;> decide

/-- LoomPasses, the end of a list: its END is the command it is at, or one command on; a status word in memory and in the chip scratchpad; each target. -/
theorem witness_LoomPasses_ends :
    (let s := looming (2 ^ 10 + 2 ^ 8 + 2 ^ 12 + 0x100 * 2 ^ 64 + 0x3000 * 2 ^ 128)
     let u := { s with stale := [] }.putCore 0 { s.core 0 with loom := (s.core 0).loom.drop 1 }
     let e : BitVec 256 := 2 ^ 10 + 2 ^ 8 + 2 ^ 12 + 0x100 * 2 ^ 64 + 0x3000 * 2 ^ 128
     (u.readVA 0 0 2 ((0x4000 + 32 * 0) % 2 ^ 64) 32).1.map leNat = some e.toNat ∧ e.extractLsb' 0 4 = 0 ∧ e.extractLsb' 10 2 = 1 ∧
     (e.extractLsb' 128 64).toNat + 8 ≤ (u.listLoc (aList (some 0)) .K).2 ∧ tagged (u.slocTags (u.listLoc (aList (some 0)) .K).1) 0x3000 8 = false ∧
     e.extractLsb' 8 2 = 1 ∧ e.extractLsb' 12 2 = 1 ∧ (e.extractLsb' 64 64).toNat % 8 = 0 ∧
     u.barTag (u.listLoc (aList (some 0)) .K).1 0x100 = false ∧ u.barTag (u.listLoc (aList (some 0)) .K).1 8 = true) ∧
    (let s := looming 2
     let t := { s with mem := Memory.write s.mem 0x4020 32 (0x6000 * 2 ^ 128) }
     (t.readVA 0 0 2 0x4000 32).1.map leNat = some 2 ∧ (t.readVA 0 0 2 0x4020 32).1.map leNat = some (0x6000 * 2 ^ 128) ∧
     (2 : BitVec 256).extractLsb' 0 4 ≠ 0) := by
  and_intros <;> decide

/-- StepRunsWhatIsNext: a path's turn; a late store, and instructions of each class. -/
theorem witness_StepRunsWhatIsNext_turn :
    let s := bench 2
    s.stepping = none ∧ s.inTurn s.cur = true ∧ (FMap.get? s.groups 0).isSome = true ∧ s.slotNext 0 = some 0 ∧ State.reset.pick = none ∧
    (let t := s.putCtx 0 0 { s.ctx 0 0 with dbg := { status := 6, step := some 0 } }
     t.stepping = some (0, 0)) ∧
    (∀ i ∈ [Instr.fadd 0 3 0x01 0xA0, .sts 3 1 4, .bwait 1 0xA9], (encode i).any (fun w => decide ((w.extractLsb' 24 8).toNat < 0xA8 ∨ (w.extractLsb' 24 8).toNat = 0xAC ∨ (w.extractLsb' 24 8).toNat = 0xAD ∨ (w.extractLsb' 24 8).toNat = 0xD5 ∨ (w.extractLsb' 24 8).toNat = 0xD6)) = true) ∧
    (encode (.barv 1 0)).map (fun w => (w.extractLsb' 24 8).toNat) = some 0xD3 ∧ (encode (.ldg 0 8 2 0)).map (fun w => (w.extractLsb' 24 8).toNat) = some 0xA8 ∧
    (FMap.get? s.paths 0).isSome = true ∧ s.sameCycle [] = [] := by decide

end Sys2Proof.Tests
end

section
/-! Source selectors (spec/13_formats_and_opcode_map.md R229, R230): what a selector reads in each range of codes, how a
64-bit type pairs two neighbours or zero-extends, and which codes are legal at each width. -/

namespace Sys2Proof.Machine

/-! ### The value of a selector (R229) -/

theorem Run.src32_of_vreg (r : Run) {x : BitVec 8} (L : Nat) (h : x.toNat < 0x80) :
    r.src32 x L = r.group.vreg x.toNat L := if_pos h

theorem Run.src32_of_sreg (r : Run) {x : BitVec 8} (L : Nat) (hlo : 0x80 ≤ x.toNat) (hhi : x.toNat < 0xA0) :
    r.src32 x L = r.group.sreg (x.toNat - 0x80) :=
  (if_neg hlo.not_gt).trans (if_pos hhi)

theorem Run.src32_of_latch (r : Run) {x : BitVec 8} (L : Nat) (hlo : 0xA0 ≤ x.toNat) (hhi : x.toNat < 0xA4) :
    r.src32 x L = r.path.latch (x.toNat - 0xA0) L := by
  have hv : ¬ x.toNat < 0x80 := by omega
  simp only [Run.src32, hv, hlo.not_gt, hhi, if_true, if_false]

@[simp] theorem Run.src32_zero (r : Run) (L : Nat) : r.src32 0xA4 L = 0 := rfl
@[simp] theorem Run.src32_lane (r : Run) (L : Nat) : r.src32 0xA5 L = BitVec.ofNat 32 L := rfl
@[simp] theorem Run.src32_group (r : Run) (L : Nat) : r.src32 0xA6 L = BitVec.ofNat 32 (r.gk % 16) := rfl
@[simp] theorem Run.src32_rank (r : Run) (L : Nat) : r.src32 0xA7 L = BitVec.ofNat 32 (r.wk % 8) := rfl
@[simp] theorem Run.src32_stage (r : Run) (L : Nat) : r.src32 0xA8 L = BitVec.ofNat 32 r.wg.stage := rfl
@[simp] theorem Run.src32_one (r : Run) (L : Nat) : r.src32 0xA9 L = 1 := rfl

/-! ### Sources of a 64-bit type (R230) -/

theorem Run.src_of_pair (r : Run) {t : Nat} {x : BitVec 8} (L : Nat) (ht : tyIs64 t = true) (h : x.toNat < 0xA4) :
    r.src t x L = r.src32 (x + 1) L ++ r.src32 x L :=
  (if_pos ht).trans (if_pos h)

theorem Run.src_of_const (r : Run) {t : Nat} {x : BitVec 8} (L : Nat) (ht : tyIs64 t = true) (h : 0xA4 ≤ x.toNat) :
    r.src t x L = (r.src32 x L).setWidth 64 :=
  (if_pos ht).trans (if_neg h.not_gt)

/-! ### Legal selectors (R229, R230) -/

theorem selOk_le {wide : Bool} {x : BitVec 8} (h : selOk wide x = true) : x.toNat ≤ 0xA9 :=
  of_decide_eq_true (Bool.and_eq_true_iff.mp h).1

theorem selOk_narrow_iff (x : BitVec 8) : selOk false x = true ↔ x.toNat ≤ 0xA9 := by
  simp [selOk]

/-- The split follows the ranges of R230: registers, latches, constants. -/
theorem selOk_wide_iff (x : BitVec 8) :
    selOk true x = true ↔ x.toNat ≤ 0xA9 ∧ (x.toNat < 0xA0 → x.toNat % 2 = 0) ∧ x.toNat ≠ 0xA3 := by
  by_cases hreg : x.toNat < 0xA0
  · have hne : x.toNat ≠ 0xA3 := by omega
    simp [selOk, hreg, hne]
  · by_cases hlatch : x.toNat < 0xA4
    · simp [selOk, hreg, hlatch]
    · have hne : x.toNat ≠ 0xA3 := by omega
      simp [selOk, hreg, hlatch, hne]

end Sys2Proof.Machine

namespace Sys2Proof.Proofs

open Sys2Proof.Machine

/-- Settles O1, from what a selector reads in each range of codes and which codes are legal at each width. -/
theorem sourceOperands : Obligations.SourceOperands := by
  refine ⟨fun r x L _ => ?value, fun r t x L ht => ?wide⟩
  case value =>
    exact ⟨r.src32_of_vreg L, r.src32_of_sreg L, r.src32_of_latch L, r.src32_zero L, r.src32_lane L, r.src32_group L,
      r.src32_rank L, r.src32_stage L, r.src32_one L, fun _ => selOk_le, selOk_narrow_iff x⟩
  case wide =>
    have hreg (h : x.toNat < 0xA0) : x.toNat < 0xA4 := by omega
    have hlatch (h : x.toNat < 0xA3) : x.toNat < 0xA4 := by omega
    exact ⟨fun h => r.src_of_pair L ht (hreg h), fun _ h => r.src_of_pair L ht (hlatch h), r.src_of_const L ht,
      selOk_wide_iff x⟩

end Sys2Proof.Proofs
end

section
/-! Packed integer elements (spec/06_number_formats.md R114, R115): an element as a bit vector and as a number, CLAMP, the result of
one element, and the elements, bits and flags of a register that packElems builds. -/

namespace Sys2Proof.Claims

open Sys2Proof.Machine

/-! ### Elements (R114, R242) -/

theorem getLsbD_el (n : Nat) (x : BitVec 64) (k j : Nat) : (el n x k).getLsbD j = (decide (j < n) && x.getLsbD (n * k + j)) :=
  BitVec.getLsbD_extractLsb' ..

@[simp] theorem toNat_el (t : Nat) (x : BitVec 64) (k : Nat) : (el (tyBits t) x k).toNat = elemU t x k := by
  simp [el, elemU, Nat.shiftRight_eq_div_pow]

theorem el_packElems {t : Nat} (ht : t ≤ 14) (f : Nat → Nat × Flags) {k : Nat} (hk : k < tyElems t) :
    el (tyBits t) (packElems t f).1 k = BitVec.ofNat (tyBits t) (f k).1 :=
  BitVec.eq_of_toNat_eq (by rw [toNat_el, elemU_packElems t ht f k hk, BitVec.toNat_ofNat])

theorem getLsbD_packElems {t : Nat} (ht : t ≤ 14) (f : Nat → Nat × Flags) {k j : Nat} (hk : k < tyElems t) (hj : j < tyBits t) :
    (packElems t f).1.getLsbD (tyBits t * k + j) = (f k).1.testBit j := by
  have h := congrArg (·.getLsbD j) (el_packElems ht f hk)
  simpa only [getLsbD_el, BitVec.getLsbD_ofNat, hj, decide_true, Bool.true_and] using h

/-! ### Sources and destinations of 32 bits (R242) -/

theorem src_of_narrow (r : Run) {t : Nat} (x : BitVec 8) (L : Nat) (h : tyIs64 t = false) :
    r.src t x L = (r.src32 x L).setWidth 64 :=
  if_neg (Bool.not_eq_true _ ▸ h)

theorem dval_of_narrow (r : Run) {t : Nat} (d L : Nat) (h : tyIs64 t = false) :
    r.dval t d L = (r.group.vreg d L).setWidth 64 :=
  if_neg (Bool.not_eq_true _ ▸ h)

/-! ### Numbers (R114, R115) -/

theorem toSigned_eq_toInt (w x : Nat) : toSigned w x = (BitVec.ofNat w x).toInt := by
  rw [BitVec.toInt_eq_toNat_cond, BitVec.toNat_ofNat]
  rfl

@[simp] theorem intVal_toNat {t : Nat} (x : BitVec (tyBits t)) : intVal t x.toNat = ival t x := by
  simp [intVal, ival, toSigned_eq_toInt, Nat.mod_eq_of_lt x.isLt]

theorem intVal_elemU (t : Nat) (x : BitVec 64) (k : Nat) : intVal t (elemU t x k) = ival t (el (tyBits t) x k) := by
  rw [← toNat_el, intVal_toNat]

@[simp] theorem ofNat_wrapTo (w : Nat) (v : Int) : BitVec.ofNat w (wrapTo w v) = BitVec.ofInt w v := by
  apply BitVec.eq_of_toNat_eq
  rw [BitVec.toNat_ofNat, BitVec.toNat_ofInt, wrapTo, Nat.mod_eq_of_lt]
  have hpos : (0 : Int) < (2 ^ w : Nat) := by positivity
  exact (Int.toNat_lt (Int.emod_nonneg v hpos.ne')).2 (Int.emod_lt_of_pos v hpos)

theorem tyMin_eq_lowest (t : Nat) : tyMin t = lowest t := by simp [tyMin, lowest]

theorem tyMax_eq_highest (t : Nat) : tyMax t = highest t := by simp [tyMax, highest]

theorem lowest_le_highest (t : Nat) : lowest t ≤ highest t := by
  have h (n : Nat) : (0 : Int) < 2 ^ n := by positivity
  have hm := h (tyBits t - 1)
  have hn := h (tyBits t)
  unfold lowest highest
  split <;> omega

theorem clampTo_eq_clamp (t : Nat) (v : Int) : clampTo t v = clamp t v := by
  have h := lowest_le_highest t
  rw [clampTo, clamp, tyMin_eq_lowest, tyMax_eq_highest]
  split
  · omega
  · split <;> omega

/-! ### One element's result (R246) -/

theorem ofNat_narrowInt (sat : Bool) {t n : Nat} (hn : tyBits t = n) (e : Int) :
    BitVec.ofNat n (narrowInt sat t e).1 = narrowed sat t n e := by
  subst hn
  cases sat <;> simp [narrowInt, narrowed, clampTo_eq_clamp]

theorem narrowInt_flags (sat : Bool) (t : Nat) (e : Int) :
    (narrowInt sat t e).2 = if sat = true ∧ clamp t e ≠ e then fSAT else 0 := by
  cases sat <;> simp [narrowInt, clampTo_eq_clamp]

/-! ### The flags of a register (R123) -/

theorem packElems_noFlags (t : Nat) (f : Nat → Nat) : (packElems t fun k => (f k, 0)).2 = 0 := by
  apply BitVec.eq_of_getLsbD_eq
  intro i _
  rw [packElems_flags]
  simp

theorem packElems_flags_one {t : Nat} (h : tyElems t = 1) (f : Nat → Nat × Flags) : (packElems t f).2 = (f 0).2 := by
  simp [packElems, h, List.range_one]

/-- One flag at most: it is raised where some element raises it. -/
theorem packElems_oneFlag {t : Nat} {f : Nat → Nat × Flags} {fl : Flags} {P : Nat → Prop} [DecidablePred P]
    (h : ∀ k, (f k).2 = if P k then fl else 0) :
    (packElems t f).2 = if ∃ k, k < tyElems t ∧ P k then fl else 0 := by
  apply BitVec.eq_of_getLsbD_eq
  intro i _
  rw [packElems_flags, Bool.eq_iff_iff, List.any_eq_true]
  split
  next hex =>
    obtain ⟨k, hk, hP⟩ := hex
    refine ⟨fun ⟨j, _, hj⟩ => ?_, fun hi => ⟨k, List.mem_range.2 hk, by rwa [h, if_pos hP]⟩⟩
    by_cases hPj : P j
    · rwa [h, if_pos hPj] at hj
    · simp [h, hPj] at hj
  next hno =>
    refine ⟨fun ⟨j, hjr, hj⟩ => ?_, fun hi => by simp at hi⟩
    have hPj : ¬ P j := fun hP => hno ⟨j, List.mem_range.1 hjr, hP⟩
    simp [h, hPj] at hj

end Sys2Proof.Claims
end

section
/-! How an instruction of kind V or P runs (spec/14_integer_and_lane.md R240, R241): the class and the fields of an instruction, what
its operation answers past the checks, and that it is ILLEGAL under a type its class does not accept. -/

namespace Sys2Proof.Claims

open Sys2Proof.Machine

/-- The class of an instruction, and the W and D that its fields name. -/
structure HasForm (i : Instr) (c : OpClass) (w : BitVec 1) (d : Nat) : Prop where
  cls : classOf i = some c
  w   : (Instr.shape i).w = w
  d   : (Instr.shape i).d = d

theorem HasForm.passes {i : Instr} {c : OpClass} {w : BitVec 1} {d : Nat} (hf : HasForm i c w d) {r : Run}
    (hr : Runs r i) : c.legal r i = true ∧ c.dead r i = 0 := by
  obtain ⟨c', hc, hl, hd⟩ := hr
  obtain rfl : c = c' := Option.some.inj (hf.cls.symm.trans hc)
  exact ⟨hl, hd⟩

/-- Legality, condition by condition (R237, R240). -/
theorem legal_iff {r : Run} {i : Instr} {acc : Nat → Bool} {wd wa wb : Bool} :
    r.legal i acc wd wa wb = true ↔
      (Instr.shape i).ok = true ∧ acc r.T = true ∧ (wd = true → (Instr.shape i).d % 2 = 0) ∧
        (wa = true → (Instr.shape i).a.all (selOk true) = true) ∧ (wb = true → (Instr.shape i).b.all (selOk true) = true) := by
  simp only [Run.legal, Bool.and_eq_true, Bool.or_eq_true, Bool.not_eq_true', ← Bool.not_eq_true, beq_iff_eq, ← imp_iff_not_or,
    and_assoc]

theorem legal_acc {r : Run} {i : Instr} {acc : Nat → Bool} {wd wa wb : Bool} (h : r.legal i acc wd wa wb = true) :
    acc r.T = true :=
  have ⟨_, hacc, _⟩ := legal_iff.1 h
  hacc

/-- A legal instruction whose A is a pair names one (R230). -/
theorem legal_pair {r : Run} {i : Instr} {acc : Nat → Bool} {wd wb : Bool} {a : BitVec 8}
    (h : r.legal i acc wd true wb = true) (ha : (Instr.shape i).a = some a) : selOk true a = true := by
  obtain ⟨_, _, _, hpair, _⟩ := legal_iff.1 h
  rw [ha] at hpair
  exact hpair rfl

theorem legal_of_not_acc {r : Run} {i : Instr} {acc : Nat → Bool} (wd wa wb : Bool) (h : acc r.T = false) :
    r.legal i acc wd wa wb = false :=
  Bool.eq_false_iff.2 fun hl => Bool.eq_false_iff.1 h (legal_acc hl)

/-- A running instruction's class accepts gm.T. -/
theorem HasForm.accepts {i : Instr} {c : OpClass} {w : BitVec 1} {d : Nat} (hf : HasForm i c w d) {r : Run}
    (hr : Runs r i) : c.acc r.T (gmS r.path.gm) = true :=
  legal_acc (hf.passes hr).1

section
variable {s : State} {r : Run} {i : Instr} {w : BitVec 1} {d : Nat}

/-- Kind V: an instruction that runs answers its class's result. -/
theorem vOpW_result {c : OpClass} (acc : Run → Bool) (wide : Run → Bool × Bool × Bool)
    (f : Run → Nat → BitVec 64 × Flags) (hx : Executing s r) (hf : HasForm i c w d) (hr : Runs r i)
    (hacc : acc r = c.acc r.T (gmS r.path.gm))
    (hwide : wide r = (c.wd r.T (gmS r.path.gm), c.wa r.T (gmS r.path.gm), c.wb r.T (gmS r.path.gm))) :
    ∃ t, vOpW i s acc wide f = .next t ∧ VResult s t r w d (wide r).1 (fun L => (f r L).1) fun L => (f r L).2 := by
  obtain ⟨hl, hd⟩ := hf.passes hr
  refine ⟨_, vOpW_next hx i acc wide f (by rw [hacc, hwide]; exact hl) (by rw [hwide]; exact hd), ?_⟩
  rw [hf.w, hf.d]
  exact finishV_result s r w d (wide r).1 (f r)

/-- Kind V with every operand at the width of gm.T. -/
theorem vOp_result {acc : Nat → Bool} (f : Run → Nat → BitVec 64 × Flags) (hx : Executing s r)
    (hf : HasForm i (uniform acc) w d) (hr : Runs r i) :
    ∃ t, vOp i s acc f = .next t ∧ VResult s t r w d (tyIs64 r.T) (fun L => (f r L).1) fun L => (f r L).2 :=
  vOpW_result _ _ f hx hf hr rfl rfl

/-- Kind P with A and B at the width of gm.T. -/
theorem pOp_result {acc : Nat → Bool} (f : Run → BitVec 32) (hx : Executing s r)
    (hf : HasForm i (narrowD acc) w d) (hr : Runs r i) :
    ∃ t, pOp i s acc f = .next t ∧ PResult s t r d fun L => (f r).getLsbD L := by
  obtain ⟨hl, hd⟩ := hf.passes hr
  refine ⟨_, pOp_next hx i acc f hl hd, ?_⟩
  rw [hf.d]
  exact finishP_result s r d (f r)

theorem vOpW_illegal {acc : Run → Bool} {wide : Run → Bool × Bool × Bool} (f : Run → Nat → BitVec 64 × Flags)
    (hx : Executing s r) (hl : r.legal i (fun _ => acc r) (wide r).1 (wide r).2.1 (wide r).2.2 = false) :
    vOpW i s acc wide f = .next (s.illegal r) :=
  (withRun_some hx _).trans (checked_illegal s r _ _ hl)

theorem vOp_illegal {acc : Nat → Bool} (f : Run → Nat → BitVec 64 × Flags) (hx : Executing s r) (h : acc r.T = false) :
    vOp i s acc f = .next (s.illegal r) :=
  vOpW_illegal f hx (legal_of_not_acc _ _ _ h)

theorem pOp_illegal {acc : Nat → Bool} (f : Run → BitVec 32) (hx : Executing s r) (h : acc r.T = false) :
    pOp i s acc f = .next (s.illegal r) :=
  (withRun_some hx _).trans (checked_illegal s r _ _ (legal_of_not_acc _ _ _ h))

end

end Sys2Proof.Claims
end

section
/-! Integer arithmetic (spec/14_integer_and_lane.md R246, R247): each arithmetic instruction applies its exact operation to every
element, and what one element's clamping or wrapping leaves. -/

namespace Sys2Proof.Claims

open Sys2Proof.Machine

/-- The exact result in element k of a lane. -/
def exactElem (r : Run) (o : Ops) (op : Nat → Int → Int → Int → Int) (L k : Nat) : Int :=
  op (tyBits r.T) (ival r.T (el (tyBits r.T) (r.src r.T o.a L) k)) (ival r.T (el (tyBits r.T) (r.src r.T o.b L) k))
    (ival r.T (el (tyBits r.T) (r.dval r.T o.d.toNat L) k))

/-- The operation that an arithmetic instruction of the model applies to a lane. -/
def arithMeaning (o : Ops) (sat : Bool) (op : Nat → Int → Int → Int → Int) (r : Run) (L : Nat) : BitVec 64 × Flags :=
  r.intMap sat o.a o.b o.d.toNat L (op (tyBits r.T))

theorem natAbs_eq_ite (x : Int) : (x.natAbs : Int) = if x < 0 then -x else x := by
  split <;> omega

theorem natAbs_sub_eq_ite (x y : Int) : ((x - y).natAbs : Int) = if x < y then y - x else x - y := by
  split <;> omega

/-- The table of R247 says what the model's instructions do. -/
theorem exec_of_arithOf {i : Instr} {o : Ops} {sat : Bool} {op : Nat → Int → Int → Int → Int}
    (h : arithOf i = some (o, sat, op)) :
    HasForm i (uniform accInt) o.w o.d.toNat ∧ ∀ s, exec i s = vOp i s accInt (arithMeaning o sat op) := by
  unfold arithOf at h
  split at h <;> cases h <;> refine ⟨⟨rfl, rfl, rfl⟩, fun s => ?_⟩
  -- ADD, SUB, MUL, MAD and NEG are spelled alike in the table and in the model
  case h_1 | h_2 | h_3 | h_5 | h_9 => rfl
  -- MULH and AVG: the table's floor and the model's division agree for a positive divisor
  case h_4 => simp only [Int.fdiv_eq_ediv_of_nonneg _ (show (0 : Int) ≤ 2 ^ _ by positivity)]; rfl
  case h_11 => simp only [Int.fdiv_eq_ediv_of_nonneg _ (show (0 : Int) ≤ 2 by decide)]; rfl
  -- MIN and MAX
  case h_6 => simp only [← min_def]; rfl
  case h_7 => simp only [← max_def]; rfl
  -- ABS and ABSD
  case h_8 => simp only [← natAbs_eq_ite]; rfl
  case h_10 => simp only [← natAbs_sub_eq_ite]; rfl

section
variable {r : Run} (o : Ops) (sat : Bool) (op : Nat → Int → Int → Int → Int) (L : Nat)

theorem arithMeaning_elems (hT : r.T ≤ 7) :
    Elems r.T (arithMeaning o sat op r L).1 fun k z =>
      z = narrowed (sat && r.path.gm.getLsbD 13) r.T (tyBits r.T) (exactElem r o op L k) := by
  intro k hk
  rw [arithMeaning, Run.intMap, el_packElems (by omega) _ hk, ofNat_narrowInt _ rfl]
  simp only [intVal_elemU]
  rfl

theorem arithMeaning_flags :
    (arithMeaning o sat op r L).2 =
      if ∃ k, k < tyElems r.T ∧ (sat && r.path.gm.getLsbD 13) = true ∧
        clamp r.T (exactElem r o op L k) ≠ exactElem r o op L k
      then fSAT else 0 := by
  refine packElems_oneFlag fun k => ?_
  simp only [narrowInt_flags, intVal_elemU]
  rfl

end

end Sys2Proof.Claims

namespace Sys2Proof.Proofs

open Sys2Proof.Machine Sys2Proof.Claims

/-- Settles O4, from the exact operation of each instruction (R247) and what clamping or wrapping one element leaves (R246). -/
theorem integerArithmetic : Obligations.IntegerArithmetic := by
  intro s r i o sat op h hx hr
  obtain ⟨hf, he⟩ := exec_of_arithOf h
  have hT : r.T ≤ 7 := of_decide_eq_true (hf.accepts hr)
  obtain ⟨t, ht, hv⟩ := vOp_result (arithMeaning o sat op) hx hf hr
  refine ⟨t, _, _, (he s).trans ht, hv, fun L _ => ?_⟩
  dsimp only
  rw [arithMeaning_flags]
  refine ⟨arithMeaning_elems o sat op L hT, ite_eq_or_eq _ _ _, ?_⟩
  rw [Ne.ite_eq_left_iff (show fSAT ≠ 0 by decide)]
  exact ⟨fun ⟨k, hk, hsat, hne⟩ => ⟨hsat, k, hk, hne⟩, fun ⟨hsat, k, hk, hne⟩ => ⟨k, hk, hsat, hne⟩⟩

end Sys2Proof.Proofs
end

section
/-! Bit patterns as natural numbers (spec/14_integer_and_lane.md R248-R250): what each pattern operation of the model leaves in each
bit, for every width. -/

namespace Sys2Proof.Claims

open Sys2Proof.Machine

/-! ### Sums of fields -/

theorem foldl_add_range (g : Nat → Nat) (m : Nat) :
    (List.range m).foldl (fun a j => a + g j) 0 = ∑ j ∈ Finset.range m, g j := by
  induction m with
  | zero => rfl
  | succ m ih => rw [List.range_succ, List.foldl_append, ih, Finset.sum_range_succ]; rfl

theorem sum_fields_lt {b : Nat} {c : Nat → Nat} (hc : ∀ k, c k < 2 ^ b) (m : Nat) :
    ∑ k ∈ Finset.range m, c k * 2 ^ (b * k) < 2 ^ (b * m) := by
  induction m with
  | zero => simp
  | succ m ih =>
    rw [Finset.sum_range_succ]
    calc _ < 2 ^ (b * m) + c m * 2 ^ (b * m) := by omega
      _ = (c m + 1) * 2 ^ (b * m) := by ring
      _ ≤ 2 ^ b * 2 ^ (b * m) := Nat.mul_le_mul_right _ (hc m)
      _ = 2 ^ (b * (m + 1)) := by ring

/-- Bit i of field k of a number that is given field by field. -/
theorem testBit_sum_fields {b : Nat} {c : Nat → Nat} (hc : ∀ k, c k < 2 ^ b) {m k i : Nat} (hk : k < m) (hi : i < b) :
    (∑ k ∈ Finset.range m, c k * 2 ^ (b * k)).testBit (b * k + i) = (c k).testBit i := by
  induction m with
  | zero => exact absurd hk (Nat.not_lt_zero k)
  | succ m ih =>
    rw [Finset.sum_range_succ, Nat.add_comm, Nat.mul_comm (c m), Nat.testBit_two_pow_mul_add _ (sum_fields_lt hc m)]
    obtain hlt | rfl := Nat.lt_succ_iff_lt_or_eq.1 hk
    · have hpos : b * k + i < b * m := by
        calc b * k + i < b * k + b := by omega
          _ = b * (k + 1) := by ring
          _ ≤ b * m := Nat.mul_le_mul_left b hlt
      rw [if_pos hpos, ih hlt]
    · rw [if_neg (by omega), Nat.add_sub_cancel_left]

theorem ite_two_pow_eq (c : Bool) (k : Nat) : (if c = true then 2 ^ k else 0) = c.toNat * 2 ^ (1 * k) := by
  cases c <;> simp

theorem sum_bits_lt (c : Nat → Bool) (m : Nat) : ∑ k ∈ Finset.range m, (if c k = true then 2 ^ k else 0) < 2 ^ m := by
  simp only [ite_two_pow_eq]
  exact (sum_fields_lt (fun k => Bool.toNat_lt (c k)) m).trans_eq (by rw [Nat.one_mul])

/-- Bit j of a number that is given bit by bit. -/
theorem testBit_sum_bits (c : Nat → Bool) (m j : Nat) :
    (∑ k ∈ Finset.range m, if c k = true then 2 ^ k else 0).testBit j = (decide (j < m) && c j) := by
  by_cases hj : j < m
  · have h := testBit_sum_fields (fun k => Bool.toNat_lt (c k)) hj Nat.one_pos
    rw [Nat.one_mul, Nat.add_zero, Nat.testBit_zero] at h
    simp only [ite_two_pow_eq]
    rw [h, decide_eq_true hj]
    cases c j <;> rfl
  · have hpow : 2 ^ m ≤ 2 ^ j := Nat.pow_le_pow_right (by decide) (Nat.not_lt.1 hj)
    rw [Nat.testBit_lt_two_pow ((sum_bits_lt c m).trans_le hpow), decide_eq_false hj, Bool.false_and]

/-! ### Reversals (R249) -/

theorem revW_eq_sum (n x : Nat) : revW n x = ∑ k ∈ Finset.range n, if x.testBit (n - 1 - k) = true then 2 ^ k else 0 := by
  rw [revW, foldl_add_range, ← Finset.sum_range_reflect]
  refine Finset.sum_congr rfl fun j hj => ?_
  have hj : j < n := Finset.mem_range.1 hj
  rw [show n - 1 - (n - 1 - j) = j by omega]

theorem testBit_revW {n i : Nat} (x : Nat) (hi : i < n) : (revW n x).testBit i = x.testBit (n - 1 - i) := by
  rw [revW_eq_sum, testBit_sum_bits fun k => x.testBit (n - 1 - k), decide_eq_true hi, Bool.true_and]

theorem revW_lt (n x : Nat) : revW n x < 2 ^ n := by
  rw [revW_eq_sum]
  exact sum_bits_lt (fun k => x.testBit (n - 1 - k)) n

theorem bswapW_eq_sum (m x : Nat) :
    bswapW (8 * m) x = ∑ k ∈ Finset.range m, x / 2 ^ (8 * (m - 1 - k)) % 256 * 2 ^ (8 * k) := by
  rw [bswapW, Nat.mul_div_cancel_left m (by decide), foldl_add_range, ← Finset.sum_range_reflect]
  refine Finset.sum_congr rfl fun j hj => ?_
  have hj : j < m := Finset.mem_range.1 hj
  rw [show 8 * m - 8 - 8 * (m - 1 - j) = 8 * j by omega]

theorem testBit_bswapW {m j i : Nat} (x : Nat) (hj : j < m) (hi : i < 8) :
    (bswapW (8 * m) x).testBit (8 * j + i) = x.testBit (8 * (m - 1 - j) + i) := by
  have hbyte (k : Nat) : x / 2 ^ (8 * (m - 1 - k)) % 256 < 2 ^ 8 := Nat.mod_lt _ (by decide)
  rw [bswapW_eq_sum, testBit_sum_fields hbyte hj hi, show 256 = 2 ^ 8 from rfl, Nat.testBit_mod_two_pow,
    Nat.testBit_div_two_pow, decide_eq_true hi, Bool.true_and, Nat.add_comm]

/-! ### Counts (R249) -/

theorem clzW_le (n x : Nat) : clzW n x ≤ n := by
  unfold clzW
  split <;> omega

theorem testBit_above_clzW {n x i : Nat} (hi : i < clzW n x) : x.testBit (n - 1 - i) = false := by
  by_cases hx : x = 0
  · simp [hx]
  · rw [clzW, if_neg hx] at hi
    have hlog : x.log2 + 1 ≤ n - 1 - i := by omega
    exact Nat.testBit_lt_two_pow (Nat.lt_log2_self.trans_le (Nat.pow_le_pow_right (by decide) hlog))

theorem testBit_at_clzW {n x : Nat} (hx : x < 2 ^ n) (h : clzW n x < n) : x.testBit (n - 1 - clzW n x) = true := by
  have h0 : x ≠ 0 := by
    rintro rfl
    exact absurd h (by simp [clzW])
  have hlog : x.log2 < n := (Nat.log2_lt h0).2 hx
  rw [clzW, if_neg h0, show n - 1 - (n - 1 - x.log2) = x.log2 by omega]
  exact Nat.testBit_log2 h0

theorem ctzW_le (n x : Nat) : ctzW n x ≤ n := clzW_le n (revW n x)

theorem testBit_below_ctzW {n x i : Nat} (hi : i < ctzW n x) : x.testBit i = false := by
  have hn : i < n := hi.trans_le (ctzW_le n x)
  have h := testBit_above_clzW hi
  rwa [testBit_revW x (by omega), show n - 1 - (n - 1 - i) = i by omega] at h

theorem testBit_at_ctzW {n x : Nat} (hn : ctzW n x < n) : x.testBit (ctzW n x) = true := by
  have h := testBit_at_clzW (revW_lt n x) hn
  rwa [← ctzW, testBit_revW x (by omega), show n - 1 - (n - 1 - ctzW n x) = ctzW n x by omega] at h

theorem popW_le (n x : Nat) : popW n x ≤ n := by
  simpa [popW] using List.length_filter_le (fun i => x.testBit i) (List.range n)

/-- A count up to the width is the number that its element holds. -/
theorem toNat_ofNat_of_le {n c : Nat} (h : c ≤ n) : (BitVec.ofNat n c).toNat = c := by
  rw [BitVec.toNat_ofNat, Nat.mod_eq_of_lt (h.trans_lt Nat.lt_two_pow_self)]

/-! ### Shifts (R248) -/

theorem ofNat_shl {n : Nat} (x : BitVec n) (k : Nat) : BitVec.ofNat n (x.toNat * 2 ^ k) = x <<< k :=
  BitVec.eq_of_toNat_eq (by simp [Nat.shiftLeft_eq])

theorem ofNat_shr {n : Nat} (x : BitVec n) (k : Nat) : BitVec.ofNat n (x.toNat / 2 ^ k) = x >>> k := by
  rw [← Nat.shiftRight_eq_div_pow, ← BitVec.toNat_ushiftRight, BitVec.ofNat_toNat, BitVec.setWidth_eq]

theorem ofNat_not {n : Nat} (x : BitVec n) : BitVec.ofNat n (2 ^ n - 1 - x.toNat) = ~~~x := by
  rw [← BitVec.toNat_not, BitVec.ofNat_toNat, BitVec.setWidth_eq]

theorem ofNat_sar {n : Nat} (x : BitVec n) (k : Nat) :
    BitVec.ofNat n (wrapTo n (toSigned n x.toNat / 2 ^ k)) = x.sshiftRight k := by
  rw [ofNat_wrapTo, toSigned_eq_toInt, BitVec.ofNat_toNat, BitVec.setWidth_eq, BitVec.sshiftRight, Int.shiftRight_eq_div_pow]
  push_cast
  rfl

theorem getLsbD_sar {n i : Nat} (x : BitVec n) (k : Nat) (hi : i < n) :
    (x.sshiftRight (min k n)).getLsbD i = x.getLsbD (if i + k < n then i + k else n - 1) := by
  have hk : min k n + i < n ↔ i + k < n := by omega
  rw [BitVec.getLsbD_sshiftRight, decide_eq_false (by omega)]
  simp only [Bool.not_false, Bool.true_and, hk, BitVec.msb_eq_getLsbD_last, apply_ite x.getLsbD]
  split
  next h => rw [show min k n + i = i + k by omega]
  next => rfl

theorem ofNat_rot {n : Nat} (x : BitVec n) (k : Nat) :
    BitVec.ofNat n (x.toNat * 2 ^ (k % n) ||| x.toNat / 2 ^ (n - k % n)) = x.rotateLeft k := by
  rw [BitVec.ofNat_or, ofNat_shl, ofNat_shr, BitVec.rotateLeft_def]

theorem getLsbD_rot {n i : Nat} (x : BitVec n) (k : Nat) (hi : i < n) :
    (x.rotateLeft k).getLsbD ((i + k % n) % n) = x.getLsbD i := by
  have hr : k % n < n := Nat.mod_lt k (by omega)
  rw [BitVec.getLsbD_rotateLeft]
  by_cases hw : i + k % n < n
  · rw [Nat.mod_eq_of_lt hw, decide_eq_false (by omega), decide_eq_true hw, Nat.add_sub_cancel]
    simp
  · rw [Nat.mod_eq_sub_mod (by omega), Nat.mod_eq_of_lt (by omega), decide_eq_true (by omega),
      show n - k % n + (i + k % n - n) = i by omega]
    rfl

/-! ### Fields (R250) -/

theorem bf_eq_toNat {m : Nat} (x : BitVec m) (lo len : Nat) : bf x lo len = (x.extractLsb' lo len).toNat := by
  rw [bf, BitVec.extractLsb'_toNat, Nat.shiftRight_eq_div_pow]

theorem testBit_bf {m : Nat} (x : BitVec m) (lo len j : Nat) :
    (bf x lo len).testBit j = (decide (j < len) && x.getLsbD (lo + j)) := by
  rw [bf_eq_toNat, BitVec.testBit_toNat, BitVec.getLsbD_extractLsb']

theorem bfField_eq (n : Nat) (y : BitVec 64) : bfField n y = (fieldPos n y, fieldLen n y) := by
  simp only [bfField, bf_eq_toNat]
  rfl

theorem fieldPos_add_fieldLen_le (n : Nat) (y : BitVec 64) : fieldPos n y + fieldLen n y ≤ n := by
  unfold fieldLen fieldPos
  omega

theorem testBit_wrapTo {n j : Nat} (v : Int) (hj : j < n) : (wrapTo n v).testBit j = (BitVec.ofInt n v).getLsbD j := by
  rw [← ofNat_wrapTo, BitVec.getLsbD_ofNat, decide_eq_true hj, Bool.true_and]

/-- The field read as two's complement, at n bits: its own bits, then copies of its highest. -/
theorem testBit_signedField {m n j : Nat} (x : BitVec m) (lo : Nat) {len : Nat} (hlen : len ≠ 0) (hj : j < n) :
    (wrapTo n (toSigned len (bf x lo len))).testBit j =
      if j < len then x.getLsbD (lo + j) else x.getLsbD (lo + len - 1) := by
  have htop : lo + (len - 1) = lo + len - 1 := by omega
  have hlast : len - 1 < len := by omega
  rw [testBit_wrapTo _ hj, toSigned_eq_toInt, bf_eq_toNat, BitVec.ofNat_toNat, BitVec.setWidth_eq, ← BitVec.signExtend,
    BitVec.getLsbD_signExtend, decide_eq_true hj, Bool.true_and, BitVec.msb_eq_getLsbD_last, BitVec.getLsbD_extractLsb',
    BitVec.getLsbD_extractLsb', decide_eq_true hlast, Bool.true_and, htop]
  split <;> simp [*]

/-- A field of a number set: x is low bits, the old field, and the bits above it. -/
theorem setF_eq {m : Nat} (x : BitVec m) (lo len v : Nat) :
    setF x lo len v = BitVec.ofNat m (2 ^ lo * (2 ^ len * (x.toNat / 2 ^ (lo + len)) + v % 2 ^ len) + x.toNat % 2 ^ lo) := by
  have hlow := Nat.div_add_mod x.toNat (2 ^ lo)
  have hmid := Nat.div_add_mod (x.toNat / 2 ^ lo) (2 ^ len)
  rw [Nat.div_div_eq_div_mul, ← pow_add] at hmid
  have hx : x.toNat - bf x lo len * 2 ^ lo = 2 ^ lo * (2 ^ len * (x.toNat / 2 ^ (lo + len))) + x.toNat % 2 ^ lo := by
    unfold bf
    rw [← hmid, Nat.mul_add, Nat.mul_comm (2 ^ lo) (_ % _)] at hlow
    omega
  rw [setF, hx]
  congr 1
  ring

theorem getLsbD_setF {m : Nat} (x : BitVec m) (lo len v : Nat) {j : Nat} (hj : j < m) :
    (setF x lo len v).getLsbD j = if lo ≤ j ∧ j < lo + len then v.testBit (j - lo) else x.getLsbD j := by
  rw [setF_eq, BitVec.getLsbD_ofNat, decide_eq_true hj, Bool.true_and,
    Nat.testBit_two_pow_mul_add _ (Nat.mod_lt _ (by positivity)), Nat.testBit_two_pow_mul_add _ (Nat.mod_lt _ (by positivity)),
    Nat.testBit_mod_two_pow, Nat.testBit_mod_two_pow, Nat.testBit_div_two_pow, BitVec.testBit_toNat, BitVec.testBit_toNat]
  by_cases hlo : j < lo
  · simp [hlo, Nat.not_le.2 hlo]
  · by_cases hhi : j < lo + len
    · have hin : j - lo < len := by omega
      simp [hlo, hin, hhi, Nat.not_lt.1 hlo]
    · have hout : ¬ j - lo < len := by omega
      have hback : j - lo - len + (lo + len) = j := by omega
      simp [hlo, hout, hhi, hback]

end Sys2Proof.Claims
end

section
/-! Operations on bit patterns (spec/14_integer_and_lane.md R248-R251): each instruction of the table applies one operation to every
element; BFX and BFI bit by bit; LEA as an addition of bit vectors. -/

namespace Sys2Proof.Claims

open Sys2Proof.Machine

/-! ### Instructions that act element by element (R248, R249) -/

/-- The operation that a pattern instruction of the model applies to a lane. -/
def patternMeaning (o : Ops) (op : Nat → Nat → Nat → Nat) (r : Run) (L : Nat) : BitVec 64 × Flags :=
  r.bitMap o.a o.b L (op (tyBits r.T))

/-- An instruction applies to every element an operation that meets a relation at every whole number of bytes. -/
structure ActsOnBits (i : Instr) (o : Ops) (rel : (n : Nat) → BitVec n → BitVec n → BitVec n → Prop)
    (op : Nat → Nat → Nat → Nat) : Prop where
  form  : HasForm i (uniform accInt) o.w o.d.toNat
  exec  : ∀ s, exec i s = vOp i s accInt (patternMeaning o op)
  meets : ∀ m (x y : BitVec (8 * m)), rel (8 * m) x y (BitVec.ofNat (8 * m) (op (8 * m) x.toNat y.toNat))

/-- The table of R248 and R249 says what the model's instructions do. -/
theorem exec_of_bitsOf {i : Instr} {o : Ops} {rel : (n : Nat) → BitVec n → BitVec n → BitVec n → Prop}
    (h : bitsOf i = some (o, rel)) : ∃ op, ActsOnBits i o rel op := by
  unfold bitsOf at h
  split at h <;> cases h
  -- AND, OR, XOR, ANDN, NOT
  case h_1 => exact ⟨fun _ x y => x &&& y, ⟨rfl, rfl, rfl⟩, fun _ => rfl, fun _ _ _ => by simp [BitVec.ofNat_and]⟩
  case h_2 => exact ⟨fun _ x y => x ||| y, ⟨rfl, rfl, rfl⟩, fun _ => rfl, fun _ _ _ => by simp [BitVec.ofNat_or]⟩
  case h_3 => exact ⟨fun _ x y => x ^^^ y, ⟨rfl, rfl, rfl⟩, fun _ => rfl, fun _ _ _ => by simp [BitVec.ofNat_xor]⟩
  case h_4 =>
    exact ⟨fun n x y => x &&& (2 ^ n - 1 - y), ⟨rfl, rfl, rfl⟩, fun _ => rfl, fun _ _ _ => by
      simp [BitVec.ofNat_and, ofNat_not]⟩
  case h_5 => exact ⟨fun n x _ => 2 ^ n - 1 - x, ⟨rfl, rfl, rfl⟩, fun _ => rfl, fun _ x _ => ofNat_not x⟩
  -- SHL, SHR, SAR, ROT
  case h_6 =>
    exact ⟨fun n x k => if n ≤ k then 0 else x * 2 ^ k, ⟨rfl, rfl, rfl⟩, fun _ => rfl, fun _ x y => by
      rw [apply_ite (BitVec.ofNat _), ofNat_shl]; rfl⟩
  case h_7 =>
    exact ⟨fun n x k => if n ≤ k then 0 else x / 2 ^ k, ⟨rfl, rfl, rfl⟩, fun _ => rfl, fun _ x y => by
      rw [apply_ite (BitVec.ofNat _), ofNat_shr]; rfl⟩
  case h_8 =>
    exact ⟨fun n x k => wrapTo n (toSigned n x / 2 ^ min k n), ⟨rfl, rfl, rfl⟩, fun _ => rfl, fun _ x y i hi => by
      rw [ofNat_sar, getLsbD_sar x _ hi]⟩
  case h_9 =>
    exact ⟨fun n x k => x * 2 ^ (k % n) ||| x / 2 ^ (n - k % n), ⟨rfl, rfl, rfl⟩, fun _ => rfl, fun _ x y i hi => by
      rw [ofNat_rot, getLsbD_rot x _ hi]⟩
  -- CLZ, CTZ, POPC
  case h_10 =>
    refine ⟨fun n x _ => clzW n x, ⟨rfl, rfl, rfl⟩, fun _ => rfl, fun m x y => ?_⟩
    rw [toNat_ofNat_of_le (clzW_le _ _)]
    exact ⟨clzW_le _ _, fun i hi => testBit_above_clzW hi, testBit_at_clzW x.isLt⟩
  case h_11 =>
    refine ⟨fun n x _ => ctzW n x, ⟨rfl, rfl, rfl⟩, fun _ => rfl, fun m x y => ?_⟩
    rw [toNat_ofNat_of_le (ctzW_le _ _)]
    exact ⟨ctzW_le _ _, fun i hi => testBit_below_ctzW hi, testBit_at_ctzW⟩
  case h_12 =>
    exact ⟨fun n x _ => popW n x, ⟨rfl, rfl, rfl⟩, fun _ => rfl, fun m x y => toNat_ofNat_of_le (popW_le _ _)⟩
  -- BREV, BSWAP
  case h_13 =>
    exact ⟨fun n x _ => revW n x, ⟨rfl, rfl, rfl⟩, fun _ => rfl, fun m x y i hi => by
      rw [BitVec.getLsbD_ofNat, decide_eq_true hi, Bool.true_and, testBit_revW _ hi, BitVec.testBit_toNat]⟩
  case h_14 =>
    refine ⟨fun n x _ => bswapW n x, ⟨rfl, rfl, rfl⟩, fun _ => rfl, fun m x y j i hj hi => ?_⟩
    rw [Nat.mul_div_cancel_left m (by decide)] at hj ⊢
    rw [BitVec.getLsbD_ofNat, decide_eq_true (by omega), Bool.true_and, testBit_bswapW _ hj hi, BitVec.testBit_toNat]

theorem patternMeaning_elems {r : Run} (hT : r.T ≤ 7) (o : Ops) (op : Nat → Nat → Nat → Nat) (L : Nat) :
    Elems r.T (patternMeaning o op r L).1 fun k z =>
      z = BitVec.ofNat _ (op (tyBits r.T) (el (tyBits r.T) (r.src r.T o.a L) k).toNat
        (el (tyBits r.T) (r.src r.T o.b L) k).toNat) := by
  intro k hk
  rw [patternMeaning, Run.bitMap, el_packElems (by omega) _ hk, toNat_el, toNat_el]

theorem patternMeaning_noFlags (o : Ops) (op : Nat → Nat → Nat → Nat) (r : Run) (L : Nat) : (patternMeaning o op r L).2 = 0 :=
  packElems_noFlags ..

/-- An integer element is a whole number of bytes. -/
theorem eight_dvd_tyBits {t : Nat} (ht : t ≤ 7) : 8 ∣ tyBits t :=
  (by decide : ∀ t : Fin 8, 8 ∣ tyBits t.1) ⟨t, by omega⟩

theorem ActsOnBits.meets_elem {i : Instr} {o : Ops} {rel : (n : Nat) → BitVec n → BitVec n → BitVec n → Prop}
    {op : Nat → Nat → Nat → Nat} (h : ActsOnBits i o rel op) {t : Nat} (ht : t ≤ 7) (x y : BitVec (tyBits t)) :
    rel (tyBits t) x y (BitVec.ofNat (tyBits t) (op (tyBits t) x.toNat y.toNat)) := by
  obtain ⟨m, hm⟩ := eight_dvd_tyBits ht
  generalize tyBits t = n at hm x y ⊢
  subst hm
  exact h.meets m x y

/-! ### Types of one element (R250, R251) -/

theorem accWord_eq_false {t : Nat} (h2 : t ≠ 2) (h3 : t ≠ 3) (h6 : t ≠ 6) (h7 : t ≠ 7) : accWord t = false := by
  simp [accWord, h2, h3, h6, h7]

/-- A word type is a type of R114 that has an element, of no more than a pair's width. -/
theorem word_of_accWord {t : Nat} (h : accWord t = true) : t ≤ 14 ∧ 0 < tyElems t ∧ tyBits t ≤ 64 := by
  obtain ((rfl | rfl) | rfl) | rfl : ((t = 2 ∨ t = 3) ∨ t = 6) ∨ t = 7 := by simpa [accWord] using h
  all_goals decide

theorem setWidth_packElems {t n : Nat} (ht : t ≤ 14) (hk : 0 < tyElems t) (hn : tyBits t = n) (f : Nat → Nat × Flags) :
    (packElems t f).1.setWidth n = BitVec.ofNat n (f 0).1 := by
  subst hn
  apply BitVec.eq_of_getLsbD_eq
  intro j hj
  have h := getLsbD_packElems ht f hk hj
  rw [Nat.mul_zero, Nat.zero_add] at h
  rw [BitVec.getLsbD_setWidth, BitVec.getLsbD_ofNat, h]

/-! ### Fields (R250) -/

/-- The field of x that BFX extracts. -/
def bfxValue (t : Nat) (x : BitVec 64) (pos len : Nat) : BitVec 64 × Flags :=
  packElems t fun _ =>
    (if len = 0 then 0 else if tyIsI t then wrapTo (tyBits t) (toSigned len (bf x pos len)) else bf x pos len, 0)

/-- What BFX does in a lane. -/
def bfxMeaning (a b : BitVec 8) (r : Run) (L : Nat) : BitVec 64 × Flags :=
  bfxValue r.T (r.src r.T a L) (fieldPos (tyBits r.T) (r.src r.T b L)) (fieldLen (tyBits r.T) (r.src r.T b L))

/-- What BFI does in a lane. -/
def bfiMeaning (d : BitVec 7) (a b : BitVec 8) (r : Run) (L : Nat) : BitVec 64 × Flags :=
  (setF (r.dval r.T d.toNat L) (fieldPos (tyBits r.T) (r.src r.T b L)) (fieldLen (tyBits r.T) (r.src r.T b L))
    (bf (r.src r.T a L) 0 (fieldLen (tyBits r.T) (r.src r.T b L))), 0)

theorem exec_bfx (w : BitVec 1) (d : BitVec 7) (a b : BitVec 8) (s : State) :
    exec (.bfx w d a b) s = vOp (.bfx w d a b) s accWord (bfxMeaning a b) := by
  show execBfx w d a b s = _
  simp only [execBfx, bfField_eq]
  rfl

theorem exec_bfi (w : BitVec 1) (d : BitVec 7) (a b : BitVec 8) (s : State) :
    exec (.bfi w d a b) s = vOp (.bfi w d a b) s accWord (bfiMeaning d a b) := by
  show execBfi w d a b s = _
  simp only [execBfi, bfField_eq]
  rfl

theorem bfxMeaning_noFlags (a b : BitVec 8) (r : Run) (L : Nat) : (bfxMeaning a b r L).2 = 0 := packElems_noFlags ..

theorem getLsbD_bfxValue {t : Nat} (ht : accWord t = true) (x : BitVec 64) (pos len : Nat) {j : Nat} (hj : j < tyBits t) :
    (bfxValue t x pos len).1.getLsbD j =
      if len = 0 then false else if j < len then x.getLsbD (pos + j) else tyIsI t && x.getLsbD (pos + len - 1) := by
  obtain ⟨ht, hk, _⟩ := word_of_accWord ht
  have h := congrArg (·.getLsbD j) (setWidth_packElems ht hk rfl fun _ =>
    (if len = 0 then 0 else if tyIsI t then wrapTo (tyBits t) (toSigned len (bf x pos len)) else bf x pos len, 0))
  simp only [BitVec.getLsbD_setWidth, BitVec.getLsbD_ofNat, decide_eq_true hj, Bool.true_and] at h
  rw [bfxValue, h]
  by_cases hlen : len = 0
  · rw [if_pos hlen, if_pos hlen, Nat.zero_testBit]
  · rw [if_neg hlen, if_neg hlen]
    cases tyIsI t with
    | true => simpa using testBit_signedField x pos hlen hj
    | false => simp [testBit_bf]

theorem getLsbD_setF_low {m : Nat} (base x : BitVec m) (pos len : Nat) {j : Nat} (hj : j < m) :
    (setF base pos len (bf x 0 len)).getLsbD j =
      if pos ≤ j ∧ j < pos + len then x.getLsbD (j - pos) else base.getLsbD j := by
  rw [getLsbD_setF _ _ _ _ hj]
  split
  next h => rw [testBit_bf, decide_eq_true (by omega), Bool.true_and, Nat.zero_add]
  next => rfl

/-! ### Scaled addresses (R251) -/

/-- B of LEA under a type: sign-extended only for i64. -/
def leaIndex (t : Nat) (y : BitVec 32) : BitVec 64 := if t = 7 then y.signExtend 64 else y.setWidth 64

/-- The address that LEA forms. -/
def leaMeaning (o : Ops) (m : Nat) (r : Run) (L : Nat) : BitVec 64 × Flags :=
  packElems r.T fun _ => ((r.src r.T o.a L).toNat + (leaIndex r.T (r.src32 o.b L)).toNat * 2 ^ m, 0)

/-- LEA's class: B is one 32-bit source. -/
def leaClass : OpClass := { uniform accWord with wb := fun _ _ => false }

theorem exec_of_leaOf {i : Instr} {o : Ops} {m : Nat} (h : leaOf i = some (o, m)) :
    HasForm i leaClass o.w o.d.toNat ∧ (Instr.shape i).a = some o.a ∧
      ∀ s, exec i s =
        vOpW i s (fun r => accWord r.T) (fun r => (tyIs64 r.T, tyIs64 r.T, false)) (leaMeaning o m) := by
  unfold leaOf at h
  split at h <;> cases h <;> exact ⟨⟨rfl, rfl, rfl⟩, rfl, fun _ => rfl⟩

theorem leaMeaning_noFlags (o : Ops) (m : Nat) (r : Run) (L : Nat) : (leaMeaning o m r L).2 = 0 := packElems_noFlags ..

theorem leaMeaning_setWidth {r : Run} (hT : accWord r.T = true) {n : Nat} (hn : tyBits r.T = n) (o : Ops) (m L : Nat) :
    (leaMeaning o m r L).1.setWidth n =
      (r.src r.T o.a L).setWidth n + (leaIndex r.T (r.src32 o.b L)).setWidth n * BitVec.ofNat n (2 ^ m) := by
  obtain ⟨ht, hk, _⟩ := word_of_accWord hT
  rw [leaMeaning, setWidth_packElems ht hk hn, BitVec.ofNat_add, BitVec.ofNat_mul, BitVec.ofNat_toNat, BitVec.ofNat_toNat]

theorem leaMeaning_word {r : Run} (hT : r.T = 2 ∨ r.T = 6) (o : Ops) (m L : Nat) :
    (leaMeaning o m r L).1.setWidth 32 = r.src32 o.a L + r.src32 o.b L * BitVec.ofNat 32 (2 ^ m) := by
  have hacc : accWord r.T = true ∧ tyBits r.T = 32 ∧ tyIs64 r.T = false ∧ r.T ≠ 7 := by
    obtain h | h := hT <;> simp [h, accWord, tyBits, tyIs64]
  obtain ⟨hacc, hn, hw, h7⟩ := hacc
  rw [leaMeaning_setWidth hacc hn, src_of_narrow r _ L hw, leaIndex, if_neg h7]
  simp

theorem leaMeaning_pair {r : Run} (hT : r.T = 3 ∨ r.T = 7) (o : Ops) (m L : Nat) :
    (leaMeaning o m r L).1 = r.srcPair o.a L + leaIndex r.T (r.src32 o.b L) * BitVec.ofNat 64 (2 ^ m) := by
  have hacc : accWord r.T = true ∧ tyBits r.T = 64 ∧ tyIs64 r.T = true := by
    obtain h | h := hT <;> simp [h, accWord, tyBits, tyIs64]
  obtain ⟨hacc, hn, hw⟩ := hacc
  simpa only [BitVec.setWidth_eq, Run.src, hw, if_true] using leaMeaning_setWidth hacc hn o m L

end Sys2Proof.Claims

namespace Sys2Proof.Proofs

open Sys2Proof.Machine Sys2Proof.Claims

/-- Settles O5: element by element from the table of patterns (R248, R249), bit by bit for the fields (R250), as an addition
of bit vectors for the addresses (R251). -/
theorem bitOperations : Obligations.BitOperations := by
  refine ⟨fun s r i o rel h hx hr => ?patterns,
    fun s r w d a b hx => ⟨fun h2 h3 h6 h7 => ?notWord, fun hr => ?bfx, fun hr => ?bfi⟩,
    fun s r i o m h hx => ⟨fun h2 h3 h6 h7 => ?leaNotWord, fun hw hv hodd => ?leaOdd, fun hr => ?lea⟩,
    rfl, fun r hT c hc => ?oddB⟩
  case patterns =>
    obtain ⟨op, hact⟩ := exec_of_bitsOf h
    have hT : r.T ≤ 7 := of_decide_eq_true (hact.form.accepts hr)
    obtain ⟨t, ht, hv⟩ := vOp_result (patternMeaning o op) hx hact.form hr
    simp only [patternMeaning_noFlags] at hv
    refine ⟨t, _, (hact.exec s).trans ht, hv, fun L _ k hk => ?_⟩
    rw [patternMeaning_elems hT o op L k hk]
    exact hact.meets_elem hT _ _
  case notWord =>
    have hacc := accWord_eq_false h2 h3 h6 h7
    exact ⟨(exec_bfx w d a b s).trans (vOp_illegal _ hx hacc), (exec_bfi w d a b s).trans (vOp_illegal _ hx hacc)⟩
  case bfx =>
    have hf : HasForm (.bfx w d a b) (uniform accWord) w d.toNat := ⟨rfl, rfl, rfl⟩
    obtain ⟨t, ht, hv⟩ := vOp_result (bfxMeaning a b) hx hf hr
    simp only [bfxMeaning_noFlags] at hv
    exact ⟨t, _, (exec_bfx w d a b s).trans ht, hv, fun L _ j hj => getLsbD_bfxValue (hf.accepts hr) _ _ _ hj⟩
  case bfi =>
    have hf : HasForm (.bfi w d a b) (uniform accWord) w d.toNat := ⟨rfl, rfl, rfl⟩
    obtain ⟨t, ht, hv⟩ := vOp_result (bfiMeaning d a b) hx hf hr
    obtain ⟨_, _, hw⟩ := word_of_accWord (hf.accepts hr)
    exact ⟨t, _, (exec_bfi w d a b s).trans ht, hv, fun L _ j hj => getLsbD_setF_low _ _ _ _ (hj.trans_le hw)⟩
  case leaNotWord =>
    obtain ⟨_, _, he⟩ := exec_of_leaOf h
    exact (he s).trans (vOpW_illegal _ hx (legal_of_not_acc _ _ _ (accWord_eq_false h2 h3 h6 h7)))
  case leaOdd =>
    obtain ⟨_, ha, he⟩ := exec_of_leaOf h
    refine (he s).trans (vOpW_illegal _ hx (Bool.eq_false_iff.2 fun hl => ?_))
    rw [hw] at hl
    have heven := ((selOk_wide_iff o.a).1 (legal_pair hl ha)).2.1 hv
    omega
  case lea =>
    obtain ⟨hf, _, he⟩ := exec_of_leaOf h
    obtain ⟨t, ht, hv⟩ :=
      vOpW_result (fun r => accWord r.T) (fun r => (tyIs64 r.T, tyIs64 r.T, false)) (leaMeaning o m) hx hf hr rfl rfl
    simp only [leaMeaning_noFlags] at hv
    refine ⟨t, _, (he s).trans ht, hv, fun L _ => ⟨fun hT => leaMeaning_word hT o m L, fun hT => ?_, fun hT => ?_⟩⟩
    · rw [leaMeaning_pair (.inl hT), leaIndex, if_neg (by omega)]
    · rw [leaMeaning_pair (.inr hT), leaIndex, if_pos hT]
  case oddB =>
    cases hc
    simp only [OpClass.legal, Run.legal, hT]
    rfl

end Sys2Proof.Proofs
end

section
/-! Dot products and packing (spec/14_integer_and_lane.md R252, R253): the sum that DOT4 and DOTQ narrow into one 32-bit value, the
two halves of PACK2, the bytes of PRMB. -/

namespace Sys2Proof.Claims

open Sys2Proof.Machine

/-- A word's value under b32 and under i32. -/
theorem intVal_word (x : BitVec 32) : intVal 2 x.toNat = x.toNat ∧ intVal 6 x.toNat = x.toInt :=
  ⟨intVal_toNat (t := 2) x, intVal_toNat (t := 6) x⟩

/-! ### Dot products (R252) -/

theorem extractLsb'_setWidth_of_le {m k : Nat} (x : BitVec m) (h : m ≤ k) (lo n : Nat) :
    (x.setWidth k).extractLsb' lo n = x.extractLsb' lo n := by
  apply BitVec.eq_of_toNat_eq
  rw [BitVec.extractLsb'_toNat, BitVec.extractLsb'_toNat, BitVec.toNat_setWidth_of_le h]

theorem fieldsOf_setWidth (n : Nat) (signed : Bool) (x : BitVec 32) :
    fieldsOf n signed (x.setWidth 64) = (List.range (32 / n)).map fun k =>
      if signed = true then (x.extractLsb' (n * k) n).toInt else ((x.extractLsb' (n * k) n).toNat : Int) := by
  simp only [fieldsOf, bf_eq_toNat, extractLsb'_setWidth_of_le x (show 32 ≤ 64 by decide), toSigned_eq_toInt, BitVec.ofNat_toNat,
    BitVec.setWidth_eq]

theorem foldl_fieldsOf_eq_dotSum (n : Nat) (signed : Bool) (c : Int) (x y : BitVec 32) :
    ((fieldsOf n signed (x.setWidth 64)).zip (fieldsOf n signed (y.setWidth 64))).foldl (fun c p => c + p.1 * p.2) c =
      dotSum n signed c x y := by
  rw [fieldsOf_setWidth, fieldsOf_setWidth, List.zip_map', List.foldl_map]
  rfl

/-- The types that DOT4 and DOTQ accept: b8 and i8. -/
def accByte (t : Nat) : Bool := t == 0 || t == 4

/-- The type as which D is read and written. -/
def dotAcc (t : Nat) : Nat := if t == 4 then 6 else 2

theorem dotAcc_eq (t : Nat) : dotAcc t = if t = 4 then 6 else 2 := by simp [dotAcc]

theorem dotAcc_word (t : Nat) : dotAcc t ≤ 14 ∧ tyElems (dotAcc t) = 1 ∧ tyBits (dotAcc t) = 32 := by
  unfold dotAcc
  split <;> decide

/-- What DOT4 and DOTQ do in a lane. -/
def dotMeaning (o : Ops) (n : Nat) (r : Run) (L : Nat) : BitVec 64 × Flags :=
  packElems (dotAcc r.T) fun _ => narrowInt (gmSat r.path.gm) (dotAcc r.T)
    (((fieldsOf n (r.T == 4) (r.src r.T o.a L)).zip (fieldsOf n (r.T == 4) (r.src r.T o.b L))).foldl (fun c x => c + x.1 * x.2)
      (intVal (dotAcc r.T) (r.dval r.T o.d.toNat L).toNat))

theorem exec_of_dotOf {i : Instr} {o : Ops} {n : Nat} (h : dotOf i = some (o, n)) :
    HasForm i (uniform accByte) o.w o.d.toNat ∧ ∀ s, exec i s = vOp i s accByte (dotMeaning o n) := by
  unfold dotOf at h
  split at h <;> cases h <;> exact ⟨⟨rfl, rfl, rfl⟩, fun _ => rfl⟩

/-- The exact sum of a lane. -/
def dotExact (o : Ops) (n : Nat) (r : Run) (L : Nat) : Int :=
  dotSum n (r.T == 4)
    (if r.T = 4 then (r.group.vreg o.d.toNat L).toInt else ((r.group.vreg o.d.toNat L).toNat : Int)) (r.src32 o.a L) (r.src32 o.b L)

theorem dotMeaning_eq {r : Run} (hw : tyIs64 r.T = false) (o : Ops) (n L : Nat) :
    dotMeaning o n r L =
      packElems (dotAcc r.T) fun _ => narrowInt (r.path.gm.getLsbD 13) (dotAcc r.T) (dotExact o n r L) := by
  have hd : intVal (dotAcc r.T) (r.dval r.T o.d.toNat L).toNat =
      if r.T = 4 then (r.group.vreg o.d.toNat L).toInt else ((r.group.vreg o.d.toNat L).toNat : Int) := by
    obtain ⟨hb, hi⟩ := intVal_word (r.group.vreg o.d.toNat L)
    rw [dval_of_narrow r _ L hw, BitVec.toNat_setWidth_of_le (by decide), dotAcc_eq]
    split
    · exact hi
    · exact hb
  rw [dotMeaning, hd, src_of_narrow r _ L hw, src_of_narrow r _ L hw, foldl_fieldsOf_eq_dotSum]
  rfl

/-! ### PACK2 (R253) -/

/-- What PACK2 does in a lane. -/
def pack2Meaning (a b : BitVec 8) (r : Run) (L : Nat) : BitVec 64 × Flags :=
  packElems r.T fun k =>
    narrowInt (gmSat r.path.gm) r.T (intVal (r.T + 1) (if k = 0 then r.src32 a L else r.src32 b L).toNat)

theorem exec_pack2 (w : BitVec 1) (d : BitVec 7) (a b : BitVec 8) (s : State) :
    exec (.pack2 w d a b) s = vOp (.pack2 w d a b) s (fun t => t == 1 || t == 5) (pack2Meaning a b) := rfl

/-- A 32-bit value read as b32 or i32, to match b16 or i16. -/
def packNum (t : Nat) (x : BitVec 32) : Int := if t = 5 then x.toInt else (x.toNat : Int)

theorem intVal_succ_eq_packNum {t : Nat} (ht : t = 1 ∨ t = 5) (x : BitVec 32) : intVal (t + 1) x.toNat = packNum t x := by
  obtain rfl | rfl := ht
  · exact (intVal_word x).1
  · exact (intVal_word x).2

theorem setWidth_packElems_halves {t : Nat} (ht : t = 1 ∨ t = 5) (f : Nat → Nat × Flags) :
    (packElems t f).1.setWidth 32 = BitVec.ofNat 16 (f 1).1 ++ BitVec.ofNat 16 (f 0).1 := by
  have hty : t ≤ 14 ∧ tyElems t = 2 ∧ tyBits t = 16 := by obtain rfl | rfl := ht <;> decide
  obtain ⟨h14, hk, hb⟩ := hty
  have hbit (k j : Nat) (hk2 : k < 2) (hj : j < 16) : (packElems t f).1.getLsbD (16 * k + j) = (f k).1.testBit j := by
    rw [← hb]
    exact getLsbD_packElems h14 f (by omega) (by omega)
  apply BitVec.eq_of_getLsbD_eq
  intro j hj
  rw [BitVec.getLsbD_setWidth, BitVec.getLsbD_append, BitVec.getLsbD_ofNat, BitVec.getLsbD_ofNat, decide_eq_true hj, Bool.true_and]
  by_cases hlo : j < 16
  · have h := hbit 0 j (by decide) hlo
    rw [Nat.mul_zero, Nat.zero_add] at h
    simp [h, hlo]
  · have hhi : j - 16 < 16 := by omega
    have h := hbit 1 (j - 16) (by decide) hhi
    rw [show 16 * 1 + (j - 16) = j by omega] at h
    simp [h, hlo, hhi]

theorem pack2Meaning_value {r : Run} (hT : r.T = 1 ∨ r.T = 5) (a b : BitVec 8) (L : Nat) :
    (pack2Meaning a b r L).1.setWidth 32 =
      narrowed (r.path.gm.getLsbD 13) r.T 16 (packNum r.T (r.src32 b L)) ++
        narrowed (r.path.gm.getLsbD 13) r.T 16 (packNum r.T (r.src32 a L)) := by
  have hb : tyBits r.T = 16 := by obtain h | h := hT <;> rw [h] <;> rfl
  rw [pack2Meaning, setWidth_packElems_halves hT, ofNat_narrowInt _ hb, ofNat_narrowInt _ hb, intVal_succ_eq_packNum hT,
    intVal_succ_eq_packNum hT]
  rfl

theorem exists_lt_two_iff {P : Nat → Prop} : (∃ k, k < 2 ∧ P k) ↔ P 0 ∨ P 1 := by
  simp only [Nat.exists_lt_succ_right, Nat.not_lt_zero, false_and, exists_false, false_or]

theorem pack2Meaning_flags {r : Run} (hT : r.T = 1 ∨ r.T = 5) (a b : BitVec 8) (L : Nat) :
    (pack2Meaning a b r L).2 =
      if r.path.gm.getLsbD 13 = true ∧ (clamp r.T (packNum r.T (r.src32 a L)) ≠ packNum r.T (r.src32 a L) ∨
        clamp r.T (packNum r.T (r.src32 b L)) ≠ packNum r.T (r.src32 b L)) then fSAT else 0 := by
  have hk : tyElems r.T = 2 := by obtain h | h := hT <;> rw [h] <;> rfl
  refine (packElems_oneFlag fun k => narrowInt_flags ..).trans ?_
  simp only [hk, exists_lt_two_iff, intVal_succ_eq_packNum hT, gmSat, ← and_or_left, if_true, one_ne_zero, if_false]

/-! ### PRMB (R253) -/

/-- What PRMB does in a lane. -/
def prmbMeaning (d : BitVec 7) (a b : BitVec 8) (r : Run) (L : Nat) : BitVec 64 × Flags :=
  packElems 0 fun j =>
    let c := bf (r.group.vreg d.toNat L) (4 * j) 4
    let y := bf (r.src32 b L ++ r.src32 a L) (8 * (c % 8)) 8
    (if c < 8 then y else if 128 ≤ y then 255 else 0, 0)

theorem exec_prmb (w : BitVec 1) (d : BitVec 7) (a b : BitVec 8) (s : State) :
    exec (.prmb w d a b) s = vOp (.prmb w d a b) s (fun t => t == 2) (prmbMeaning d a b) := rfl

theorem prmbMeaning_noFlags (d : BitVec 7) (a b : BitVec 8) (r : Run) (L : Nat) : (prmbMeaning d a b r L).2 = 0 :=
  packElems_noFlags ..

/-- Eight copies of a byte's top bit. -/
theorem testBit_signByte {y i : Nat} (hy : y < 2 ^ 8) (hi : i < 8) :
    (if 128 ≤ y then 255 else 0 : Nat).testBit i = y.testBit 7 := by
  rw [Nat.testBit_eq_decide_div_mod_eq (x := y)]
  split
  next h =>
    rw [show 255 = 2 ^ 8 - 1 from rfl, Nat.testBit_two_pow_sub_one, decide_eq_true hi, decide_eq_true (by omega)]
  next h => rw [Nat.zero_testBit, decide_eq_false (by omega)]

theorem getLsbD_prmbMeaning (d : BitVec 7) (a b : BitVec 8) (r : Run) (L : Nat) {j i : Nat} (hj : j < 4) (hi : i < 8) :
    (prmbMeaning d a b r L).1.getLsbD (8 * j + i) =
      (r.src32 b L ++ r.src32 a L).getLsbD (8 * (((r.group.vreg d.toNat L).extractLsb' (4 * j) 4).toNat % 8) +
        if 8 ≤ ((r.group.vreg d.toNat L).extractLsb' (4 * j) 4).toNat then 7 else i) := by
  refine (getLsbD_packElems (t := 0) (by decide) _ hj hi).trans ?_
  simp only [← bf_eq_toNat]
  by_cases hc : bf (r.group.vreg d.toNat L) (4 * j) 4 < 8
  · rw [if_pos hc, if_neg (Nat.not_le.2 hc), testBit_bf, decide_eq_true hi, Bool.true_and]
  · rw [if_neg hc, if_pos (Nat.not_lt.1 hc), testBit_signByte (y := bf _ _ 8) (Nat.mod_lt _ (by decide)) hi, testBit_bf]
    rfl

end Sys2Proof.Claims

namespace Sys2Proof.Proofs

open Sys2Proof.Machine Sys2Proof.Claims

/-- Settles O6: the sum of R252 narrowed into one word, and the halves and bytes of R253. -/
theorem dotProductsAndPacking : Obligations.DotProductsAndPacking := by
  refine ⟨fun s r i o n h hx => ?dot, fun s r w d a b hx => ⟨fun h1 h5 => ?packIllegal, fun h2 => ?prmbIllegal,
    fun hr => ?pack, fun hr => ?prmb⟩⟩
  case dot =>
    obtain ⟨hf, he⟩ := exec_of_dotOf h
    refine ⟨fun h0 h4 => (he s).trans (vOp_illegal _ hx (by simp [accByte, h0, h4])), fun hr => ?_⟩
    have hT : r.T = 0 ∨ r.T = 4 := by simpa [uniform, accByte] using hf.accepts hr
    have hw : tyIs64 r.T = false := by obtain h | h := hT <;> rw [h] <;> rfl
    obtain ⟨t, ht, hv⟩ := vOp_result (dotMeaning o n) hx hf hr
    obtain ⟨h14, hone, hbits⟩ := dotAcc_word r.T
    rw [hw] at hv
    refine ⟨t, _, _, (he s).trans ht, hv, fun L _ => ?_⟩
    dsimp only
    rw [dotMeaning_eq hw, setWidth_packElems h14 (by omega) hbits, packElems_flags_one hone, ofNat_narrowInt _ hbits,
      narrowInt_flags, dotAcc_eq]
    exact ⟨rfl, rfl⟩
  case packIllegal =>
    exact (exec_pack2 w d a b s).trans (vOp_illegal _ hx (by simp [h1, h5]))
  case prmbIllegal =>
    exact (exec_prmb w d a b s).trans (vOp_illegal _ hx (by simp [h2]))
  case pack =>
    have hf : HasForm (.pack2 w d a b) (uniform fun t => t == 1 || t == 5) w d.toNat := ⟨rfl, rfl, rfl⟩
    have hT : r.T = 1 ∨ r.T = 5 := by simpa [uniform] using hf.accepts hr
    have hw : tyIs64 r.T = false := by obtain h | h := hT <;> rw [h] <;> rfl
    obtain ⟨t, ht, hv⟩ := vOp_result (pack2Meaning a b) hx hf hr
    rw [hw] at hv
    exact ⟨t, _, _, (exec_pack2 w d a b s).trans ht, hv, fun L _ =>
      ⟨pack2Meaning_value hT a b L, pack2Meaning_flags hT a b L⟩⟩
  case prmb =>
    have hf : HasForm (.prmb w d a b) (uniform fun t => t == 2) w d.toNat := ⟨rfl, rfl, rfl⟩
    have hT : r.T = 2 := by simpa [uniform] using hf.accepts hr
    obtain ⟨t, ht, hv⟩ := vOp_result (prmbMeaning d a b) hx hf hr
    simp only [prmbMeaning_noFlags, hT] at hv
    exact ⟨t, _, (exec_prmb w d a b s).trans ht, hv, fun L _ j i hj hi => getLsbD_prmbMeaning d a b r L hj hi⟩

end Sys2Proof.Proofs
end

section
/-! Compares and predicates (spec/14_integer_and_lane.md R254-R256): a mask of lanes bit by bit, the relation of each compare, the
predicate operands, and the eight predicates that PGET gathers. -/

namespace Sys2Proof.Claims

open Sys2Proof.Machine

/-! ### Masks of lanes (R242) -/

theorem getLsbD_foldl_lanes (f : Nat → Bool) (l : List Nat) (m : BitVec 32) {L : Nat} (hL : L < 32) :
    (l.foldl (fun m L => if f L then m ||| (1#32 <<< L) else m) m).getLsbD L = (m.getLsbD L || (decide (L ∈ l) && f L)) := by
  induction l generalizing m with
  | nil => simp
  | cons k l ih =>
    have hbit : (1#32 <<< k).getLsbD L = decide (L = k) := by
      rw [← BitVec.twoPow_eq, BitVec.getLsbD_twoPow]
      simp [eq_comm]
      omega
    rw [List.foldl_cons, ih]
    by_cases hk : L = k
    · subst hk
      cases f L <;> simp [hbit]
    · cases f k <;> simp [hbit, hk]

theorem getLsbD_laneMask (f : Nat → Bool) {L : Nat} (hL : L < 32) : (laneMask f).getLsbD L = f L := by
  rw [laneMask, getLsbD_foldl_lanes f _ _ hL]
  simp [mem_lanes32, hL]

/-! ### Compares (R254) -/

theorem cmpElem_eq_order (t : Nat) (ftz : Bool) (x y : BitVec (tyBits t)) :
    cmpElem t ftz x.toNat y.toNat = order t ftz x y := by
  simp only [cmpElem, order, intVal_toNat, tyIsInt, decide_eq_true_eq]

/-- The order of element k of A and B in a lane. -/
def laneOrder (r : Run) (a b : BitVec 8) (L k : Nat) : Option Ordering :=
  order r.T (r.path.gm.getLsbD 14) (el (tyBits r.T) (r.src r.T a L) k) (el (tyBits r.T) (r.src r.T b L) k)

theorem getLsbD_cmpAll (r : Run) (a b : BitVec 8) (rel : Option Ordering → Bool) {L : Nat} (hL : L < 32) :
    (r.cmpAll a b rel).getLsbD L = true ↔ ∀ k, k < tyElems r.T → rel (laneOrder r a b L k) = true := by
  rw [Run.cmpAll, getLsbD_laneMask _ hL, List.all_eq_true]
  simp only [List.mem_range, ← toNat_el, cmpElem_eq_order]
  rfl

/-- The table of R254 says what the model's instructions do. -/
theorem exec_of_relOf {i : Instr} {d : BitVec 3} {a b : BitVec 8} {rel : Option Ordering → Prop}
    (h : relOf i = some (d, a, b, rel)) :
    HasForm i (narrowD accCmp) 0 d.toNat ∧
      ∃ test : Option Ordering → Bool, (∀ o, test o = true ↔ rel o) ∧
        ∀ s, exec i s = pOp i s accCmp fun r => r.cmpAll a b test := by
  unfold relOf at h
  split at h <;> cases h <;> refine ⟨⟨rfl, rfl, rfl⟩, ?_⟩
  -- CEQ, CLT, CLE, CGT, CGE
  case h_1 => exact ⟨fun o => o == some .eq, fun _ => beq_iff_eq, fun _ => rfl⟩
  case h_2 => exact ⟨fun o => o == some .lt, fun _ => beq_iff_eq, fun _ => rfl⟩
  case h_3 => exact ⟨fun o => o == some .lt || o == some .eq, fun _ => by simp, fun _ => rfl⟩
  case h_4 => exact ⟨fun o => o == some .gt, fun _ => beq_iff_eq, fun _ => rfl⟩
  case h_5 => exact ⟨fun o => o == some .gt || o == some .eq, fun _ => by simp, fun _ => rfl⟩

/-- The lanes where CNE holds. -/
def cneMask (a b : BitVec 8) (r : Run) : BitVec 32 := ~~~(r.cmpAll a b fun o => o == some .eq)

theorem exec_cne (d : BitVec 3) (a b : BitVec 8) (s : State) :
    exec (.cne d a b) s = pOp (.cne d a b) s accCmp (cneMask a b) := rfl

theorem getLsbD_cneMask (a b : BitVec 8) (r : Run) {L : Nat} (hL : L < 32) :
    (cneMask a b r).getLsbD L = true ↔ ∃ k, k < tyElems r.T ∧ laneOrder r a b L k ≠ some .eq := by
  have h := not_congr (getLsbD_cmpAll r a b (fun o => o == some .eq) hL)
  rw [cneMask, BitVec.getLsbD_not, decide_eq_true hL, Bool.true_and, Bool.not_eq_true', ← Bool.not_eq_true, h]
  simp only [not_forall, beq_iff_eq, exists_prop]

/-! ### CUN and CTST (R255) -/

/-- Whether element k of a selector is a NaN in a lane. -/
def nanElem (r : Run) (a : BitVec 8) (L k : Nat) : Bool :=
  ((fmtOf r.T).decode (el (tyBits r.T) (r.src r.T a L) k).toNat).isNaN

/-- The lanes where CUN holds. -/
def cunMask (a b : BitVec 8) (r : Run) : BitVec 32 :=
  laneMask fun L => (List.range (tyElems r.T)).any fun k => nanElem r a L k || nanElem r b L k

/-- The lanes where CTST holds. -/
def ctstMask (a b : BitVec 8) (r : Run) : BitVec 32 := laneMask fun L => r.src r.T a L &&& r.src r.T b L != 0

theorem exec_cun (d : BitVec 3) (a b : BitVec 8) (s : State) :
    exec (.cun d a b) s = pOp (.cun d a b) s (fun t => decide (8 ≤ t) && decide (t ≤ 13)) (cunMask a b) := by
  show execCun d a b s = _
  simp only [execCun, ← toNat_el]
  rfl

theorem exec_ctst (d : BitVec 3) (a b : BitVec 8) (s : State) :
    exec (.ctst d a b) s = pOp (.ctst d a b) s accInt (ctstMask a b) := rfl

theorem getLsbD_cunMask (a b : BitVec 8) (r : Run) {L : Nat} (hL : L < 32) :
    (cunMask a b r).getLsbD L = true ↔ ∃ k, k < tyElems r.T ∧ (nanElem r a L k = true ∨ nanElem r b L k = true) := by
  rw [cunMask, getLsbD_laneMask _ hL, List.any_eq_true]
  simp only [List.mem_range, Bool.or_eq_true]

theorem and_ne_zero_iff {n : Nat} (x y : BitVec n) : x &&& y ≠ 0 ↔ ∃ j, x.getLsbD j = true ∧ y.getLsbD j = true := by
  simp only [← Bool.and_eq_true, ← BitVec.getLsbD_and]
  constructor
  · intro h
    by_contra hno
    exact h (BitVec.eq_of_getLsbD_eq fun j _ => (Bool.eq_false_iff.2 fun hj => hno ⟨j, hj⟩).trans BitVec.getLsbD_zero.symm)
  · rintro ⟨j, hj⟩ h
    simp [h] at hj

theorem getLsbD_ctstMask (a b : BitVec 8) (r : Run) {L : Nat} (hL : L < 32) :
    (ctstMask a b r).getLsbD L = true ↔ ∃ j, (r.src r.T a L).getLsbD j = true ∧ (r.src r.T b L).getLsbD j = true := by
  rw [ctstMask, getLsbD_laneMask _ hL, bne_iff_ne, and_ne_zero_iff]

/-! ### Predicate operations (R256) -/

theorem getLsbD_predOp (r : Run) (n : BitVec 1) (a : BitVec 3) {L : Nat} (hL : L < 32) :
    (r.predOp n a).getLsbD L = predIn r n a L := by
  have hpred : (r.group.pred a.toNat).getLsbD L = if a = 0 then true else (CMap.get r.group.p a.toNat).getLsbD L := by
    rw [Group.pred]
    by_cases ha : a = 0
    · subst ha
      exact getLsbD_laneMask (fun _ => true) hL
    · have hn : a.toNat ≠ 0 := fun h => ha (BitVec.eq_of_toNat_eq h)
      rw [if_neg ha, if_neg hn]
  rw [predIn, ← hpred, Run.predOp]
  obtain rfl | rfl := BitVec.eq_zero_or_eq_one n
  · simp
  · simp [hL]

/-- The class of the predicate instructions: gm.T is not read, nothing is a pair. -/
def predClass : OpClass := ⟨fun t _ => accAny t, fun _ _ => false, fun _ _ => false, fun _ _ => false⟩

theorem predOp2_result {s : State} {r : Run} {i : Instr} {d : Nat} (f : Run → BitVec 32) (hx : Executing s r)
    (hf : HasForm i predClass 0 d) (hr : Runs r i) :
    ∃ t, predOp2 i s f = .next t ∧ PResult s t r d fun L => (f r).getLsbD L := by
  obtain ⟨hl, _⟩ := hf.passes hr
  refine ⟨s.finishP r (Instr.shape i).d (f r), (withRun_some hx _).trans (checked_pass s r _ hl rfl), ?_⟩
  rw [hf.d]
  exact finishP_result s r d (f r)

/-- The table of R256 says what the model's instructions do. -/
theorem exec_of_predOf {i : Instr} {d : BitVec 3} {f : Run → Nat → Bool} (h : predOf i = some (d, f)) :
    HasForm i predClass 0 d.toNat ∧
      ∃ mask : Run → BitVec 32, (∀ r L, L < 32 → (mask r).getLsbD L = f r L) ∧ ∀ s, exec i s = predOp2 i s mask := by
  unfold predOf at h
  split at h <;> cases h <;> refine ⟨⟨rfl, rfl, rfl⟩, ?_⟩
  -- PAND, POR, PXOR, PNOT, PMOV
  case h_1 d n a m b =>
    exact ⟨fun r => r.predOp n a &&& r.predOp m b, fun r L hL => by
      simp only [BitVec.getLsbD_and, getLsbD_predOp r _ _ hL], fun _ => rfl⟩
  case h_2 d n a m b =>
    exact ⟨fun r => r.predOp n a ||| r.predOp m b, fun r L hL => by
      simp only [BitVec.getLsbD_or, getLsbD_predOp r _ _ hL], fun _ => rfl⟩
  case h_3 d n a m b =>
    exact ⟨fun r => r.predOp n a ^^^ r.predOp m b, fun r L hL => by
      simp only [BitVec.getLsbD_xor, getLsbD_predOp r _ _ hL], fun _ => rfl⟩
  case h_4 d n a =>
    exact ⟨fun r => ~~~(r.predOp n a), fun r L hL => by
      rw [BitVec.getLsbD_not, decide_eq_true hL, Bool.true_and, getLsbD_predOp r n a hL], fun _ => rfl⟩
  case h_5 d n a => exact ⟨fun r => r.predOp n a, fun r L hL => getLsbD_predOp r n a hL, fun _ => rfl⟩

/-! ### PGET (R256) -/

/-- What PGET does in a lane. -/
def pgetMeaning (r : Run) (L : Nat) : BitVec 64 × Flags :=
  (BitVec.ofNat 64 ((List.range 8).foldl (fun x i => x + if (r.group.pred i).getLsbD L then 2 ^ i else 0) 0), 0)

theorem exec_pget (w : BitVec 1) (d : BitVec 7) (s : State) :
    exec (.pget w d) s = vOpW (.pget w d) s (fun r => accAny r.T) (fun _ => (false, false, false)) pgetMeaning := rfl

theorem getLsbD_pgetMeaning (r : Run) (L j : Nat) :
    (pgetMeaning r L).1.getLsbD j = (decide (j < 8) && (r.group.pred j).getLsbD L) := by
  rw [pgetMeaning, foldl_add_range, BitVec.getLsbD_ofNat, testBit_sum_bits fun i => (r.group.pred i).getLsbD L]
  by_cases hj : j < 8
  · rw [decide_eq_true (show j < 64 by omega), Bool.true_and]
  · rw [decide_eq_false hj, Bool.false_and, Bool.and_false]

theorem pget_runs {r : Run} (d : BitVec 7) (hT : r.T ≤ 14) : Runs r (.pget 0 d) := by
  refine ⟨predClass, rfl, ?_, ?_⟩
  · simp [OpClass.legal, predClass, Run.legal, Instr.shape, Shape.ok, accAny, hT]
  · simp [OpClass.dead, Run.deadOf, Instr.shape]

end Sys2Proof.Claims

namespace Sys2Proof.Proofs

open Sys2Proof.Machine Sys2Proof.Claims

/-- Settles O8: the masks of lanes of the compares (R254), of CUN and CTST (R255) and of the predicate operations (R256),
bit by bit. -/
theorem comparesAndPredicates : Obligations.ComparesAndPredicates := by
  refine ⟨fun s r hx => ⟨fun i d a b rel h hr => ?compare, fun d a b hr => ?cne⟩,
    fun s r d a b hx => ⟨fun hT => ?cunIllegal, fun hT => ?ctstIllegal, fun hr => ?cun, fun hr => ?ctst⟩,
    fun s r hx => ⟨fun i d f h hr => ?pred, fun w d hr => ?pget, fun d hT => pget_runs d hT⟩⟩
  case compare =>
    obtain ⟨hf, test, htest, he⟩ := exec_of_relOf h
    obtain ⟨t, ht, hp⟩ := pOp_result (fun r => r.cmpAll a b test) hx hf hr
    exact ⟨t, _, (he s).trans ht, hp, fun L hL => (getLsbD_cmpAll r a b test hL.1).trans <|
      forall₂_congr fun k _ => htest (laneOrder r a b L k)⟩
  case cne =>
    have hf : HasForm (.cne d a b) (narrowD accCmp) 0 d.toNat := ⟨rfl, rfl, rfl⟩
    obtain ⟨t, ht, hp⟩ := pOp_result (cneMask a b) hx hf hr
    exact ⟨t, _, (exec_cne d a b s).trans ht, hp, fun L hL => getLsbD_cneMask a b r hL.1⟩
  case cunIllegal =>
    exact (exec_cun d a b s).trans (pOp_illegal _ hx (by simp; omega))
  case ctstIllegal =>
    exact (exec_ctst d a b s).trans (pOp_illegal _ hx (decide_eq_false (Nat.not_le.2 hT)))
  case cun =>
    have hf : HasForm (.cun d a b) (narrowD fun t => decide (8 ≤ t) && decide (t ≤ 13)) 0 d.toNat := ⟨rfl, rfl, rfl⟩
    obtain ⟨t, ht, hp⟩ := pOp_result (cunMask a b) hx hf hr
    exact ⟨t, _, (exec_cun d a b s).trans ht, hp, fun L hL => getLsbD_cunMask a b r hL.1⟩
  case ctst =>
    have hf : HasForm (.ctst d a b) (narrowD accInt) 0 d.toNat := ⟨rfl, rfl, rfl⟩
    obtain ⟨t, ht, hp⟩ := pOp_result (ctstMask a b) hx hf hr
    exact ⟨t, _, (exec_ctst d a b s).trans ht, hp, fun L hL => getLsbD_ctstMask a b r hL.1⟩
  case pred =>
    obtain ⟨hf, mask, hmask, he⟩ := exec_of_predOf h
    obtain ⟨t, ht, hp⟩ := predOp2_result mask hx hf hr
    exact ⟨t, _, (he s).trans ht, hp, fun L hL => hmask r L hL.1⟩
  case pget =>
    have hf : HasForm (.pget w d) predClass w d.toNat := ⟨rfl, rfl, rfl⟩
    obtain ⟨t, ht, hv⟩ := vOpW_result (fun r => accAny r.T) (fun _ => (false, false, false)) pgetMeaning hx hf hr rfl rfl
    refine ⟨t, _, (exec_pget w d s).trans ht, hv, fun L hL n => ⟨?_, fun j hj => ?_⟩⟩
    · rw [getLsbD_pgetMeaning, decide_eq_true n.isLt, Bool.true_and]
      exact getLsbD_predOp r 0 n hL.1
    · rw [getLsbD_pgetMeaning, decide_eq_false (Nat.not_lt.2 hj), Bool.false_and]

end Sys2Proof.Proofs
end
